-- ==== Sys2Proof/Word.lean ====
section
/-!
DEFINITION. Word.lean: the words of the device and their plainest arithmetic (R12: little-endian,
bit 0 the least significant).
-/
namespace Sys2Proof

/-- One byte (R12). -/
abbrev Byte := BitVec 8

/-- A 32-bit register word (R41). -/
abbrev W32 := BitVec 32

/-- A 64-bit word (axis positions, doorbell arguments). -/
abbrev W64 := BitVec 64

/-- A 24-bit engine word (R206). -/
abbrev W24 := BitVec 24

/-- A 56-bit engine accumulator (R206). -/
abbrev W56 := BitVec 56

/-- A 48-bit global address (R37). -/
abbrev GAddr := BitVec 48

end Sys2Proof
end

