-- ==== Sys2Proof/Syntax.lean ====
section
/-!
DEFINITION. Syntax.lean: the commands the block takes, one constructor of `Instr` per row of
spec/opcode_table.json, and the types of their operands. A command is a mailbox command of an owner, a register
access, a JTAG instruction, an engine instruction, or an event of the device's own sequencers, of its clocks or of
the outside (95, what each step holds).
-/
namespace Sys2Proof

/-- A mailbox page: 0 to 31 are the mailboxes of R396, 32 is the JTAG page of R463. -/
abbrev Mb := Fin 33
/-- An owner (R7). -/
abbrev Owner := Fin 16
/-- A position axis (R44). -/
abbrev AxisId := Fin 16
/-- A signal engine (R201). -/
abbrev EngineId := Fin 128
/-- A kit of eight engines (R201). -/
abbrev KitId := Fin 16
/-- A fabric sector (R101). -/
abbrev SectorId := Fin 96
/-- A queue (R247). -/
abbrev QueueId := Fin 262144
/-- An engine group (R257). -/
abbrev GroupId := Fin 16
/-- A fabric PLL (R118). -/
abbrev PllId := Fin 24
/-- A capture unit (R74). -/
abbrev CapId := Fin 64
/-- A trigger pin (R68). -/
abbrev PinCode := Fin 32
/-- A strike slot (R55). -/
abbrev SlotId := Fin 65536
/-- An overlay region (R179). -/
abbrev RegionId := Fin 32
/-- A router of the network (R274). -/
abbrev RouterId := Fin 140
/-- An entry of the contract table (R297). -/
abbrev ContractId := Fin 16384
/-- A DRAM port (R318). -/
abbrev PortId := Fin 8

/-- Who issues an access: the belfry, a PCIe function, a sector's fabric port, a kit or one of its engines, an
Ethernet MAC, a ring peer, a debug session's master, the JTAG page, or a hardware unit
(queue, strike or capture unit) that acts for an owner (R23). -/
inductive Initiator where
  | belfry
  | pf (fn : Fin 2)
  | sector (s : SectorId)
  | kit (k : KitId)
  | engine (g : EngineId)
  | mac (n : Fin 2)
  | ring (p : Fin 2) (src : Fin 16)
  | debug (i : Fin 4)
  | jtag
  | unit (o : Owner)
  deriving DecidableEq, Repr

/-- What a checked read of a frame, word or flit finds: clean, one error put right, or beyond the code. -/
inductive Finding where
  | clean
  | corrected
  | uncorrectable
  deriving DecidableEq, Repr

/-- What the line code of a DRAM port finds (R323): clean, symbols of one device corrected, or uncorrectable. -/
inductive LineFinding where
  | clean
  | corrected (rank : Fin 2) (dev : Fin 10) (symbols : Fin 9)
  | uncorrectable
  deriving DecidableEq, Repr

/-- What the memory encryption engine finds when it verifies a line (R351, R356). -/
inductive MxeFinding where
  | ok
  | tagFail
  | treeFail
  | memError
  deriving DecidableEq, Repr

/-- One move of a parallel instruction (R232): MODE with the SPACE bit above it (4 × SPACE + MODE), PTR, NIDX, DIR and
REG. -/
inductive Move where
  | none
  | mv (mode : Fin 8) (ptr : Fin 4) (nidx : Fin 4) (store : Bool) (reg : Fin 32)
  deriving DecidableEq, Repr

/-- The address of a MOVEM (R236). -/
inductive MemAddr where
  | abs (a : BitVec 13)
  | ptr (mode : Fin 8) (p : Fin 4) (nidx : Fin 4)
  deriving DecidableEq, Repr

/-- The second operand of a D-register operation (R237). -/
inductive DSrc where
  | reg (r : Fin 8)
  | imm (v : BitVec 15)
  deriving DecidableEq, Repr

/-- The interrupts an engine accepts at an instruction boundary (R211). -/
inductive IntVector where
  | debug
  | urge
  | software
  deriving DecidableEq, Repr

/-- A memory of an engine or of its kit (R203). -/
inductive EngMem where
  | p
  | x
  | y
  | kit
  deriving DecidableEq, Repr

/-- Who uses the side channel of the vault's dual-port part (R313). -/
inductive SideRequester where
  | kit (k : Fin 4)
  | sector (i : Fin 4)
  deriving DecidableEq, Repr

/-- A block that has a block reset (R432). -/
inductive Block where
  | kit (k : KitId)
  | fport (s : SectorId)
  | vport (v : Fin 4)
  | dport (k : PortId)
  | lane (k : Fin 8)
  | ring (p : Fin 2)
  | pcie
  deriving DecidableEq, Repr

/-- What the training of a DRAM port finds (R321, R337, R359): ranks, density, rate, the bounds at both rates and
the metadata bound. -/
structure TrainResult where
  ranks : Bool
  density : Bool
  rate : Byte
  b1x : BitVec 16
  b2x : BitVec 16
  tm : BitVec 16
  deriving DecidableEq, Repr

/-- The host's completion of an outbound request (R366). -/
inductive HostReply where
  | data (b : List Byte)
  | done
  | unsupported
  | poisoned (b : List Byte)
  deriving DecidableEq, Repr

/-- The outcome of training a port's segments (R380, R381): the port, the rate reached, the segment latency in 1/256 ns,
the bypassed devices in the segment, the ring ID of the leader, the ring IDs reached over the port, and whether the own ring
ID is a duplicate. -/
structure SegmentTrain where
  port : Fin 2
  rate : Fin 6
  latency : BitVec 24
  bypassed : Fin 8
  leaderId : Fin 16
  peers : BitVec 16
  conflict : Bool
  deriving DecidableEq, Repr

/-- The content of an AXIS cell (R384). -/
structure AxisCell where
  ax : AxisId
  pos : W64
  rate : W64
  timeAxis : Bool
  epoch : Byte
  /-- AGE in 1/256 ns. -/
  age : BitVec 32
  deriving DecidableEq, Repr

/-- A packet from a ring peer (R377, R383): a request, or the response to a request of this device. -/
inductive RingPacket where
  | read (off : BitVec 36) (n : Fin 513) (tag : BitVec 12)
  | write (off : BitVec 36) (data : List Byte) (tag : BitVec 12)
  | reply (tag : BitVec 12) (status : BitVec 4) (data : List Byte)
  deriving DecidableEq, Repr

/-- What a source presents to its axis (R45): a FABRIC increment at an instant (1/256 ns), the levels of an encoder's inputs A
and B, an edge of a PERIOD pin. The last two are sampled at the latest axis clock edge (R47). -/
inductive AxisInput where
  | fabric (inc : BitVec 16) (t : Nat)
  | quad (a b : Bool)
  | edge (falling : Bool)
  deriving DecidableEq, Repr

/-- The commands, in the order of spec/opcode_table.json. Each docstring is the row's summary with its rule. -/
inductive Instr where
  /-- Returns the fused-in units, stepping, firmware level, serial, owners and bound mailboxes. (R413) -/
  | inventory (m : Mb)
  /-- Returns health state, causes, erased ports, remap use, fenced engines and links, lockstep count and hottest reading. (R413) -/
  | health (m : Mb)
  /-- Returns its payload unchanged. (R413) -/
  | echo (m : Mb)
  /-- Checks a firmware image, writes it to flash, verifies it and optionally rewrites the directory. (R417) -/
  | fwUpdate (m : Mb)
  /-- In config-only, reads a firmware image from host memory, checks it and starts Atmon. (R418) -/
  | fwLoad (m : Mb)
  /-- Returns configuration status, error code, target, version, load time and chain. (R177) -/
  | cfgQuery (m : Mb)
  /-- Passes one chunk of a configuration stream from host memory in config-only. (R177) -/
  | cfgHostLoad (m : Mb)
  /-- Schedules revocation of all contracts, a reset of all units but belfry and PCIe, and a load from the named source. (R177) -/
  | cfgReload (m : Mb)
  /-- 1 ms after CFG_RELOAD, revokes contracts, resets units and loads from the named source or enters config-only. (R177) -/
  | reloadExecute
  /-- Copies a flash range to a global address. (R177) -/
  | flashRead (m : Mb)
  /-- Erases a flash range in 64 KiB units. (R177) -/
  | flashErase (m : Mb)
  /-- Writes a flash range from a global address. (R177) -/
  | flashWrite (m : Mb)
  /-- Checks a container and copies it into the image store's container area under a new handle. (R184) -/
  | ovlStore (m : Mb)
  /-- Removes a stored container that is not resident in a plane. (R184) -/
  | ovlDrop (m : Mb)
  /-- Writes a stored overlay into the region's shadow plane under a staging contract, with the staging rule checks. (R185) -/
  | ovlStage (m : Mb)
  /-- Writes a SWAP entry into the region's swap slot binding the next swap to an axis position. (R188) -/
  | ovlArmSwap (m : Mb)
  /-- Removes an armed swap not yet committed ahead. (R188) -/
  | ovlDisarm (m : Mb)
  /-- Stages frames, quiesces the region, writes block memories and swaps. (R193) -/
  | ovlLoadQuiesced (m : Mb)
  /-- Returns the region's registers and clears its sticky flags when the region owner asks. (R199) -/
  | ovlQuery (m : Mb)
  /-- Enables or disables the configuration scrubber. (R199) -/
  | cfgScrubConfig (m : Mb)
  /-- Returns the six scrubber registers. (R199) -/
  | cfgScrubQuery (m : Mb)
  /-- Checks a stored engine container and writes its records into stopped engines' or idle kits' memories. (R227) -/
  | engLoad (m : Mb)
  /-- Moves masked STOPPED engines to RUNNING at the START vector. (R227) -/
  | engControlStart (m : Mb)
  /-- Moves masked engines to STOPPED unless one is in a task or admitted group. (R227) -/
  | engControlStop (m : Mb)
  /-- Returns an engine's status, PC, watchdog, fault, ECC, remap and KDMA registers. (R227) -/
  | engQuery (m : Mb)
  /-- Sets source and parameters of a disabled axis, chooses BSHIFT and restarts the tracker. (R79) -/
  | axisConfig (m : Mb)
  /-- Enables an axis, resuming it from its held position and restarting the tracker. (R519) -/
  | axisEnable (m : Mb)
  /-- Disables an axis that has no valid entries, armed captures, locked PLL or engine group. (R519) -/
  | axisDisable (m : Mb)
  /-- Sets a new axis position and cancels every valid strike entry on it as a discontinuity. (R53) -/
  | axisReset (m : Mb)
  /-- Samples requested axes and LOCAL at one axis clock edge. (R79) -/
  | axisQuery (m : Mb)
  /-- Allots a contiguous run of strike slots with a declared firing rate. (R79) -/
  | strikeAlloc (m : Mb)
  /-- Invalidates every entry of the owner's allotment and frees it. (R79) -/
  | strikeFree (m : Mb)
  /-- Sets a pin's mode, drive, inversion and skew. (R79) -/
  | pinConfig (m : Mb)
  /-- Configures, arms or disarms a capture unit and clears LOST. (R79) -/
  | captureConfig (m : Mb)
  /-- Locks a fabric PLL to an axis at rate times M over N. (R76) -/
  | axisLockPll (m : Mb)
  /-- Admits flows, DRAM reservations and a task set whole, granting bounds, or refuses. (R295) -/
  | contractOpen (m : Mb)
  /-- Releases every part of a contract. (R299) -/
  | contractClose (m : Mb)
  /-- Returns a contract's table entries. (R299) -/
  | contractQuery (m : Mb)
  /-- Returns the current request path and per-link burst loads between two routers. (R299) -/
  | nocRoute (m : Mb)
  /-- Allocates an enabled empty queue on the issuer's storage. (R272) -/
  | queueAlloc (m : Mb)
  /-- Frees a queue not named by a context, discarding its entries. (R272) -/
  | queueFree (m : Mb)
  /-- Returns a queue's state entry and count. (R272) -/
  | queueQuery (m : Mb)
  /-- Creates an engine group of stopped engines on a forward enabled axis. (R272) -/
  | groupCreate (m : Mb)
  /-- Deletes a group with no contexts and stopped engines. (R272) -/
  | groupDelete (m : Mb)
  /-- Allocates a task context bound to an empty task queue. (R272) -/
  | contextAlloc (m : Mb)
  /-- Frees a context that is not admitted and holds no tokens. (R272) -/
  | contextFree (m : Mb)
  /-- Returns a context record. (R272) -/
  | contextQuery (m : Mb)
  /-- Sets observation OFF, TRACE or STATS for the issuer's groups and queues. (R267) -/
  | observeMode (m : Mb)
  /-- Returns engine busy cycles, a queue high-water count or a group histogram. (R272) -/
  | statsRead (m : Mb)
  /-- Defines a DRAM region on a set of ports and starts its clear. (R325) -/
  | dramRegionCreate (m : Mb)
  /-- Deletes an unused DRAM region, stopping any clear. (R346) -/
  | dramRegionDelete (m : Mb)
  /-- Returns a port's status registers. (R346) -/
  | dramQuery (m : Mb)
  /-- Sets a port's six bank-select masks while no region uses it. (R327) -/
  | dramMap (m : Mb)
  /-- Issues REFab, enters self-refresh and stops the port's clocks. (R343) -/
  | dramSelfrefEnter (m : Mb)
  /-- Leaves self-refresh and returns the port to READY. (R343) -/
  | dramSelfrefExit (m : Mb)
  /-- Resets a frozen or forced port, retrains it and loads its poison table. (R342) -/
  | dramPortReset (m : Mb)
  /-- Returns a port's freeze record and optionally discards it. (R346) -/
  | freezeRecord (m : Mb)
  /-- Keys an encryption range by generation or wrapped import. (R361) -/
  | mxeRangeCreate (m : Mb)
  /-- Zeroises an unbound range's key. (R361) -/
  | mxeRangeDelete (m : Mb)
  /-- Returns MXE status, alarm and a range's registers. (R361) -/
  | mxeQuery (m : Mb)
  /-- Allocates a contiguous run of vault pages in a part. (R319) -/
  | vaultAlloc (m : Mb)
  /-- Moves pages to owner 0 and clears them. (R319) -/
  | vaultFree (m : Mb)
  /-- Returns vault status and counters and the issuer's page count. (R319) -/
  | vaultQuery (m : Mb)
  /-- Sets scrubber enable and divider and optionally clears conflict counters. (R319) -/
  | vaultConfig (m : Mb)
  /-- Returns clock status, source and domain registers. (R438) -/
  | clockQuery (m : Mb)
  /-- Switches a domain, the reference or a global clock glitch-free to a READY source. (R424) -/
  | clockSwitch (m : Mb)
  /-- Sets the monitor limit and auto-return, recalibrates IOSC or clears flags. (R438) -/
  | clockMonitor (m : Mb)
  /-- Opens or closes a unit's clock gate. (R430) -/
  | clockGate (m : Mb)
  /-- Revokes contracts, drains, gates, isolates and switches a domain off. (R434) -/
  | powerDomainOff (m : Mb)
  /-- Powers a domain up, holds it in reset until supply is good and releases its NI. (R434) -/
  | powerDomainOn (m : Mb)
  /-- Returns power registers. (R438) -/
  | powerQuery (m : Mb)
  /-- Resets one block, completing at its t_r. (R432) -/
  | blockReset (m : Mb)
  /-- Schedules a chip reset 1 ms later. (R438) -/
  | chipReset (m : Mb)
  /-- Performs a chip reset, keeping key store and health, then loads as after POR_N release. (R431) -/
  | chipResetExecute
  /-- Sets latencies, hold timeout and one-step enable of a time unit. (R99) -/
  | ptpConfig (m : Mb)
  /-- Sets time once in UNSET and enters TRACKING. (R92) -/
  | ptpStep (m : Mb)
  /-- Sets base addend and optional slew, entering TRACKING. (R93) -/
  | ptpSetRate (m : Mb)
  /-- Enters HOLDOVER at once. (R94) -/
  | ptpHoldover (m : Mb)
  /-- Returns the unit to UNSET and treats its axes as discontinuous. (R95) -/
  | ptpResetTime (m : Mb)
  /-- Samples LOCAL, time, addend and status without clearing OVF. (R99) -/
  | ptpQuery (m : Mb)
  /-- Sets level, cap, flags and class of a range of sources. (R460) -/
  | faultConfig (m : Mb)
  /-- Sets the issuer's fault delivery forms. (R460) -/
  | faultNotify (m : Mb)
  /-- Acknowledges classes, clearing pending bits and escalation levels. (R448) -/
  | faultAck (m : Mb)
  /-- Returns records from the fault history. (R460) -/
  | faultHistory (m : Mb)
  /-- Raises a source as if its unit had, with every reaction of its level. (R460) -/
  | faultInject (m : Mb)
  /-- Sets the WARN threshold. (R460) -/
  | thermalConfig (m : Mb)
  /-- Sets the BAR4 aperture base. (R365) -/
  | pcieAperture (m : Mb)
  /-- Takes or releases an outbound window to host memory. (R366) -/
  | pcieOutwin (m : Mb)
  /-- Sets use and rate of a lane group's lanes. (R368) -/
  | laneConfig (m : Mb)
  /-- Configures and enables a JESD link aligned to an axis. (R371) -/
  | jesdConfig (m : Mb)
  /-- Configures an Ethernet MAC's rate, FEC, flow and queues. (R374) -/
  | ethConfig (m : Mb)
  /-- Joins a ring port at the next quiet slot and steps up the rate. (R381) -/
  | ringJoin (m : Mb)
  /-- Closes the port's bypass at once. (R392) -/
  | ringLeave (m : Mb)
  /-- Returns ring port status, segment and peer registers. (R392) -/
  | ringQuery (m : Mb)
  /-- Starts or withdraws broadcast of a local axis on the ring. (R384) -/
  | ringAxisExport (m : Mb)
  /-- Sets the export base and size for peer requests. (R392) -/
  | ringWindow (m : Mb)
  /-- Opens a level-1 session by password, with lockout after failures. (R466) -/
  | dbgAuth (m : Mb)
  /-- Checks a debug certificate and returns the ephemeral key and challenge. (R467) -/
  | dbgAuthBegin (m : Mb)
  /-- Verifies the debugger's signature and MAC and opens a level-2 session. (R467) -/
  | dbgAuthFinish (m : Mb)
  /-- Ends a session, resuming engines, thawing sectors and disabling comparators. (R464) -/
  | dbgEnd (m : Mb)
  /-- Halts masked engines at the next boundary. (R468) -/
  | dbgEngHalt (m : Mb)
  /-- Resumes masked halted engines. (R468) -/
  | dbgEngResume (m : Mb)
  /-- Executes n instructions then halts. (R468) -/
  | dbgEngStep (m : Mb)
  /-- Returns a register of a halted engine. (R468) -/
  | dbgEngReadReg (m : Mb)
  /-- Writes a register of a halted engine. (R468) -/
  | dbgEngWriteReg (m : Mb)
  /-- Sets PC of a halted engine. (R468) -/
  | dbgEngSetPc (m : Mb)
  /-- Sets a comparator and the engine's debug control. (R471) -/
  | dbgBreak (m : Mb)
  /-- Reads or writes global memory through the debug master on VC3. (R474) -/
  | dbgMem (m : Mb)
  /-- Stops all regional clocks of named sectors at one edge, optionally capturing state. (R477) -/
  | dbgFreeze (m : Mb)
  /-- Releases frozen sectors' clock enables at one edge and ends capture. (R477) -/
  | dbgThaw (m : Mb)
  /-- Returns two capture frames of a quad. (R478) -/
  | dbgReadback (m : Mb)
  /-- Returns security status, tamper and serial. (R487) -/
  | lcQuery (m : Mb)
  /-- Returns a fresh 32-byte nonce for one owner-signed command. (R481) -/
  | lcNonce (m : Mb)
  /-- Returns the identity key and its Plovuk certificate. (R488) -/
  | lcIdentity (m : Mb)
  /-- Moves BLANK to OWNED, fusing the owner key digest and wrapped device key. (R480) -/
  | lcTakeOwnership (m : Mb)
  /-- Moves OWNED to DEPLOYED. (R480) -/
  | lcDeploy (m : Mb)
  /-- Moves DEPLOYED to OWNED, at most 15 times. (R480) -/
  | lcUndeploy (m : Mb)
  /-- Moves the part to SCRAPPED. (R480) -/
  | lcScrap (m : Mb)
  /-- Raises the firmware SVN minimum in eFuse. (R488) -/
  | svnRaise (m : Mb)
  /-- Enables tamper pins and sets their trip levels. (R483) -/
  | tamperConfig (m : Mb)
  /-- Programs the settings fuses once. (R488) -/
  | lcSettingsFuse (m : Mb)
  /-- Gathers and encrypts the return record and moves the part to RETURNED. (R484) -/
  | returnPrepare (m : Mb)
  /-- Returns up to 960 bytes of the return record. (R488) -/
  | returnRead (m : Mb)
  /-- 1 ms after a life-cycle transition, performs a chip reset under the new state's rules. (R482) -/
  | lifecycleReset
  /-- Accepts a doorbell in IDLE and posts the command, or drops it. (R401) -/
  | mbxDoorbell (who : Initiator) (m : Mb) (v : BitVec 32)
  /-- Serving program copies the posted command, checks its token and starts it. (R401) -/
  | commandCopy (m : Mb)
  /-- Mailbox hardware answers a posted command with BUSY NOT_READY while no program is READY. (R402) -/
  | notReadyAnswer (m : Mb)
  /-- A long command rewrites its interim progress response at least every 10 ms. (R405) -/
  | interimResponse (m : Mb) (permille : BitVec 16) (remain : BitVec 32) (work : BitVec 64)
  /-- Owner's read in COMPLETE returns the final status and moves the mailbox to IDLE. (R403) -/
  | mbxRpop (who : Initiator) (m : Mb)
  /-- Draws a new mailbox token, discarding pending responses. (R407) -/
  | sessionTokenDraw (m : Mb)
  /-- Write of ESIZE bytes at doorbell offset 0 pushes one entry. (R249) -/
  | doorbellPush (who : Initiator) (q : QueueId) (data : List Byte)
  /-- Write at doorbell offset 0x38 advances CIDX. (R249) -/
  | consume (who : Initiator) (q : QueueId) (n : BitVec 32)
  /-- Read of QCU_POP_o_0 pops the selected queue's head and captures it. (R250) -/
  | popWindowPop (who : Initiator) (o : Owner)
  /-- Time controller's read of PTU_TSQ_LO_n pops a transmit time-stamp entry. (R89) -/
  | ptuTsqPop (who : Initiator) (n : Fin 2)
  /-- Read returns count and LOSTCNT and clears OVF, subject to KL-04. (R88) -/
  | ptuTsqStatRead (who : Initiator) (n : Fin 2) (lostNow : Bool)
  /-- Read returns and clears an owner's late-entry count. (R78) -/
  | stkLateRead (who : Initiator) (o : Owner)
  /-- Read returns and clears an owner's delayed-firing count. (R78) -/
  | stkDelayedRead (who : Initiator) (o : Owner)
  /-- Read returns and clears an owner's drop count and reason. (R78) -/
  | stkDropRead (who : Initiator) (o : Owner)
  /-- Read returns and clears the count of discarded host pushes. (R270) -/
  | qcuHostdropRead (who : Initiator)
  /-- Read returns and clears an owner's dropped doorbell and pop count. (R270) -/
  | qcuDbdropRead (who : Initiator) (o : Owner)
  /-- Read returns and clears a group's miss count. (R271) -/
  | tduGrpMissRead (who : Initiator) (n : GroupId)
  /-- Read returns and clears the kit's broken-lock count. (R226) -/
  | kitLockRead (who : Initiator) (k : KitId)
  /-- Read returns and clears the count of host pushes discarded at reset. (R389) -/
  | pceDropRead (who : Initiator)
  /-- Owner writes 1 to class bits to acknowledge faults. (R448) -/
  | fltPendWrite (who : Initiator) (o : Owner) (v : BitVec 32)
  /-- PLL owner or belfry clears LOSS_S or HOLD_S of CKR_FPLL_STAT_n. (R121) -/
  | fpllFlagClear (who : Initiator) (n : PllId) (v : BitVec 32)
  /-- Kit owner's write raises the SOFTWARE interrupt of an engine. (R211) -/
  | engSwiSet (who : Initiator) (g : EngineId) (v : BitVec 32)
  /-- Write of HALT to DBG_RUN_g halts the engine. (R470) -/
  | dbgRunHalt (who : Initiator) (g : EngineId)
  /-- Write of RESUME to DBG_RUN_g resumes the engine. (R470) -/
  | dbgRunResume (who : Initiator) (g : EngineId)
  /-- Write of STEP to DBG_RUN_g executes one instruction then halts. (R470) -/
  | dbgRunStep (who : Initiator) (g : EngineId)
  /-- Write to bytes 0-23 of an allotted entry stages them. (R57) -/
  | strikeStageWrite (who : Initiator) (slot : SlotId) (off : Fin 24) (wide : Bool) (v : BitVec 64)
  /-- Write to bytes 24-27 commits the whole entry atomically, with the drop and late checks. (R57) -/
  | strikeEntryCommit (who : Initiator) (slot : SlotId) (wide : Bool) (v : BitVec 64)
  /-- Write to a control-space register without behaviour of its own, taking effect or dropped with a fault note. (R22) -/
  | registerWrite (who : Initiator) (off : BitVec 28) (wide : Bool) (v : BitVec 64)
  /-- Read from the debug master peeks registers and pop ports without side effects. (R475) -/
  | debugRead (i : Fin 4) (addr : BitVec 48) (n : Fin 513)
  /-- JTAG pin-control instruction driving pins from boundary scan when allowed. (R462) -/
  | extest (cells : List Bool)
  /-- JTAG instruction sampling pins. (R462) -/
  | samplePreload (cells : List Bool)
  /-- JTAG instruction selecting IDCODE. (R462) -/
  | idcode
  /-- JTAG pin-control instruction clamping pins when allowed. (R462) -/
  | clamp
  /-- JTAG pin-control instruction floating pins when allowed. (R462) -/
  | highz
  /-- IEEE 1149.6 pin-control instruction when allowed. (R462) -/
  | extestPulse (cells : List Bool)
  /-- IEEE 1149.6 pin-control instruction when allowed. (R462) -/
  | extestTrain (cells : List Bool)
  /-- JTAG BYPASS instruction, also selected by unlisted codes. (R462) -/
  | bypass
  /-- At Update-DR performs a 32-bit access of the JTAG page. (R463) -/
  | dbgPage (off : BitVec 12) (write : Bool) (v : BitVec 32)
  /-- Parallel instruction with no ALU operation, performing its moves. (R235) -/
  | nop (g : EngineId) (m1 m2 : Move)
  /-- Two products into an accumulator pair. (R235) -/
  | dmpy (g : EngineId) (acc : Fin 4) (sel : Fin 8) (m1 m2 : Move)
  /-- Adds two products to an accumulator pair. (R235) -/
  | dmac (g : EngineId) (acc : Fin 4) (sel : Fin 8) (m1 m2 : Move)
  /-- Subtracts p0 from one and adds p1 to the other accumulator. (R235) -/
  | dmsa (g : EngineId) (acc : Fin 4) (sel : Fin 8) (m1 m2 : Move)
  /-- Sum of two products into an accumulator. (R235) -/
  | mpy2 (g : EngineId) (acc : Fin 4) (sel : Fin 8) (m1 m2 : Move)
  /-- Adds the sum of two products to an accumulator. (R235) -/
  | mac2 (g : EngineId) (acc : Fin 4) (sel : Fin 8) (m1 m2 : Move)
  /-- Adds p0 minus p1 to an accumulator. (R235) -/
  | mas2 (g : EngineId) (acc : Fin 4) (sel : Fin 8) (m1 m2 : Move)
  /-- One product into an accumulator. (R235) -/
  | mpy (g : EngineId) (acc : Fin 4) (sel : Fin 8) (m1 m2 : Move)
  /-- Adds one product to an accumulator. (R235) -/
  | mac (g : EngineId) (acc : Fin 4) (sel : Fin 8) (m1 m2 : Move)
  /-- Subtracts one product from an accumulator. (R235) -/
  | macn (g : EngineId) (acc : Fin 4) (sel : Fin 8) (m1 m2 : Move)
  /-- Adds a source to an accumulator. (R235) -/
  | aluAdd (g : EngineId) (acc : Fin 4) (sel : Fin 8) (m1 m2 : Move)
  /-- Subtracts a source from an accumulator. (R235) -/
  | aluSub (g : EngineId) (acc : Fin 4) (sel : Fin 8) (m1 m2 : Move)
  /-- Sets flags of accumulator minus source. (R235) -/
  | aluCmp (g : EngineId) (acc : Fin 4) (sel : Fin 8) (m1 m2 : Move)
  /-- Copies a source into an accumulator. (R235) -/
  | copy (g : EngineId) (acc : Fin 4) (sel : Fin 8) (m1 m2 : Move)
  /-- Keeps the signed maximum in an accumulator. (R235) -/
  | aluMax (g : EngineId) (acc : Fin 4) (sel : Fin 8) (m1 m2 : Move)
  /-- Clears an accumulator. (R235) -/
  | clr (g : EngineId) (acc : Fin 4) (m1 m2 : Move)
  /-- Rounds an accumulator by the conversion of R208. (R235) -/
  | rnd (g : EngineId) (acc : Fin 4) (m1 m2 : Move)
  /-- Absolute value of an accumulator. (R235) -/
  | abs (g : EngineId) (acc : Fin 4) (m1 m2 : Move)
  /-- Negates an accumulator. (R235) -/
  | neg (g : EngineId) (acc : Fin 4) (m1 m2 : Move)
  /-- Arithmetic right shift of an accumulator by 1. (R235) -/
  | asr1 (g : EngineId) (acc : Fin 4) (m1 m2 : Move)
  /-- Left shift of an accumulator by 1. (R235) -/
  | asl1 (g : EngineId) (acc : Fin 4) (m1 m2 : Move)
  /-- Arithmetic right shift of an accumulator by 8. (R235) -/
  | asr8 (g : EngineId) (acc : Fin 4) (m1 m2 : Move)
  /-- Left shift of an accumulator by 8. (R235) -/
  | asl8 (g : EngineId) (acc : Fin 4) (m1 m2 : Move)
  /-- Loads a sign-extended immediate into a register. (R237) -/
  | ldi (g : EngineId) (r : BitVec 7) (imm : BitVec 19)
  /-- Replaces bits 23:12 of a 24-bit register. (R237) -/
  | ldih (g : EngineId) (r : BitVec 7) (imm : BitVec 12)
  /-- Moves a register to a register. (R237) -/
  | movec (g : EngineId) (d src : BitVec 7)
  /-- Moves a register to or from X or Y memory. (R237) -/
  | movem (g : EngineId) (r : BitVec 7) (store : Bool) (y : Bool) (a : MemAddr)
  /-- Adds to a D register. (R238) -/
  | daluAdd (g : EngineId) (dd : Fin 8) (src : DSrc)
  /-- Subtracts from a D register. (R238) -/
  | daluSub (g : EngineId) (dd : Fin 8) (src : DSrc)
  /-- Compares a D register. (R238) -/
  | daluCmp (g : EngineId) (dd : Fin 8) (src : DSrc)
  /-- Bitwise AND into a D register. (R238) -/
  | daluAnd (g : EngineId) (dd : Fin 8) (src : DSrc)
  /-- Bitwise OR into a D register. (R238) -/
  | daluOr (g : EngineId) (dd : Fin 8) (src : DSrc)
  /-- Bitwise XOR into a D register. (R238) -/
  | daluXor (g : EngineId) (dd : Fin 8) (src : DSrc)
  /-- Left shift of a D register. (R238) -/
  | daluAsl (g : EngineId) (dd : Fin 8) (src : DSrc)
  /-- Arithmetic right shift of a D register. (R238) -/
  | daluAsr (g : EngineId) (dd : Fin 8) (src : DSrc)
  /-- Logical right shift of a D register. (R238) -/
  | daluLsr (g : EngineId) (dd : Fin 8) (src : DSrc)
  /-- Signed minimum into a D register. (R238) -/
  | daluMin (g : EngineId) (dd : Fin 8) (src : DSrc)
  /-- Signed maximum into a D register. (R238) -/
  | daluMax (g : EngineId) (dd : Fin 8) (src : DSrc)
  /-- Sets flags of a D register and a source. (R238) -/
  | tst (g : EngineId) (dd : Fin 8) (src : DSrc)
  /-- Conditional branch with one delay slot. (R240) -/
  | jcc (g : EngineId) (cond : BitVec 4) (target : BitVec 13)
  /-- Branch saving the return address in a D register. (R240) -/
  | jsr (g : EngineId) (dn : Fin 8) (target : BitVec 13)
  /-- Branch through a D register. (R240) -/
  | jmpDn (g : EngineId) (dn : Fin 8)
  /-- Enters a block repeat with the count in LC. (R245) -/
  | rep (g : EngineId) (last : BitVec 13)
  /-- Loads LC with an immediate and enters a block repeat. (R245) -/
  | repi (g : EngineId) (n : BitVec 13) (last : BitVec 13)
  /-- Ends the innermost active loop at once. (R240) -/
  | endl (g : EngineId)
  /-- Records TAKEPC and waits for a task token. (R214) -/
  | take (g : EngineId)
  /-- Starts task completion with a status. (R215) -/
  | done (g : EngineId) (nc : Bool) (status : Byte)
  /-- Once KDMA is idle, writes complete and the queue has room, pushes the completion token and returns to TAKEPC. (R215) -/
  | doneCompletion (g : EngineId)
  /-- Returns from an interrupt after its delay slot. (R241) -/
  | rti (g : EngineId)
  /-- Raises the BKPT debug event per BKPT_ACT. (R241) -/
  | bkpt (g : EngineId)
  /-- Sets ST bits. (R241) -/
  | stset (g : EngineId) (mask : BitVec 9)
  /-- Clears ST bits. (R241) -/
  | stclr (g : EngineId) (mask : BitVec 9)
  /-- Starts a kit DMA channel with a descriptor in Y. (R218) -/
  | kdma (g : EngineId) (c : Fin 4) (d : BitVec 13)
  /-- Waits until a channel is idle, faulting if it ended in error. (R241) -/
  | kdmaw (g : EngineId) (c : Fin 4)
  /-- Pushes Y words as one queue entry, stalling while full. (R241) -/
  | pushq (g : EngineId) (dq : Fin 8) (size : Fin 3) (n : Fin 4) (inc : Bool)
  /-- Pops a queue entry into Y words. (R241) -/
  | popq (g : EngineId) (dq : Fin 8) (size : Fin 3) (n : Fin 4) (inc : Bool)
  /-- Opens a locked sequence on a kit or vault word. (R221) -/
  | lock (g : EngineId) (vault : Bool) (da : Fin 8) (n : Fin 4)
  /-- Closes a locked sequence with an optional conditional store. (R221) -/
  | unlock (g : EngineId) (store : Bool) (n : Fin 4)
  /-- A reserved or forbidden encoding raises FAULT ILLEGAL without effect. (R229) -/
  | illegalInstruction (g : EngineId)
  /-- At an eligible boundary the engine saves IPC and ISTAT and jumps to a vector. (R212) -/
  | interruptAccept (g : EngineId) (v : IntVector)
  /-- The dispatcher hands the selected ready token to the lowest eligible engine and the argument copy starts. (R261) -/
  | tokenHandover (n : GroupId)
  /-- After the last argument word, loads TASK, DLN, ARG, watchdog and PC. (R214) -/
  | taskStart (g : EngineId)
  /-- An argument copy error completes the token ARG_FAULT and keeps the engine waiting. (R214) -/
  | argFault (g : EngineId)
  /-- Watchdog expiry stops the task and pushes an OVERRUN completion. (R217) -/
  | taskWatchdogExpiry (g : EngineId)
  /-- A fault during a FAULT handler stops the task or engine. (R217) -/
  | doubleFault (g : EngineId)
  /-- A descriptor's writes complete and the chain continues or ends, possibly in error. (R219) -/
  | kdmaDescriptorComplete (g : EngineId) (c : Fin 4)
  /-- Open time reaching 256 cycles breaks the lock. (R222) -/
  | lockBreak (g : EngineId)
  /-- A bank releases a locked word after its hold limit. (R222) -/
  | bankLockRelease (g : EngineId)
  /-- Atmon copies a failing engine or kit word to a spare and switches, fencing when tables are exhausted. (R224) -/
  | engineRemap (g : EngineId) (mem : EngMem) (addr : BitVec 16)
  /-- A corrected engine or kit memory word is written back in an idle cycle. (R205) -/
  | eccWriteback (g : EngineId) (mem : EngMem) (addr : BitVec 16)
  /-- A source event updates an axis tracker, possibly holding or stepping it. (R47) -/
  | axisSourceEvent (n : AxisId) (x : AxisInput)
  /-- No source event for 2^STALL_EXP µs puts the axis in STALLED. (R52) -/
  | axisStall (n : AxisId)
  /-- A changed discontinuity epoch cancels entries, disables the axis and suspends dependent work. (R54) -/
  | ringDiscontinuity (n : AxisId)
  /-- An entry crossed by its axis starts its QUEUE, FLINE or CAPTURE action and repeats or ends. (R59) -/
  | strikeCrossing (slot : SlotId)
  /-- PIN, SWAP or RING actions are handed to their target 64 ns before the crossing. (R60) -/
  | strikeCommitAhead (slot : SlotId)
  /-- A committed pin edge is placed at t0 plus SKEW, spaced per R71. (R70) -/
  | pinEdge (p : PinCode)
  /-- A strike line asserts 6 ns after t0 for its width. (R65) -/
  | flinePulse (sec : SectorId) (line : Fin 64)
  /-- Entries move from the overflow list into the time wheel before the horizon reaches them. (R67) -/
  | overflowMove (slot : SlotId)
  /-- A held strike token or record is pushed when its queue has room. (R66) -/
  | holdingBufferPush (o : Owner)
  /-- A capture unit time-stamps a pin edge and writes or holds its record. (R73) -/
  | captureEdge (c : CapId) (falling : Bool) (t : Nat)
  /-- A held capture record is written when its queue has room, or discarded. (R75) -/
  | captureRecordPush (c : CapId)
  /-- An axis-locked PLL realigns after its axis resumes. (R76) -/
  | pllAxisRealign (n : PllId)
  /-- A frame with TSREQ leaves and its time-stamp is queued or lost. (R87) -/
  | txTimestamp (n : Fin 2)
  /-- No rate command for HOLD_TIMEOUT ms puts the unit in HOLDOVER. (R94) -/
  | holdTimeout (n : Fin 2)
  /-- After DURATION the base addend resumes. (R93) -/
  | slewEnd (n : Fin 2)
  /-- Both drivers of a segment enabled: the detector disables them and raises FSRC 160. (R114) -/
  | buslineContention (seg : BitVec 15)
  /-- A fabric PLL loses lock, keeps its output and raises a C5 source. (R120) -/
  | fpllLossOfLock (n : PllId)
  /-- A fabric PLL relocks when its reference returns. (R120) -/
  | fpllRelock (n : PllId)
  /-- User logic issues a read or write through its fabric port. (R122) -/
  | fabricInitiatorRequest (sec : SectorId) (flow : Fin 16) (write : Bool) (addr : BitVec 48) (beats : Fin 9) (data : List Byte)
  /-- User logic pushes an entry on the queue channel, waiting while full. (R124) -/
  | fabricQueuePush (sec : SectorId) (q : QueueId) (data : List Byte)
  /-- User logic pops a queue entry or receives EMPTY. (R124) -/
  | fabricQueuePop (sec : SectorId) (q : QueueId)
  /-- A sector's mailbox channel reads or writes its bound mailbox page. (R126) -/
  | mailboxChannelAccess (sec : SectorId) (off : BitVec 12) (write : Bool) (v : BitVec 32)
  /-- A target request unaccepted for 4,096 port cycles receives TIMEOUT. (R123) -/
  | targetTimeout (sec : SectorId) (id : Nat)
  /-- A sector's fault line edge raises its user source. (R127) -/
  | faultLine (sec : SectorId)
  /-- A heartbeat not toggled within its period raises its watchdog source. (R127) -/
  | heartbeatExpiry (i : Fin 16)
  /-- A sector or kit accesses the dual-port part through the side port. (R307) -/
  | vaultSideChannelAccess (who : SideRequester) (off : BitVec 21) (write : Bool) (be : BitVec 16) (data : BitVec 128) (collides : Bool)
  /-- Fabric logic requests a global clock source change, performed glitch-free or refused. (R424) -/
  | gselRequest (n : Fin 32) (sel : Bool)
  /-- POR_N low or VCC_AON out of range resets everything but eFuse. (R431) -/
  | por
  /-- POR_N release samples boot inputs, reads settings and starts the boot. (R164) -/
  | porRelease (bootSel : BitVec 2) (group : BitVec 4)
  /-- PROG_N low for 1 µs causes a chip reset. (R431) -/
  | progN
  /-- A core supply out of range holds a chip reset until all are back. (R431) -/
  | coreSupplyLoss (i : Fin 3)
  /-- The boot ROM checks the Atmon firmware read from flash, entering recovery on failure. (R416) -/
  | firmwareCheck (image : List Byte)
  /-- The controller checks a container header, signature and key unwrap. (R161) -/
  | streamHeader (hdr : List Byte)
  /-- A segment is checked, decrypted and its records written, or the stream refused and cleared. (R161) -/
  | segment (seg : List Byte)
  /-- A stream delivering nothing for 100 ms fails the load. (R176) -/
  | sourceSilent
  /-- CFG_DONE rising releases the peal into start-up. (R168) -/
  | cfgDoneHigh
  /-- CFG_DONE not high DONE_WAIT ms after release leads to the golden image or config-only. (R168) -/
  | doneWaitExpiry
  /-- Start-up step waiting for selected PLLs to lock. (R169) -/
  | waitLock
  /-- WAIT_LOCK times out, sets LOCK_TO and proceeds. (R169) -/
  | lockTimeout
  /-- Start-up step releasing global set/reset. (R169) -/
  | releaseGsr
  /-- Start-up step enabling memory and flip-flop writes. (R169) -/
  | enableWrites
  /-- Start-up step releasing I/O, lanes and port NIs. (R169) -/
  | releaseIo
  /-- Atmon applies the manifest, sets the fault ladder and swap slots and reports READY. (R31) -/
  | atmonReady
  /-- After DRAM training Atmon creates region 15 as the image store. (R182) -/
  | imageStoreCreate
  /-- The controller reads back frames into the frame copy at idle capacity. (R183) -/
  | frameCopyFill (frame : BitVec 20)
  /-- At the swap edge all quads of a region flip planes and registers take INIT or carry. (R189) -/
  | swapEdge (r : RegionId)
  /-- 8 ns after the swap edge the region resumes clocking and block-memory writes. (R189) -/
  | regionUsable (r : RegionId)
  /-- Within 1 µs of a swap the region status and swap count update. (R189) -/
  | swapRecordUpdate (r : RegionId)
  /-- The scrubber reads a frame and checks it against its signature. (R195) -/
  | scrubFrameRead (flips : BitVec 3084)
  /-- A failing frame is rewritten from check bits, frame copy or container, or marked UNREPAIRED. (R196) -/
  | frameRepair (frame : BitVec 20) (repaired : Bool)
  /-- A scrub lap completes and its time is recorded, flagging LAG beyond 125 ms. (R197) -/
  | scrubLapEnd
  /-- A head task token passes the release guard into the ready store. (R259) -/
  | tokenRelease (q : QueueId)
  /-- The axis reaches a token's deadline while ready or running. (R264) -/
  | deadlineMiss (tok : Nat)
  /-- The QCU accepts a push, writing storage and advancing PIDX. (R248) -/
  | queuePushAccept (who : Initiator) (q : QueueId) (data : List Byte)
  /-- A push held at a full queue proceeds when the queue has room. (R251) -/
  | heldPushRetry (q : QueueId)
  /-- A host push held for LIMIT ms is discarded. (R253) -/
  | hostPushDiscard
  /-- A router checks and forwards a header flit, or fails the link. (R279) -/
  | routerHeader (n : RouterId) (dir : Fin 4) (id : Nat) (f : Finding)
  /-- A target NI receives a request, checks ownership and serves it. (R24) -/
  | nocRequest (id : Nat) (ce ue : Fin 65)
  /-- An initiator NI receives a response and delivers it in flow order. (R283) -/
  | nocResponse (id : Nat) (ce ue : Fin 65)
  /-- A fence waits for earlier responses and blocks later requests until FACK. (R284) -/
  | fence (id : Nat)
  /-- A source NI releases a contracted request when the token bucket allows. (R292) -/
  | flowRelease (id : Nat)
  /-- Atmon writes new routing tables into every router. (R285) -/
  | routingChange (routes : List (RouterId × RouterId × Fin 5))
  /-- All NIs flip to the new epoch and pause request injection. (R285) -/
  | epochFlip
  /-- Old-epoch packets have drained and injection resumes. (R285) -/
  | epochDrainEnd (ns : BitVec 16)
  /-- A drain beyond 4 µs raises FSRC 197. (R285) -/
  | epochDrainTimeout
  /-- Atmon fences a link and installs detour tables. (R286) -/
  | linkFence (n : RouterId) (dir : Fin 4) (routes : List (RouterId × RouterId × Fin 5))
  /-- A link fails, its flits are discarded and outstanding requests aborted. (R287) -/
  | linkFailure (n : RouterId) (dir : Fin 4)
  /-- A block reset aborts requests and suspends contracts through the block. (R288) -/
  | blockResetAssert (b : Block)
  /-- At t_r the block's NI accepts requests in a new epoch. (R288) -/
  | blockResetRelease (b : Block)
  /-- 1 ms after release Atmon re-runs admission, resuming or demoting contracts. (R288) -/
  | contractRevalidate (c : ContractId)
  /-- A draining NI reaches DRAINED and its router proxy turns on. (R290) -/
  | niDrained (n : RouterId)
  /-- DRAINED not reached in 10 ms: remaining requests aborted. (R290) -/
  | drainTimeout (n : RouterId)
  /-- A vault port serves a word access, read-modify-write or collision. (R303) -/
  | vaultAccess (id : Nat) (f : Finding)
  /-- Banks 60-63 and their spares are cleared through the clear path. (R312) -/
  | secureWipe
  /-- The secure wipe ends and WIPING clears. (R312) -/
  | secureWipeComplete
  /-- A bank's scrubber reads and checks a written word in an idle cycle. (R314) -/
  | vaultScrubRead (b : Fin 64) (row : Fin 32768) (f : Finding)
  /-- A corrected word is written back unless overwritten. (R315) -/
  | vaultScrubWriteback (b : Fin 64) (row : Fin 32768)
  /-- A bank without an idle cycle for 1 s is marked STARVED. (R315) -/
  | bankStarved (b : Fin 64)
  /-- Atmon copies a failing vault word to a spare and switches. (R316) -/
  | vaultRemap (w : BitVec 21)
  /-- A freed page finishes clearing and CLEARING drops. (R319) -/
  | vaultPageCleared (p : Fin 512)
  /-- A port schedules and serves a request through the line code. (R328) -/
  | dramRequest (id : Nat) (f : LineFinding)
  /-- Each tREFI adds one interval of debt to every bank set. (R331) -/
  | refreshInterval (k : PortId)
  /-- The port issues a bank-set refresh, urgent or not. (R332) -/
  | refsb (k : PortId) (rank : Fin 2) (bank : Fin 4)
  /-- The port reads MR4 each ms and switches refresh rate. (R333) -/
  | mr4Reading (k : PortId) (mr4 : BitVec 3)
  /-- Atmon marks a DRAM device erased. (R324) -/
  | deviceErase (k : PortId) (rank : Fin 2) (dev : Fin 10)
  /-- Every 128 µs the port retrains in a 100 ns slot. (R338) -/
  | retrainingSlot (k : PortId) (drift : Bool)
  /-- The patrol reads a line in idle cycles and writes back corrections. (R339) -/
  | patrolRead (k : PortId) (line : BitVec 30) (f : LineFinding)
  /-- A patrol lap overrunning by 10 % raises a source. (R339) -/
  | patrolLate (k : PortId)
  /-- After READY Atmon trains a port to READY or FAILED. (R337) -/
  | portTraining (k : PortId) (res : Option TrainResult)
  /-- An uncorrectable line or command fault freezes the port. (R340) -/
  | portFreeze (k : PortId) (cause : Fin 7) (line : BitVec 36) (syndrome : BitVec 128)
  /-- A DDR5 ALERT_n is replayed, or freezes the port on a second within 1 ms. (R340) -/
  | alertN (k : PortId)
  /-- A new region finishes its clear and becomes accessible. (R326) -/
  | regionClearComplete (r : Fin 16)
  /-- A reset port becomes READY with its poison table loaded. (R342) -/
  | portResetComplete (k : PortId) (ok : Bool)
  /-- A request arriving in self-refresh makes the port exit. (R343) -/
  | selfrefWake (k : PortId)
  /-- A write to a protected region verifies metadata, increments the counter, enciphers and updates the tree. (R353) -/
  | mxeWrite (id : Nat) (f : MxeFinding)
  /-- A read of a protected region verifies tag and tree and deciphers. (R356) -/
  | mxeRead (id : Nat) (f : MxeFinding)
  /-- A page is re-enciphered under a new major counter. (R354) -/
  | pageReencrypt (r : Fin 8) (page : Nat)
  /-- A dirty counter-cache line is written back. (R355) -/
  | counterCacheWriteback (line : Fin 8192)
  /-- A counter-cache error is corrected, refetched or fails the range. (R355) -/
  | counterCacheError (line : Fin 8192) (r : Fin 8) (f : Finding)
  /-- A host read or write through a BAR is served or completed with an error. (R365) -/
  | hostRequest (fn : Fin 2) (bar : Fin 3) (off : BitVec 36) (write : Bool) (n : Fin 4097) (data : List Byte)
  /-- A device access to an outbound window is issued to the host. (R366) -/
  | outboundRequest (id : Nat) (reply : HostReply)
  /-- A host completion not received in 50 ms gives ERROR. (R366) -/
  | completionTimeout (id : Nat)
  /-- PERST# assertion resets the endpoint or the chip per manifest scope. (R367) -/
  | perst
  /-- Hot reset or DL_Down acts as PERST# of scope PCIE. (R367) -/
  | hotReset
  /-- An FLR discards a function's held pushes, aborts its requests and idles its mailboxes. (R367) -/
  | functionLevelReset (fn : Fin 2)
  /-- A JESD link loses lock or alignment and returns to SYNC. (R372) -/
  | jesdAlignmentLost (n : Fin 8)
  /-- A link realigns at the next SYSREF position. (R372) -/
  | jesdRealign (n : Fin 8)
  /-- The MAC reads a transmit descriptor and frame and sends it. (R374) -/
  | ethTransmit (n : Fin 2)
  /-- A received frame is stored into a free buffer and described, or dropped. (R374) -/
  | ethReceive (n : Fin 2) (frame : List Byte) (fcsError : Bool)
  /-- A ring cell is checked, acknowledged or NAKed, and delivered or forwarded. (R378) -/
  | ringCellReceive (p : Fin 2) (cell : List Byte)
  /-- A NAK makes the sender replay from the named SEQ. (R378) -/
  | ringNak (p : Fin 2) (seq : BitVec 16)
  /-- No acknowledgement in 4 µs triggers a replay. (R378) -/
  | ringAckTimeout (p : Fin 2)
  /-- A failed segment is retrained and ring contracts suspended. (R386) -/
  | segmentHeal (p : Fin 2) (trained : Option (Fin 6))
  /-- A closing cause closes the port's bypass switches. (R379) -/
  | bypassClose (p : Fin 2)
  /-- The leader's quiet slot lets waiting devices open bypasses and train. (R381) -/
  | quietSlot (res : List SegmentTrain)
  /-- No WINDOW cell within 30 ms of RING_JOIN: the bypass opens and training starts. (R381) -/
  | joinTimeout (p : Fin 2) (res : Option SegmentTrain)
  /-- Every 1 ms a MEASURE cell measures segment latency. (R382) -/
  | ringMeasure (p : Fin 2) (lat : BitVec 24)
  /-- Every 256 ns an AXIS cell per exported axis is sent. (R384) -/
  | axisCellSend (n : AxisId)
  /-- An AXIS cell updates a RING axis source. (R384) -/
  | axisCellReceive (p : Fin 2) (src : Fin 16) (c : AxisCell)
  /-- A committed RING strike launches a STRIKE cell. (R385) -/
  | strikeCellLaunch (slot : SlotId)
  /-- A peer performs the template action of a received STRIKE cell. (R385) -/
  | strikeCellReceive (p : Fin 2) (src : Fin 16) (slotOff : BitVec 16) (remain : BitVec 32)
  /-- A peer serves a packet request through its window or mailboxes 8 and 9. (R383) -/
  | ringPkt (p : Fin 2) (src : Fin 16) (pkt : RingPacket)
  /-- Within 2 ms of POR_N release the belfry selects the device reference. (R422) -/
  | referenceSelect (chassisOk xoOk : Bool)
  /-- A 10 µs monitor window judges each clock source. (R427) -/
  | monitorWindow (i : Fin 8) (edges : Bool) (ppm : BitVec 24)
  /-- A 1 ms window cross-checks IOSC against the reference. (R427) -/
  | ioscCrossCheck (ppm : BitVec 24)
  /-- A failed reference or SPLL moves its domains to IOSC. (R428) -/
  | clockFailover (i : Fin 8)
  /-- A stopped old clock times out the switch handshake. (R425) -/
  | fallbackTimeout (d : Fin 4)
  /-- A recovered source is relocked and domains switched back. (R428) -/
  | clockReturn (i : Fin 8)
  /-- A thermal sensor reading updates thresholds and failure marks. (R453) -/
  | sensorReading (i : Fin 64) (t : BitVec 16) (stuck : Bool)
  /-- Two readings of 130 °C shut the device down. (R455) -/
  | thermalShutdown
  /-- The collector handles a raised fault at its escalated level. (R442) -/
  | faultRaise
  /-- A core disagreement stops both cores for restore. (R452) -/
  | lockstepDisagreement
  /-- The cores resume from the checkpoint and re-execute commands. (R452) -/
  | lockstepRecovery (checkpointOk : Bool)
  /-- A tamper input trips: keys zeroised, sessions ended, secure vault wiped. (R483) -/
  | tamperTrip (i : Fin 5)
  /-- DBG_AUTH_FINISH not received within 10 s fails the exchange. (R467) -/
  | authFinishTimeout (m : Mb)
  /-- An unused nonce expires after 60 s. (R481) -/
  | nonceExpiry (m : Mb)
  /-- At every 1 GHz axis clock edge each PTU adds its addend, LOCAL and CHASSIS advance, and every axis publishes a position. (R90) -/
  | axisClockEdge (refEdge : Bool)
  /-- A rising edge of a regional clock clocks flip-flops, wire registers, block-memory ports and slice stages. (R133) `near`: the
  regional clocks of the sector that had an edge within 250 ps before; `ext`: levels that enter the fabric from outside. -/
  | fabricClockEdge (sec : SectorId) (r : Fin 16) (near : BitVec 16) (ext : List (BitVec 32 × Bool))
  /-- User logic presents a response to a target request on the fabric port's target response channel. (R122) -/
  | targetResponse (sec : SectorId) (id : Nat) (status : BitVec 4) (data : List Byte)
  /-- The last frame of a staging is written, the shadow plane becomes READY and OVL_STAGE completes, or phase 2 of a quiesced load begins. (R185) -/
  | stagingComplete (r : RegionId) (read : Bool)
  /-- The last BLOCKMEM write of a quiesced load completes and the region swaps at the next configuration edge. (R193) -/
  | quiesceEnd (r : RegionId) (read : Bool)
  /-- A long command whose work has ended writes its final response, clears INTERIM and leaves the mailbox COMPLETE. (R405) -/
  | longCommandFinalResponse (m : Mb)
  /-- More than 1 s between CFG_HOST_LOAD chunks fails the stream as TRUNCATED. (R177) -/
  | hostLoadGap
  /-- A link not in DATA 100 ms after JESD_CONFIG completes the command with WRONG_STATE and stays in SYNC. (R392) -/
  | jesdConfigTimeout (n : Fin 8)
  /-- PERST# deassertion starts PCIe link training, completed within 10 ms. (R367) -/
  | perstDeassert
  /-- A PCIe configuration request is answered with Retry Status until running or config-only, and successfully afterwards. (R173) -/
  | configurationRequest (fn : Fin 2) (off : BitVec 12) (write : Bool) (v : BitVec 32)
  /-- An Ethernet MAC loses its link, counts DOWN and raises FSRC 808 + n. (R388) -/
  | ethLinkDown (n : Fin 2)
  /-- An enabled MAC gains block lock, alignment and FEC lock, and its link comes up. (R373) -/
  | ethLinkUp (n : Fin 2)
  /-- A general lane receiver gains or loses lock, which also completes LANE_CONFIG. (R368) -/
  | laneRxLock (i : Fin 64) (locked : Bool)
  /-- VCC_IO_n, VCC_TRIG, VCC_LANE, VCC_LANE_H or VDDQ_DDR_n leaves its range, raising FSRC 76. (R429) -/
  | supplyOutOfRange (i : Fin 18)
  /-- All core supplies are back in range, ending the held chip reset and recording FSRC 77. (R431) -/
  | coreSupplyReturn
  /-- The 10 µs minimum low time of ERR_N runs out and the pin is released if no fault still holds it. (R445) -/
  | errNHoldExpiry
  /-- A firing held back because its owner exceeded its declared rate is performed and counted in STK_DELAYED_o. (R64) -/
  | delayedFiring (o : Owner)
  /-- TRST_N assertion resets the JTAG TAP, leaving any pin-control instruction so that pins return to their R173 states. (R462) -/
  | tapReset
  deriving DecidableEq, Repr

end Sys2Proof
end

