-- ==== Sys2Proof/Config.lean ====
section
/-!
DEFINITION. Config.lean: the values that the spec leaves open and the functions that outside standards define. Each
is opaque: no proof can see a value of it, so a statement holds whatever it is.
-/
namespace Sys2Proof

/-- The free value of width `w` with index `n`: an undefined or unstated value, a random draw, or what an unwritten
vault word holds (R9, R11, R309, R407). -/
opaque Config.freeBits (w : Nat) : Nat → BitVec w

/-- SHA-384 of a byte string (R158, R414). -/
opaque Config.sha384 : List (BitVec 8) → List (BitVec 8)

/-- Verification of an ECDSA P-384 signature: public key, message digest, signature (R159, R414, R481). -/
opaque Config.ecdsaOk : List (BitVec 8) → List (BitVec 8) → List (BitVec 8) → Bool

/-- AES key unwrap: key, wrapped key; none where the integrity check fails (R157, R349). -/
opaque Config.kwUnwrap : List (BitVec 8) → List (BitVec 8) → Option (List (BitVec 8))

/-- AES key wrap: key, plain key (R479). -/
opaque Config.kwWrap : List (BitVec 8) → List (BitVec 8) → List (BitVec 8)

/-- AES-256-GCM decryption: key, IV, associated data, ciphertext, tag (R159, R484). -/
opaque Config.gcmOpen :
  List (BitVec 8) → List (BitVec 8) → List (BitVec 8) → List (BitVec 8) → List (BitVec 8) → Option (List (BitVec 8))

/-- AES-256-GCM encryption: key, IV, plaintext, giving ciphertext and tag (R484). -/
opaque Config.gcmSeal : List (BitVec 8) → List (BitVec 8) → List (BitVec 8) → List (BitVec 8)

/-- AES-CMAC: key, message (R467). -/
opaque Config.cmac : List (BitVec 8) → List (BitVec 8) → List (BitVec 8)

/-- The KDFs "as in R159" of R480 and R484, whose label and context those rules do not give: shared secret, label, context. -/
opaque Config.kdf : List (BitVec 8) → Nat → List (BitVec 8) → List (BitVec 8)

/-- ECDH on P-384: private key, public key (R467, R480). -/
opaque Config.ecdh : List (BitVec 8) → List (BitVec 8) → List (BitVec 8)

/-- The public point of a P-384 private key, and an ECDSA signature by it (R467, R488). -/
opaque Config.ecPublic : List (BitVec 8) → List (BitVec 8)

/-- The public key whose SHA-384 is a digest of the key store: an owner-signed command carries no key (R481). -/
opaque Config.keyOf : List (BitVec 8) → List (BitVec 8)

/-- The identity private key and the key of the key store's wrapping, both derived from the PUF; the certificate of the
identity key; Plovuk's return key in boot ROM (R479, R484). -/
opaque Config.identity : List (BitVec 8)
opaque Config.pufKey : List (BitVec 8)
opaque Config.identityCert : List (BitVec 8)
opaque Config.returnKey : List (BitVec 8)

/-- Is a digest one of the vendor keys that the eFuses hold and do not revoke (R415)? -/
opaque Config.vendorKey : List (BitVec 8) → Bool

/-- Raw DEFLATE (RFC 1951): none where the stream is malformed (R160). -/
opaque Config.inflate : List (BitVec 8) → Option (List (BitVec 8))

/-- AES-256 of one 16-byte block: key, block (R352). -/
opaque Config.aes256 : List (BitVec 8) → List (BitVec 8) → List (BitVec 8)

/-- AES-GMAC (NIST SP 800-38D): key, IV, message (R352). -/
opaque Config.gmac : List (BitVec 8) → List (BitVec 8) → List (BitVec 8) → List (BitVec 8)

/-! ### What the frames of a quad configure

The spec gives a frame's size and address (R154) and no bit of its contents a place. The settings that an element takes
from the frames of its quad's plane are therefore functions without a body: frames are given as (MINOR, contents), those
that are zero left out. -/

/-- The frames of one plane of one quad. -/
abbrev QuadFrames := List (Nat × BitVec 3072)

/-- LUT modes of R102. -/
inductive LutMode where
  | lut4
  | split
  | carry
  deriving DecidableEq, Repr, Inhabited

/-- Where a cluster's CIN comes from (R103). -/
inductive CinSrc where
  | south
  | zero
  | one
  | ce3
  deriving DecidableEq, Repr, Inhabited

/-- The control set of one cluster and the start of its carry chain (R103, R104). -/
structure ClusterCfg where
  cin : CinSrc
  /-- The regional clocks that are CLK0 and CLK1. -/
  clk0 : Fin 16
  clk1 : Fin 16
  /-- Each SR is active low where its bit is set. -/
  srLow : BitVec 2
  /-- SRMODE asynchronous. -/
  async : Bool
  deriving DecidableEq, Repr, Inhabited

/-- The settings of one cell (R102, R104, R190). -/
structure CellCfg where
  mode : LutMode
  lut : BitVec 16
  /-- CLKSEL: CLK1 rather than CLK0. -/
  clkSel : Bool
  /-- CESEL: one of CE0 to CE3, or always enabled. -/
  ceSel : Option (Fin 4)
  /-- SRSEL: none, SR0 or SR1. -/
  srSel : Option (Fin 2)
  srVal : Bool
  init : Bool
  carried : Bool
  deriving DecidableEq, Repr, Inhabited

/-- The settings of one wire register (R109). -/
structure WireCfg where
  enabled : Bool
  init : Bool
  deriving DecidableEq, Repr, Inhabited

/-- RWMODE (R135). -/
inductive RwMode where
  | new
  | old
  | keep
  deriving DecidableEq, Repr, Inhabited

/-- The settings of one port of a block memory (R132 to R135). `width` is the number of bits of a port word. -/
structure BramPortCfg where
  width : Nat
  clk : Fin 16
  rw : RwMode
  outReg : Bool
  orstVal : BitVec 120
  deriving DecidableEq, Repr, Inhabited

/-- The settings of one block memory (R132 to R142). -/
structure BramCfg where
  sdp : Bool
  ecc : Bool
  common : Bool
  a : BramPortCfg
  b : BramPortCfg
  deriving DecidableEq, Repr, Inhabited

/-- The settings of one arithmetic slice (R144 to R150). -/
structure SliceCfg where
  clk : Fin 16
  preMode : Fin 4
  sgnU : Bool
  sgnW : Bool
  sgnO : Bool
  pair : Bool
  chainU : Bool
  udly : Bool
  mask : BitVec 64
  refK : Bool
  ref : BitVec 64
  shift : Fin 41
  sat : Bool
  /-- Stages enabled: input stages of U and W (0 to 2), INV, INK, INF, PR, MU1, MU2, AC, OT. -/
  inu : Fin 3
  inw : Fin 3
  inv : Bool
  ink : Bool
  inf : Bool
  pr : Bool
  mu1 : Bool
  mu2 : Bool
  ac : Bool
  ot : Bool
  deriving DecidableEq, Repr, Inhabited

/-- The settings of cell `n` of the quad: (16 × (48 × row + column) + cell) within the quad. -/
opaque Config.cell : QuadFrames → Nat → CellCfg

/-- The control set of cluster 48 × row + column of the quad. -/
opaque Config.cluster : QuadFrames → Nat → ClusterCfg

/-- The settings of a wire register: its cluster's number within the quad that it sits in, and its number of R107. -/
opaque Config.wire : QuadFrames → Nat → Nat → WireCfg

/-- The routing clock of a cluster column (0 to 95) of a sector, from the frames of its four quads (R109). -/
opaque Config.routeClock : List QuadFrames → Nat → Fin 16

/-- What a multiplexer of the routing can select (R107, R108). Cells and wires are numbered over the device: cell
(1152 y + x) × 16 + n, wire (1152 y + x) × 256 + k with k counting the wires of R107 that cluster (x, y) starts, in the
table's order (L1, L2, L4, L12, long; N, E, S, W; line). -/
inductive Net where
  /-- Q, F and the SPLIT output G of a cell (R102). -/
  | q (cell : Nat)
  | f (cell : Nat)
  | g (cell : Nat)
  /-- A wire at its end or at its midpoint. -/
  | wire (w : Nat) (mid : Bool)
  | bus (seg : BitVec 15)
  /-- A block-memory port: read data 0 to 119, then SBE, DBE and COLLB. -/
  | bram (i : Nat) (b : Bool) (pin : Nat)
  /-- A slice: ACC 0 to 63, OUT 64 to 87, then SATF, MT, MTN and OVF. -/
  | slice (i : Nat) (pin : Nat)
  | border (quad : Nat) (out : Bool) (i : Nat)
  /-- IN of a trigger pin (R72), and a strike line (R65). -/
  | pin (p : Nat)
  | line (sec : Nat) (line : Nat)
  /-- Bit `k` of the word received on a RAW lane (R369); of a JESD link's word, then its valid (R370). -/
  | raw (lane : Nat) (k : Nat)
  | jesd (n : Nat) (k : Nat)
  /-- A signal that enters the fabric from elsewhere: user I/O, serial ports, the other fabric-port channels. -/
  | ext (n : Nat)
  deriving DecidableEq, Repr, Inhabited

/-- What a multiplexer feeds (R107, R108). -/
inductive NetSink where
  | wire (w : Nat)
  | lut (cell : Nat) (j : Nat)
  /-- CE0 to CE3 and SR0, SR1 of cluster 1152 y + x. -/
  | ce (cluster : Nat) (j : Nat)
  | sr (cluster : Nat) (j : Nat)
  /-- A block-memory port: write data 0 to 119, address from 120, WE from 134, then EN, OCE, ORST, INJ1 and INJ2. -/
  | bram (i : Nat) (b : Bool) (pin : Nat)
  /-- A slice: U, V and W from 0, 24 and 48, K from 72, FN from 120, CI 125, hold from 126 and clear inputs from 135. -/
  | slice (i : Nat) (pin : Nat)
  | border (quad : Nat) (out : Bool) (i : Nat)
  /-- The input of a bus-line driver: at the segment's south or west end, or (`far`) at the other. -/
  | bus (seg : BitVec 15) (far : Bool)
  deriving DecidableEq, Repr

/-- The selection of a multiplexer of a quad, from the quad's frames: one input, or none for a constant 0 (R108). -/
opaque Config.select : QuadFrames → NetSink → Option Net

/-- OUT and OE of a trigger pin's channel and the heartbeat input of a fabric port, from the frames of the sector's quads
(R122). -/
inductive PortSink where
  | out (p : Nat)
  | oe (p : Nat)
  | heartbeat
  | ready
  /-- Bit `k` of the word that a RAW lane, and that a transmitting JESD link, takes from the sector (R369, R370). -/
  | rawTx (lane k : Nat)
  | jesdTx (n k : Nat)
  deriving DecidableEq, Repr

opaque Config.portSelect : List QuadFrames → PortSink → Option Net

/-- Is the driver of a bus-line segment at the end (`far`) enabled (R111)? The MINORs of the quad's frames that enable
its two drivers. -/
opaque Config.busDrive : QuadFrames → BitVec 15 → Bool → Bool
opaque Config.busMinors : BitVec 15 → Fin 960 × Fin 960

/-- One regional clock of a sector: the global clock that it selects, and the routing that drives its clock enable, if
any (R117). -/
structure RclkCfg where
  gclk : Fin 32
  en : Option Net
  deriving DecidableEq, Repr, Inhabited

opaque Config.rclk : List QuadFrames → Fin 16 → RclkCfg

/-- The frames of an image: frame address and contents. -/
abbrev ImageFrames := List (Nat × BitVec 3072)

/-- One global clock (R116, R424): its two sources (PLL × 4 + output for the fabric PLLs, from 96 on the others in the order
of R116), whether its select is given to fabric logic, and the routing that drives its root enable, if any. -/
structure GclkCfg where
  src0 : Fin 130
  src1 : Fin 130
  routed : Bool
  en : Option Net
  deriving DecidableEq, Repr, Inhabited

opaque Config.gclk : ImageFrames → Fin 32 → GclkCfg

/-- A RAW lane (R369): word width (32, 40 or 64 bits), the sector on its fabric side, and the global clocks of its receive and
transmit words. -/
structure RawCfg where
  width : Fin 3
  sector : Fin 96
  rxClk : Fin 32
  txClk : Fin 32
  deriving DecidableEq, Repr, Inhabited

opaque Config.raw : ImageFrames → Fin 64 → RawCfg

/-- The link clock of a JESD link, chosen from the global clocks (R370). -/
opaque Config.linkClk : ImageFrames → Fin 8 → Fin 32

/-- The reference of a fabric PLL (R118). -/
inductive PllRef where
  | chassis
  | xo
  | gclk (n : Fin 32)
  | lane (k : Fin 8)
  deriving DecidableEq, Repr, Inhabited

/-- One fabric PLL (R118): enable, reference and its divider, feedback divider with its 24-bit fraction, and the dividers and
phases of C0 to C3. -/
structure PllCfg where
  en : Bool
  ref : PllRef
  refDiv : Nat
  fbDiv : Nat
  frac : BitVec 24
  fracMode : Bool
  outDiv : Fin 4 → Nat
  phase : Fin 4 → Nat
  deriving Inhabited

opaque Config.pll : ImageFrames → Fin 24 → PllCfg

/-- Frequencies in kHz that the board fixes: XO, the reference of a lane group, and a global-clock source that is no fabric
PLL (from 96 on). -/
opaque Config.xoKhz : Nat
opaque Config.laneRefKhz : Fin 8 → Nat
opaque Config.clockKhz : Nat → Nat

/-- A value that routing leaves unpredictable (R10, R110, R114, R130, R153): free in the draw and in what it stands for. -/
opaque Config.wild : (w : Nat) → Nat → Nat → BitVec w

/-- The settings of block memory 0 to 11 of the quad. -/
opaque Config.bram : QuadFrames → Nat → BramCfg

/-- The settings of slice 0 to 31 of the quad. -/
opaque Config.slice : QuadFrames → Nat → SliceCfg

/-- The regional clock that a border clock input of the quad selects, and the border clock input of a border-port register:
direction and number (R181). -/
opaque Config.borderClk : QuadFrames → Fin 4 → Fin 16
opaque Config.border : QuadFrames → Bool → Nat → Fin 4

/-- The regional clock that is the port clock of a sector, from the frames of its four quads (R122). -/
opaque Config.portClock : List QuadFrames → Fin 16

/-- The ns that 4,096 cycles of a sector's port clock last, from the frames of its four quads (R123, R299). -/
opaque Config.portLimit : List QuadFrames → Nat

/-- Does the reference clock of a lane group reach a lane rate, in units of 0.125 Gb/s (R368, R392)? -/
opaque Config.rateReached : Nat → Nat → Bool

/-- Do the timings of the trained devices let a bank (32 × rank + 4 × group + bank) take its next command (R328), after the latest
commands of its port and at a count of DRAM clocks? -/
opaque Config.bankReady : List (BitVec 64) → Nat → Nat → Bool

/-- The SEC-DED codes of a packet's header and of a data word (R276, R277). -/
opaque Config.headerCheck : BitVec 128 → BitVec 9
opaque Config.wordCheck : BitVec 64 → BitVec 8

/-- Store credits of VC0 and VC3, beyond the one there always is, that a target NI grants an initiator NI (R282). -/
opaque Config.storeRoom : Nat → Nat → Nat

/-- Plovuk's PCI-SIG vendor ID (R175). -/
opaque Config.vendorId : BitVec 16

/-- The fabric PLLs and the system PLLs that the image selects WAIT_LOCK to wait for (R118, R169). -/
opaque Config.waitPlls : ImageFrames → List (Fin 24)
opaque Config.waitSplls : ImageFrames → List (Fin 4)

/-- The six check bits of a block-memory word (R138), and what the code finds for a word and the difference between its
stored and its computed check bits: 1 an error put right, 2 a double error; with the word as it is read. -/
opaque Config.eccCheck : BitVec 24 → BitVec 6
opaque Config.eccFind : BitVec 24 → BitVec 6 → Fin 3 × BitVec 24

/-- The place of the captured bits of a quad in its capture frames (R478): kind, frame, configuration, flip-flops, wire
registers, native words. -/
opaque Config.captureFrame : Nat → Nat → QuadFrames → List (Nat × Option Bool) → List (Nat × Option Bool) →
  List (Nat × BitVec 30) → BitVec 3072

end Sys2Proof
end

