-- ==== Sys2Proof/Machine/Bits.lean ====
section
/-!
DEFINITION. Machine/Bits.lean: byte order, bit fields, saturating counters and the canonical sparse tables that the
state is made of. Nothing here knows the machine.
-/
namespace Sys2Proof.Machine

/-- The value of key `k` in a table, `d` where the table does not list it. -/
def tget {α : Type} : List (Nat × α) → α → Nat → α
  | [], d, _ => d
  | (k', v) :: t, d, k => if k = k' then v else tget t d k

/-- The table with key `k` listed with value `v`, keys kept rising. -/
def tins {α : Type} : List (Nat × α) → Nat → α → List (Nat × α)
  | [], k, v => [(k, v)]
  | (k', v') :: t, k, v =>
    if k < k' then (k, v) :: (k', v') :: t
    else if k = k' then (k, v) :: t
    else (k', v') :: tins t k v

/-- The table with key `k` removed. -/
def tdel {α : Type} : List (Nat × α) → Nat → List (Nat × α)
  | [], _ => []
  | (k', v') :: t, k => if k = k' then tdel t k else (k', v') :: tdel t k

/-- The table with key `k` set to `v`, in canonical form: setting the default removes the entry. -/
def tput {α : Type} [DecidableEq α] (t : List (Nat × α)) (d : α) (k : Nat) (v : α) : List (Nat × α) :=
  if v = d then tdel t k else tins t k v

/-- The table with every key of `ks` for which `f` gives a value set to it. -/
def tputAll {α : Type} [DecidableEq α] (t : List (Nat × α)) (d : α) (ks : List Nat) (f : Nat → Option α) : List (Nat × α) :=
  ks.foldl (fun (t : List (Nat × α)) (k : Nat) => match f k with | some v => tput t d k v | none => t) t

/-- The table with `f` applied to every entry, in canonical form; `f` leaves the default as it is. -/
def tmap {α : Type} [DecidableEq α] (t : List (Nat × α)) (d : α) (f : α → α) : List (Nat × α) :=
  (t.map fun e => (e.1, f e.2)).filter fun e => e.2 ≠ d

/-- Keys strictly rising from `lo` on, and no entry equal to the default. -/
def tabWfFrom {α : Type} [DecidableEq α] (d : α) : Nat → List (Nat × α) → Bool
  | _, [] => true
  | lo, (k, v) :: t => decide (lo ≤ k) && decide (v ≠ d) && tabWfFrom d (k + 1) t

/-- The canonical form of a table whose unlisted entries read as `d`. -/
def tabWf {α : Type} [DecidableEq α] (d : α) (t : List (Nat × α)) : Bool := tabWfFrom d 0 t

/-- The canonical form of a byte memory whose unlisted bytes read as zero. -/
abbrev memWf (m : List (Nat × Byte)) : Bool := tabWf (0#8) m

/-- One byte of a memory. -/
def rdByte (m : List (Nat × Byte)) (a : Nat) : Byte := tget m 0#8 a

/-- `n` bytes from address `a` up. -/
def rdBytes (m : List (Nat × Byte)) (a n : Nat) : List Byte := (List.range n).map fun i => rdByte m (a + i)

/-- The memory with the bytes `bs` stored from address `a` up. -/
def wrBytes (m : List (Nat × Byte)) (a : Nat) : List Byte → List (Nat × Byte)
  | [] => m
  | b :: bs => wrBytes (tput m 0#8 a b) (a + 1) bs

/-- The number that bytes spell, least significant first (R12). -/
def leNat : List Byte → Nat
  | [] => 0
  | b :: bs => b.toNat + 256 * leNat bs

/-- One bit of a reflected cyclic redundancy code of width 32. -/
def crcBit (poly c : BitVec 32) : BitVec 32 := if c.getLsbD 0 then (c >>> 1) ^^^ poly else c >>> 1

def crcByte (poly c : BitVec 32) (b : Byte) : BitVec 32 := (List.range 8).foldl (fun c _ => crcBit poly c) (c ^^^ b.setWidth 32)

/-- CRC-32C (R155, R166, R175, R378): reflected polynomial 0x82F63B78, ones before and inverted after (PRESUMED: the code of
that name; the spec gives no polynomial). -/
def crc32c (bs : List Byte) : BitVec 32 := ~~~ bs.foldl (crcByte 0x82F63B78#32) 0xFFFFFFFF#32

/-- The frame check sequence that FCS insert appends (R374), that of IEEE 802.3 (PRESUMED, as above). -/
def frameFcs (bs : List Byte) : BitVec 32 := ~~~ bs.foldl (crcByte 0xEDB88320#32) 0xFFFFFFFF#32

/-- `n` bytes of a number, least significant first (R12). -/
def leBytes : Nat → Nat → List Byte
  | 0, _ => []
  | n + 1, v => BitVec.ofNat 8 v :: leBytes n (v / 256)

/-- `n` bytes of a number, most significant first. -/
def beBytes (n v : Nat) : List Byte := (leBytes n v).reverse

/-- The first `n` bytes of a list, zeros after its end. -/
def fit (n : Nat) (bs : List Byte) : List Byte := (bs ++ List.replicate n 0#8).take n

/-- The counter-mode KDF with AES-CMAC of R159 for 256 bits: key, label, context; the bit strings of the rule most significant bit
first (DEDUCED, log 111). -/
def kdf (k : List Byte) (label : Nat) (ctx : List Byte) : List Byte :=
  let half (n : Nat) : List Byte := fit 16 (Config.cmac k (beBytes 4 n ++ beBytes 4 label ++ [0#8] ++ ctx ++ beBytes 4 0x100))
  half 1 ++ half 2

/-- A number read from memory, `n` bytes at `a` (R12). -/
def rdLE (m : List (Nat × Byte)) (a n : Nat) : Nat := leNat (rdBytes m a n)

/-- 1 for a set bit. -/
def b2n (b : Bool) : Nat := if b then 1 else 0

/-- Bits [lo + w - 1 : lo] of a number. -/
def bitsOf (v lo w : Nat) : Nat := v / 2 ^ lo % 2 ^ w

/-- Bit `i` of a number. -/
def bitOf (v i : Nat) : Bool := bitsOf v i 1 = 1

/-- The number with bits [lo + w - 1 : lo] replaced. -/
def setBits (v lo w x : Nat) : Nat := v - bitsOf v lo w * 2 ^ lo + x % 2 ^ w * 2 ^ lo

/-- A register word from fields given as (lowest bit, value); the fields of a register never overlap. -/
def packW (fs : List (Nat × Nat)) : W32 := fs.foldl (fun w f => w ||| (BitVec.ofNat 32 f.2 <<< f.1)) 0#32

/-- Fields put at their places in a wide number. -/
def packN (fs : List (Nat × Nat)) : Nat := fs.foldl (fun v f => v + f.2 * 2 ^ f.1) 0

/-- One added to a counter that stays at its largest value (R19's saturating counters). -/
def satInc {w : Nat} (v : BitVec w) : BitVec w := if v = BitVec.allOnes w then v else v + 1

/-- `n` added to a saturating counter. -/
def satAdd {w : Nat} (v : BitVec w) (n : Nat) : BitVec w := BitVec.ofNat w (min (2 ^ w - 1) (v.toNat + n))

/-- Division rounded up. -/
def ceilDiv (a b : Nat) : Nat := (a + b - 1) / b

/-- Does a mask name bit `i`? -/
def inMask (m i : Nat) : Bool := bitOf m i

/-- The least exponent `k` with `n ≤ 2 ^ k` (R209, R67). -/
def clog2 (n : Nat) : Nat := if n ≤ 1 then 0 else Nat.log2 (n - 1) + 1

/-- `P` is ahead of the current position `C` (R43). -/
def posAhead (p c : W64) : Bool := p ≠ c && (p - c).toNat < 2 ^ 63

/-- The first index below `n` that satisfies `p`. -/
def firstFrom (p : Nat → Bool) : Nat → Nat → Option Nat
  | 0, _ => none
  | n + 1, i => if p i then some i else firstFrom p n (i + 1)

/-- The first index below `n` that satisfies `p`: the model's choice where the spec leaves a free number open. -/
def firstFree (n : Nat) (p : Nat → Bool) : Option Nat := firstFrom p n 0

/-- Positions of the set bits among the lowest `n`. -/
def maskList (n m : Nat) : List Nat := (List.range n).filter (inMask m)

/-- Bits of a list of Booleans, lowest first. -/
def maskOf (bs : List Bool) : Nat := bs.foldr (fun b v => b2n b + 2 * v) 0

/-- Does the list hold no element twice? -/
def noDup {α : Type} [DecidableEq α] : List α → Bool
  | [] => true
  | x :: xs => !xs.contains x && noDup xs

end Sys2Proof.Machine
end

