-- ==== Sys2Proof/Machine/State.lean ====
section
/-!
DEFINITION. Machine/State.lean: everything the spec gives the machine to hold, as plain data. Each unit is one
structure whose default values are its values after the reset of R431; repeated instances (queues, engines, pins)
stand in sparse tables (`Tab`) in one canonical form, where an instance that a table does not list has its reset
value. Memories are lists of (address, byte) cells in the same form.
-/
namespace Sys2Proof.Machine

/-- A sparse table: keys strictly rising, no entry equal to the value of an unlisted key. -/
abbrev Tab (α : Type) := List (Nat × α)

/-- Byte memory by address: a table of bytes (R12). -/
abbrev Mem := List Host.Cell

/-! ### The part and the manifest (R4, R162) -/

/-- The variants of R4. -/
inductive Variant where
  | f
  | c
  | m
  | s
  deriving DecidableEq, Repr

/-- A mailbox record of the manifest, or the binding of mailboxes 4 to 7 (R126, R396). -/
structure MbBind where
  mb : Mb
  owner : Owner
  channel : Option SectorId
  deriving DecidableEq, Repr

/-- A FAULT record for a user source, with the heartbeat binding it may carry (R127). -/
structure UserFault where
  src : Nat
  cls : Nat
  level : Nat
  cap : Option Nat
  errn : Bool
  latch : Bool
  heartbeat : Option (SectorId × Nat)
  deriving DecidableEq, Repr

/-- A REGION record: quads, owner, BORDER_ID and STORE_SIZE, where it gives one (R179, R182). -/
structure RegionRec where
  region : RegionId
  owner : Owner
  quads : List Nat
  border : List Byte
  storeSize : Option Nat := none
  deriving DecidableEq, Repr

/-- A FUNCTION or PEER record (R252, R367, R383, R396). -/
structure PeerRec where
  port : Fin 2
  src : Fin 16
  owner : Owner
  mb : Option Mb
  deriving DecidableEq, Repr

/-- The manifest in force (R162). With none in force every resource is owner 0's. -/
structure Manifest where
  inForce : Bool := false
  owners : BitVec 16 := 1#16
  secure : BitVec 16 := 0#16
  config : BitVec 16 := 1#16
  boxes : List MbBind := []
  sector : Tab Owner := []
  quad : Tab Owner := []
  pins : List (PinCode × Owner × Option SectorId × Bool) := []
  axes : List (AxisId × Owner) := []
  plls : List (PllId × Owner) := []
  caps : List (CapId × Owner) := []
  ptu : List (Fin 2 × Owner) := []
  regions : List RegionRec := []
  pf0 : Option Owner := none
  pf1 : Option Owner := none
  /-- PERST# resets the chip rather than the endpoint (R367). -/
  perstChip : Bool := false
  peers : List PeerRec := []
  /-- The device's own ring ID (R375). -/
  ringId : BitVec 4 := 0#4
  faults : List UserFault := []
  /-- STARTUP record: the positions of the steps of R169 in the order of the table, their waits and LOCK_TIMEOUT. -/
  startup : List Nat := [0, 1, 2, 3]
  waits : List (BitVec 16) := [0, 0, 0, 0]
  lockTimeout : BitVec 16 := 0x40#16
  /-- Level-1 password records: owner, SALT, PWD (R466). -/
  pwd : List (Owner × List Byte × List Byte) := []
  /-- DBGKEY digests (R467), and mailboxes marked DEBUG (R463). -/
  dbgKey : List (Owner × List Byte) := []
  debugBoxes : List Mb := []
  deriving DecidableEq, Repr

/-! ### Faults, health and temperature (R440 to R460) -/

/-- Settings of one fault source, FLT_SRC_i (R458). -/
structure SrcCfg where
  cls : Nat
  level : Nat
  cap : Nat
  errn : Bool
  latch : Bool
  mask : Bool
  deriving DecidableEq, Repr

/-- A fault that a unit has raised and the collector has not yet handled (R442, R447): its source, the class of its
cause (R440), the owners it is delivered to (R446), its block (R449), INFO and the LOCAL position and instant at
which it was raised. -/
structure Raised where
  src : Nat
  cls : Nat
  owners : List Owner
  block : Option Block
  info : W32
  injected : Bool
  stamp : W64
  time : Nat
  deriving DecidableEq, Repr

/-- A fault record of the history (R451). -/
structure FaultRec where
  stamp : W64
  src : Nat
  cls : Nat
  level : Nat
  applied : Nat
  errn : Bool
  latched : Bool
  owner : Owner
  injected : Bool
  info : W32
  block : Option Block
  seq : BitVec 16
  count : W32
  deriving DecidableEq, Repr

/-- FAULT_NOTIFY settings of one owner (R446, R460). -/
structure Notify where
  queue : Option Nat := none
  vector : Option Nat := none
  urgent : Option Nat := none
  engine : Option Nat := none
  sector : Option Nat := none
  deriving DecidableEq, Repr

/-- What the collector keeps for one owner (R447, R448, R458). `esc` lists the classes that have an escalation
level, with it. -/
structure OwnerFlt where
  pend : BitVec 8 := 0#8
  esc : Tab (Option Nat) := []
  last : W32 := 0#32
  count : W32 := 0#32
  seq : BitVec 16 := 0#16
  notify : Notify := {}
  deriving DecidableEq, Repr

/-- Coalescing state of one source and owner (R450): when its latest record was written, and the events counted
since. -/
structure Coalesce where
  last : Nat
  count : W32
  deriving DecidableEq, Repr

/-- The fault collector (R440 to R451, R458) and the health record (R456). -/
structure Flt where
  /-- FLT_SRC_i, keyed by source; an unlisted source has its reset settings. -/
  cfg : Tab SrcCfg := []
  /-- FLT_CNT_i. -/
  cnt : Tab W32 := []
  /-- Per owner: pending classes, escalation levels, latest fault, count, sequence, notification forms. -/
  owner : Tab OwnerFlt := []
  /-- Blocks with IN_FAULT set (R449). -/
  inFault : List Block := []
  chipLatched : Bool := false
  /-- Faults raised and not yet handled. -/
  raised : List Raised := []
  /-- The last 1,024 records, oldest first (R451). -/
  history : List FaultRec := []
  /-- Index of the oldest record held, counted since chip reset (R460). -/
  histFirst : Nat := 0
  /-- Coalescing intervals, keyed by source × 16 + owner (R450). -/
  coal : Tab (Option Coalesce) := []
  /-- Unacknowledged ERRN faults by owner and class (R445). -/
  errnPend : List (Owner × Nat) := []
  /-- Latched ERRN faults by block (R445). -/
  errnLatch : List (Option Block) := []
  /-- The instant at which ERR_N went low, while its 10 µs minimum runs (R445). -/
  errnSince : Option Nat := none
  /-- ERR_N held low from an L4 reaction until the device runs again (R445). -/
  errnChip : Bool := false
  /-- NMIs sent to the belfry (R442). -/
  nmis : Nat := 0
  /-- Lockstep recovery in progress (R452), the time of the latest disagreement, recoveries since chip reset. -/
  lockstep : Bool := false
  lockLast : Option Nat := none
  lockCount : W32 := 0#32
  /-- CAUSES of HEALTH (R413, R456); health is REPLACE_SOON and SVC_N is low while a cause stands. -/
  causes : W32 := 0#32
  deriving DecidableEq, Repr

/-- One thermal sensor (R453, R459). -/
structure Sensor where
  temp : BitVec 16 := 0#16
  valid : Bool := false
  failed : Bool := false
  /-- Consecutive readings of 130 °C or more, up to 2 (R455). -/
  hot : Fin 3 := 0
  deriving DecidableEq, Repr

/-- The thermal unit (R453 to R455, R459). `warnAt` is the threshold THERMAL_CONFIG set, none for its default. -/
structure Thm where
  warn : Bool := false
  overMax : Bool := false
  shutdown : Bool := false
  warnAt : Option (BitVec 16) := none
  peak : BitVec 16 := 0x8000#16
  sens : Tab Sensor := []
  deriving DecidableEq, Repr

/-! ### Clocks, resets and power (R421 to R438) -/

/-- One clock source and its monitor, CKR_SRC_i (R427, R436). -/
structure ClkSrc where
  edges : Bool := false
  pass : Bool := false
  ready : Bool := false
  failS : Bool := false
  /-- Deviations of the latest 64 windows in ppm, latest first. -/
  devs : List (BitVec 24) := []
  /-- Consecutive windows whose deviation exceeded LIMIT (R427). -/
  bad : Nat := 0
  /-- Consecutive windows passed; 100 windows of 10 µs make the 1 ms of R424. -/
  good : Nat := 0
  deriving DecidableEq, Repr

/-- One clock domain, CKR_DOM_d (R423, R436). -/
structure ClkDom where
  iosc : Bool := true
  switching : Bool := false
  fallbackS : Bool := false
  switches : BitVec 8 := 0#8
  lost : BitVec 16 := 0#16
  deriving DecidableEq, Repr

/-- One global clock root, CKR_GCLK_n (R116, R424, R436). -/
structure Gclk where
  /-- The two sources that the image gives it: PLL × 4 + output for the fabric PLLs, from 96 on the others in the order
  of R116. -/
  src0 : Nat := 96
  src1 : Nat := 96
  sel : Bool := false
  routed : Bool := false
  refusedS : Bool := false
  deriving DecidableEq, Repr

/-- The clock and reset controller. -/
structure Ckr where
  /-- 0 NONE, 1 CHASSIS_REF, 2 XO (R422). -/
  ref : Nat := 0
  ioscSuspect : Bool := false
  /-- RESET_CAUSE.LAST and COUNT (R436). -/
  cause : Nat := 0
  count : BitVec 8 := 0#8
  /-- CKR_SUPPLY: its reset value is undefined (R11); the model starts with every supply good. -/
  supply : W32 := 0x000FFF3F#32
  limit : BitVec 16 := 1000#16
  autoReturn : Bool := true
  /-- IOSC's ratio at its latest calibration, in ppm (R427). -/
  ioscCal : BitVec 24 := 0#24
  /-- The latest ratio that a cross-check measured. -/
  ioscNow : BitVec 24 := 0#24
  src : Tab ClkSrc := []
  dom : Tab ClkDom := []
  gclk : Tab Gclk := []
  gate0 : W32 := 0xFFFFFFFF#32
  gate1 : W32 := 0x1FFF#32
  pwrSec : BitVec 96 := BitVec.allOnes 96
  pwrUnit : W32 := 0xFFFFFFFF#32
  pwrMisc : BitVec 3 := 7#3
  /-- The POWER_DOMAIN in progress: unit code, index, the mailbox that asked (R434). -/
  powering : Option (Nat × Nat × Nat) := none
  /-- Blocks held in reset (R432), and the mailbox that a BLOCK_RESET command waits on. -/
  inReset : List Block := []
  /-- Block resets requested by an L3 reaction or a command and not yet asserted (R442). -/
  resetReq : List (Block × Option Mb) := []
  /-- BLOCK_RESET commands that complete at their block's t_r. -/
  resetWait : List (Block × Mb) := []
  /-- A chip reset due: the instant and its cause code (R436, R438). -/
  chipReset : Option (Nat × Nat) := none
  /-- Core supplies out of range (VCC_CORE, VCC_SRAM, VCC_AUX), which hold a chip reset (R431). -/
  coreLost : BitVec 3 := 0#3
  /-- POR_N low or VCC_AON out of range. -/
  por : Bool := true
  deriving DecidableEq, Repr

/-! ### Mailboxes (R394 to R412) -/

/-- STATE of a mailbox (R398). -/
inductive MbState where
  | idle
  | posted
  | running
  | complete
  deriving DecidableEq, Repr

/-- The command copied into belfry SRAM, and the progress of a long one (R401, R405). -/
structure Running where
  op : Nat
  tag : W32
  notifyOff : Bool
  length : Nat
  buf : Mem
  /-- Instant of the doorbell's acceptance, and CSEQ of the command. -/
  since : Nat
  cseq : BitVec 16
  /-- A long command that has passed its acceptance checks (R410). -/
  long : Bool := false
  step : W32 := 0#32
  /-- STATUS, DETAIL and payload of the final response of a long command whose work has ended (R405). -/
  final : Option (Nat × Nat × List Byte) := none
  /-- The response is to be discarded because the token was redrawn meanwhile (R407). -/
  discard : Bool := false
  deriving DecidableEq, Repr

/-- One mailbox page (R398). -/
structure Mailbox where
  st : MbState := .idle
  interim : Bool := false
  dropped : Bool := false
  nlost : Bool := false
  bound : Bool := false
  owner : Owner := 0
  cseq : BitVec 16 := 0#16
  rseq : BitVec 16 := 0#16
  token : W32 := 0#32
  /-- A draw of R407 is due. -/
  tokenDue : Bool := false
  notify : W32 := 0#32
  cmd : Mem := []
  resp : Mem := []
  run : Option Running := none
  /-- Instant of the latest accepted doorbell. -/
  since : Nat := 0
  deriving DecidableEq, Repr

/-- Which program answers the mailboxes (R395). -/
inductive Program where
  | hardware
  | recovery
  | atmon
  deriving DecidableEq, Repr

/-- The mailboxes and the firmware that serves them. -/
structure Mbx where
  box : Tab Mailbox := []
  /-- Accepted doorbells not yet executed, oldest first (R410). -/
  order : List Mb := []
  prog : Program := .hardware
  /-- MBX_ATMON: READY, FW_FAIL, VERSION; MBX_FWERR (R399). -/
  ready : Bool := false
  fwFail : Bool := false
  fwVersion : W32 := 0#32
  fwErr : Nat := 0
  /-- CFG_RELOAD has been accepted (R412). -/
  reloading : Bool := false
  deriving DecidableEq, Repr

/-! ### Queues and task dispatch (R246 to R271) -/

/-- KIND of a queue (R246, R247). -/
inductive QKind where
  | free
  | message
  | task
  | event
  deriving DecidableEq, Repr

/-- The state entry of one queue (R247). -/
structure Queue where
  base : Nat := 0
  sizeExp : Nat := 0
  esize : Nat := 0
  kind : QKind := .free
  owner : Owner := 0
  /-- BPMODE HOLD_NOTE. -/
  note : Bool := false
  en : Bool := false
  notifyEn : Bool := false
  vector : BitVec 11 := 0#11
  pidx : Nat := 0
  cidx : Nat := 0
  context : Nat := 0
  deriving DecidableEq, Repr

/-- Where a push that found its queue full waits (R251). -/
inductive Holder where
  | initiator (who : Initiator)
  | ni (id : Nat)
  | fabric (s : SectorId)
  | engine (g : EngineId)
  | done (g : EngineId)
  | tdu
  deriving DecidableEq, Repr

/-- A push held at its source (R251). -/
structure Held where
  who : Holder
  q : Nat
  /-- The owner of the queue as the push came. -/
  owner : Owner
  data : List Byte
  /-- The instant from which it is held (R253). -/
  since : Nat
  deriving DecidableEq, Repr

/-- What a pop has captured for its initiator: the words and QCU_POPSTAT (R250). -/
structure PopCap where
  words : List Byte := []
  valid : Bool := false
  err : Bool := false
  count : Nat := 0
  deriving DecidableEq, Repr

/-- The pop window of one owner (R250, R270): the selected queue, the count after the latest real pop, and what each initiator's
latest pop captured. -/
structure PopWin where
  sel : Nat := 0
  count : Nat := 0
  caps : List (Initiator × PopCap) := []
  dbdrop : W32 := 0#32
  deriving DecidableEq, Repr

/-- The queue unit. -/
structure Qcu where
  queue : Tab Queue := []
  win : Tab PopWin := []
  /-- Pushes held at full queues, in the order they reached the QCU. -/
  held : List Held := []
  limit : BitVec 10 := 0#10
  hostDrop : W32 := 0#32
  deriving DecidableEq, Repr

/-- An engine group (R257, R271). -/
structure Group where
  defined : Bool := false
  engines : List EngineId := []
  ax : AxisId := 0
  owner : Owner := 0
  misses : W32 := 0#32
  deriving DecidableEq, Repr

/-- The record of one task context (R258). -/
structure Ctx where
  valid : Bool := false
  admitted : Bool := false
  missDrop : Bool := false
  pflow : Nat := 0
  entry : BitVec 13 := 0#13
  group : Nat := 0
  budget : Nat := 0
  period : W64 := 0#64
  deadline : W64 := 0#64
  taskq : Nat := 0
  compq : Option Nat := none
  argBase : GAddr := 0#48
  argSize : Nat := 0
  lastValid : Bool := false
  last : W64 := 0#64
  owner : Owner := 0
  reserve : Nat := 0
  reladj : W32 := 0#32
  misses : W32 := 0#32
  /-- Per-context completion sequence (R256). -/
  seq : BitVec 16 := 0#16
  deriving DecidableEq, Repr

/-- A token in the ready store or on an engine (R259, R261). -/
structure Token where
  ctx : Nat
  release : W64
  deadline : W64
  arg : GAddr
  arrival : Nat
  missed : Bool
  /-- When it entered the ready store (R269). -/
  since : Nat
  deriving DecidableEq, Repr

/-- The observation unit (R267 to R269). -/
structure Obs where
  mode : Nat := 0
  owner : Owner := 0
  groups : BitVec 16 := 0#16
  queue : Nat := 0
  queues : List Nat := []
  lost : BitVec 16 := 0#16
  /-- Records were lost since the latest one written. -/
  gap : Bool := false
  seq : BitVec 16 := 0#16
  /-- Busy time of each engine (ns), high-water counts, histogram bins by group × 16 + bin. -/
  busy : Tab Nat := []
  high : Tab Nat := []
  hist : Tab Nat := []
  start : Nat := 0
  deriving DecidableEq, Repr

/-- The task dispatch unit. -/
structure Tdu where
  group : Tab Group := []
  ctx : Tab Ctx := []
  ready : List Token := []
  arrivals : Nat := 0
  /-- The token that each engine holds, with the instant of its handover (R261). -/
  running : Tab (Option (Token × Nat)) := []
  /-- Tokens whose engine's kit was reset, with that engine: they complete at their deadline (R432). -/
  orphan : List (Token × Nat) := []
  obs : Obs := {}
  deriving DecidableEq, Repr

/-! ### Axes, strikes, pins and captures (R43 to R79, R519) -/

/-- STATE of an axis, AXU_STAT_n (R77). -/
inductive AxState where
  | disabled
  | running
  | extrap
  | clamped
  | held
  | stalled
  deriving DecidableEq, Repr

/-- The settings of one axis: AXU_CFG_n, AXU_LIM_n, AXU_SRC_n, RATE_MAX and START (R77, R79). -/
structure AxCfg where
  en : Bool := false
  src : BitVec 5 := 0#5
  bidir : Bool := false
  track : Bool := false
  ks : BitVec 4 := 4#4
  kp : BitVec 4 := 6#4
  bshift : BitVec 6 := 0x16#6
  clamp : BitVec 24 := 0#24
  stallExp : BitVec 8 := 0x0A#8
  srcReg : W32 := 0#32
  rateMax : W64 := 0#64
  start : W64 := 0#64
  deriving DecidableEq, Repr

/-- One axis (R43 to R53). Instants are in 1/256 ns. -/
structure Axis where
  cfg : AxCfg := {}
  /-- The owner that the manifest names as its controller (R44). -/
  controller : Owner := 0
  /-- The position published at the latest edge and at the one before (R46, R59). -/
  pos : W64 := 0#64
  prev : W64 := 0#64
  /-- The position that the axis will publish 64 ns later, as known at the latest edge and at the one before
  (R60). -/
  ahead : W64 := 0#64
  aheadPrev : W64 := 0#64
  st : AxState := .disabled
  heldS : Bool := false
  stallS : Bool := false
  stepS : Bool := false
  discS : Bool := false
  /-- The latest change of the published position was a step (R51, R59). -/
  stepped : Bool := false
  /-- The latest non-zero change was downward (R74). -/
  down : Bool := false
  /-- The rate tracker of R47: signed 32.32 rate, events since the restart (0, 1, then 2 for more), the latest
  event. -/
  rate : W64 := 0#64
  n : Fin 3 := 0
  sPrev : W64 := 0#64
  tPrev : Nat := 0
  /-- Known source events, newest first, back to the one that the published position starts from. -/
  events : List (Nat × W64) := []
  /-- The source position of an event source, and the instant of the latest event or enable. -/
  spos : W64 := 0#64
  since : Nat := 0
  /-- No edge has come since the axis was enabled or reset: a direct source's value is then published as it is (R46, R519). -/
  first : Bool := false
  /-- ENCODER source: the levels of inputs A and B at the latest sample (R45). -/
  quad : Bool × Bool := (false, false)
  /-- RING source: the position, rate, AGE (1/256 ns) and instant of the latest AXIS cell, and its discontinuity epoch
  (R377, R384). -/
  ringPos : W64 := 0#64
  ringRate : W64 := 0#64
  ringAge : Nat := 0
  ringTime : Nat := 0
  ringEpoch : Option (BitVec 8) := none
  ringTimeAxis : Bool := false
  /-- A changed epoch has arrived and RING_DISCONTINUITY has still to act (R54). -/
  discPend : Bool := false
  /-- The discontinuity epoch that this axis's own AXIS cells carry (R384). -/
  epochOut : Byte := 0#8
  deriving DecidableEq, Repr

/-- A strike entry in force (R55, R56), and its mark of the overflow list (R67). -/
structure Strike where
  pos : W64 := 0#64
  interval : W64 := 0#64
  arg : W64 := 0#64
  ctl : BitVec 16 := 0#16
  owner : Owner := 0
  late : Bool := false
  fired : Bool := false
  spaced : Bool := false
  qfull : Bool := false
  early : Bool := false
  dropped : Bool := false
  cancelled : Bool := false
  missed : BitVec 16 := 0#16
  ovf : Bool := false
  deriving DecidableEq, Repr

/-- One owner's allotment and counts (R64, R66, R78). -/
structure Allot where
  base : Nat := 0
  count : Nat := 0
  rate : Nat := 0
  late : W32 := 0#32
  delayed : W32 := 0#32
  drop : BitVec 28 := 0#28
  reason : BitVec 4 := 0#4
  /-- The microsecond of the latest firing and the firings in it (R64). -/
  us : Nat := 0
  fired : Nat := 0
  /-- Firings held back (R64): slot, entry as it stood at the firing, instant (1/256 ns). -/
  waiting : List (Nat × Strike × Nat) := []
  /-- The holding buffer: queue, entry, slot, and whether it is a capture record (R66). -/
  buffer : List (Nat × List Byte × Nat × Bool) := []
  /-- Sequence of CAPTURE strike records, and records lost since the latest one (R74). -/
  capSeq : W32 := 0#32
  capLost : Bool := false
  deriving DecidableEq, Repr

/-- An edge committed to a pin (R70, R71): its instant in 1/256 ns, the level it drives (none: toggle), its slot and
axis. -/
structure PinEdge where
  time : Int
  level : Option Bool
  slot : Nat
  ax : Nat
  deriving DecidableEq, Repr

/-- One pin of R68. -/
structure Pin where
  cfg : W32 := 0#32
  owner : Owner := 0
  /-- The sector that the manifest PIN record names (R72). -/
  sector : Option SectorId := none
  shared : Bool := false
  edges : List PinEdge := []
  /-- The instant and axis of the latest edge driven (R71). -/
  lastEdge : Option (Int × Nat) := none
  /-- The level that strikes drive, and the level that the outside applies to the ball. -/
  out : Bool := false
  ext : Bool := false
  /-- The registered OUT and OE of mode FABRIC, once a port clock edge has come in that mode (R72). -/
  fab : Option (Bool × Bool) := none
  /-- The two stages of the synchroniser of IN, the later one first (R72). -/
  sync : Bool × Bool := (false, false)
  deriving DecidableEq, Repr

/-- A capture record waiting for room in its queue (R74, R75). -/
structure CapRec where
  ax : Nat
  pos : W64
  falling : Bool
  down : Bool
  deriving DecidableEq, Repr

/-- One capture unit (R73 to R75). -/
structure Capture where
  cfg : W32 := 0#32
  owner : Owner := 0
  held : List CapRec := []
  lost : BitVec 16 := 0#16
  lostFlag : Bool := false
  seq : W32 := 0#32
  lastEdge : Option Nat := none
  deriving DecidableEq, Repr

/-- An axis-locked PLL (R76). -/
structure PllLock where
  ax : AxisId
  m : W32
  n : W32
  deriving DecidableEq, Repr

/-- The axis unit: axes, LOCAL and CHASSIS counts (R45), pins, capture units. -/
structure Axu where
  axis : Tab Axis := []
  localNs : BitVec 48 := 0#48
  /-- 10 ns per rising edge of CHASSIS_REF, and the ns interpolated since the latest one. -/
  chassisNs : BitVec 48 := 0#48
  chassisSub : Nat := 0
  /-- ns between the two latest axis clock edges: 5 from IOSC (R426). -/
  cycle : Nat := 1
  pin : Tab Pin := []
  cap : Tab Capture := []
  lock : Tab (Option PllLock) := []
  deriving DecidableEq, Repr

/-- An action committed ahead (R60): slot, axis and POSITION, whether the crossing goes downward, and the edge (ns) at which
the axis was to publish it. -/
structure Ahead where
  slot : Nat
  ax : Nat
  pos : W64
  down : Bool
  edge : Nat
  deriving DecidableEq, Repr

/-- The strike unit. -/
structure Stk where
  entry : Tab Strike := []
  /-- Bytes 0 to 23 written since the latest commit, keyed by slot × 24 + offset (R57). -/
  stage : Tab (Option Byte) := []
  /-- Who staged bytes of a slot since its latest commit (R80). -/
  stager : List (Nat × Initiator) := []
  allot : Tab Allot := []
  /-- The firings of each swap slot in its present microsecond (R64). -/
  swapUs : Tab (Nat × Nat) := []
  /-- Entries crossed and not yet started, in the order of R63: slot, position, instant in 1/256 ns. -/
  due : List (Nat × W64 × Nat) := []
  /-- Actions committed ahead whose crossing has not been published (R60). -/
  ahead : List Ahead := []
  /-- Swaps committed ahead and not yet performed: region, arm identifier, crossing instant (R189). -/
  swaps : List (Nat × Nat × Nat) := []
  /-- FLINE pulses not yet asserted: sector, line, instant (1/256 ns), width (ns). -/
  pulses : List (SectorId × Fin 64 × Nat × Nat) := []
  /-- Strike lines asserted: sector, line, the instant (1/256 ns) at which each falls (R65). -/
  lines : List (SectorId × Fin 64 × Nat) := []
  /-- RING strikes committed ahead and not yet launched: slot, owner, port, peer, remote entry, instant of the action at
  the peer (1/256 ns). -/
  launches : List (Nat × Owner × Nat × Nat × Nat × Nat) := []
  deriving DecidableEq, Repr

/-! ### Network time (R81 to R99) -/

/-- STATE of a time unit (R91). -/
inductive PtuState where
  | unset
  | tracking
  | holdover
  deriving DecidableEq, Repr

/-- One entry of a transmit time-stamp queue (R87). -/
structure TsEntry where
  ts : W32
  tsid : BitVec 16
  epoch : BitVec 2
  fail : Bool
  deriving DecidableEq, Repr

/-- One precision time unit with its time-stamp queue (R87 to R98). -/
structure Ptu where
  st : PtuState := .unset
  sec : BitVec 48 := 0#48
  ns : Nat := 0
  frac : W32 := 0#32
  /-- The addend added at each edge, and the base addend (R90, R93). -/
  addend : W64 := 0x100000000#64
  base : W64 := 0x100000000#64
  /-- Addends latched and not yet applied, each with the instant (ns) of application and whether it is a slew; whether the addend
  in force is one (R93). -/
  latched : List (Nat × W64 × Bool) := []
  slewOn : Bool := false
  /-- The instant at which the slew ends, while one runs. -/
  slewEnd : Option Nat := none
  epoch : BitVec 2 := 0#2
  holdS : Bool := false
  stepS : Bool := false
  resetS : Bool := false
  lat : W32 := 0#32
  hold : W32 := 4000#32
  /-- The instant of the latest accepted PTP_SET_RATE, or of the entry into TRACKING (R94). -/
  lastRate : Nat := 0
  tsq : List TsEntry := []
  ovf : Bool := false
  lostcnt : BitVec 16 := 0#16
  /-- What the latest pop of each initiator captured into PTU_TSQ_HI_n (R16, R89). -/
  hi : List (Initiator × W32) := []
  /-- The samples of PTU_TIME_NS_n by initiator: seconds and fraction (R98). -/
  sample : List (Initiator × BitVec 48 × W32) := []
  deriving DecidableEq, Repr

/-! ### Network on chip and contracts (R274 to R299) -/

/-- OP of a request (R276). A doorbell or pop of a fabric queue channel travels as a WRITE or READ. -/
inductive NocOp where
  | read
  | write
  | fence
  | lock
  | unlock
  deriving DecidableEq, Repr

/-- Response status (R278). -/
inductive NocStatus where
  | ok
  | notOwner
  | unmapped
  | absent
  | domainOff
  | resetAbort
  | frozen
  | timeout
  | poisoned
  | collided
  | poisonedMerge
  | integrity
  | retry
  | empty
  | error
  deriving DecidableEq, Repr

/-- Where a request stands: at its source NI, in the mesh, accepted by the target NI and not yet answered, held at a
full queue (R282), or answered with a status and data. -/
inductive ReqStage where
  | waiting
  | mesh
  | target
  | retry
  | answered (st : NocStatus) (data : List Byte)
  deriving DecidableEq, Repr

/-- Who receives the response: a fabric port's response buffer (R123), a kit DMA channel (R218), an argument copy
(R214), an engine's lock access (R221), a MAC (R374), the debug master (R474), a ring peer (R383), or no one. -/
inductive Sink where
  | fabric (s : SectorId)
  | kdma (g : EngineId) (c : Fin 4)
  | arg (g : EngineId)
  | mac (n : Fin 2)
  | host (fn : Fin 2)
  | debug (i : Fin 4)
  | ring (p : Fin 2) (src : Fin 16) (tag : BitVec 12)
  | lock (g : EngineId)
  | none
  deriving DecidableEq, Repr

/-- A request of the network (R276, R277). -/
structure Req where
  op : NocOp
  /-- Source and target routers. -/
  src : Nat
  dst : Nat
  flow : Nat
  owner : Owner
  who : Initiator
  addr : Nat
  len : Nat
  data : List Byte := []
  tag : BitVec 12 := 0#12
  vc : Nat := 0
  epoch : Bool := false
  stage : ReqStage := .waiting
  sink : Sink := .none
  /-- Issued into the mesh by its NI, and not answered by the NI itself. -/
  sent : Bool := false
  /-- A DRAM port has issued its data line, and the MXE has still to serve it (R328, R357). -/
  drawn : Bool := false
  /-- The instant at which the request was made, or at which its target accepted it. -/
  since : Nat := 0
  deriving DecidableEq, Repr

/-- One router with its NI (R298). `ni` and `proxy` are none while they have the values of presence. -/
structure Router where
  fence : BitVec 4 := 0#4
  ni : Option Nat := none
  proxy : Option Nat := none
  hdrCe : BitVec 16 := 0#16
  hdrUe : BitVec 8 := 0#8
  dataCe : BitVec 16 := 0#16
  dataUe : BitVec 16 := 0#16
  abort : W32 := 0#32
  /-- Header corrections on each incoming link in its present millisecond (R286): direction × (ms, count). -/
  linkCe : Tab (Nat × Nat) := []
  /-- TAG of the next request. -/
  nextTag : BitVec 12 := 0#12
  /-- The instant at which DRAIN began (R290). -/
  drainSince : Option Nat := none
  deriving DecidableEq, Repr

/-- State of a contract (R296). -/
inductive ConState where
  | admitted
  | suspended
  | demoted
  | revoked
  deriving DecidableEq, Repr

/-- Destination of a flow (R291). -/
inductive FlowDst where
  | ni (n : Nat)
  | region (r : Nat)
  | peer (q : Nat)
  deriving DecidableEq, Repr

/-- One admitted flow (R291 to R297). Tokens are in thousandths of a byte. -/
structure Flow where
  /-- The source router, or none for the kit set `kits`. -/
  src : Option Nat
  kits : BitVec 16
  dst : FlowDst
  num : Nat
  write : Bool
  max : Nat
  rate : Nat
  burst : Nat
  want : Nat
  sdecl : Nat
  /-- The S in ps that a ring peer's Atmon grants at its end (R387). -/
  peerS : Nat := 0
  bound : Nat
  tokens : Nat
  tokenTime : Nat
  deriving DecidableEq, Repr

/-- A contract: its flows, task set and state (R296, R297). It is kept under the number of its first entry and takes
as many entries as it has flows, at least one. -/
structure Contract where
  owner : Owner
  st : ConState
  notify : Option Nat
  group : Nat
  flows : List Flow
  ctxs : List Nat
  cause : Nat := 0
  /-- The instant at which Atmon re-runs admission, once it is fixed (R288). -/
  revalAt : Option Nat := none
  deriving DecidableEq, Repr

/-- The network. -/
structure Noc where
  epoch : Bool := false
  changing : Bool := false
  changes : BitVec 16 := 0#16
  drainNs : BitVec 16 := 0#16
  flipAt : Nat := 0
  /-- A change whose tables are written and not yet flipped to (R285). -/
  pendingFlip : Bool := false
  rtr : Tab Router := []
  /-- The two routing tables, keyed by router × 140 + destination; an unlisted pair routes by dimension order. Port 0
  N, 1 E, 2 S, 3 W, 4 the NI, none for no route. -/
  table0 : Tab (Option (Option (Fin 5))) := []
  table1 : Tab (Option (Option (Fin 5))) := []
  req : Tab (Option Req) := []
  nextReq : Nat := 0
  /-- Aborted tags with the instant at which each may be reused: router, tag, instant (R289). -/
  aborted : List (Nat × BitVec 12 × Nat) := []
  contract : Tab (Option Contract) := []
  /-- Blocks in their window after a reset: the block and the end of the window, none while in reset (R36). -/
  window : List (Block × Option Nat) := []
  /-- The high half of a register pair that a read of its low half captured, by initiator and offset of the low half
  (R16). -/
  hiRead : List (Initiator × Nat × W32) := []
  deriving DecidableEq, Repr

/-! ### Vault (R301 to R319) -/

/-- The state of a vault word's check bits (R309, R310): never written, clean, one correctable error, or the poison
syndrome. -/
inductive WordState where
  | unwritten
  | clean
  | correctable
  | poisoned
  deriving DecidableEq, Repr

/-- VLT_PAGE_p (R304, R317). -/
structure VPage where
  owner : Owner := 0
  alloc : Bool := false
  clearing : Bool := false
  deriving DecidableEq, Repr

/-- The scrubber of one bank (R314, R315): its next row, the word it found correctable and has still to write back,
and how long it has had no idle cycle. -/
structure BankScrub where
  row : Nat := 0
  pending : Option Nat := none
  laps : Nat := 0
  deriving DecidableEq, Repr

/-- The vault. Bytes are kept by offset from 0x0100_0000_0000; a byte that no write has reached since chip reset is
listed nowhere, and its word is UNWRITTEN. -/
structure Vlt where
  mem : Mem := []
  word : Tab WordState := []
  page : Tab VPage := []
  scrubEn : Bool := true
  div : BitVec 5 := 8#5
  starved : Bool := false
  starvedBank : BitVec 6 := 0#6
  wiping : Bool := false
  wipedS : Bool := false
  /-- The clear path has written every word of the present wipe (R312). -/
  wipeWritten : Bool := false
  remapFull : Bool := false
  /-- Remapped words in order of use (R316). -/
  remap : List Nat := []
  bank : Tab BankScrub := []
  /-- Words whose latest correctable error has been written back (R316). -/
  once : List Nat := []
  /-- Duration of the last complete lap, of the lap before, the start of the present one, and KL-02's first reading
  due (R314, R510). -/
  lapUs : W32 := 0#32
  lapPrev : W32 := 0#32
  lapStart : Nat := 0
  stale : Bool := false
  ce : W32 := 0#32
  ue : W32 := 0#32
  last : W32 := 0#32
  collide : W32 := 0#32
  pmerge : W32 := 0#32
  conf : Tab W32 := []
  /-- Status of the latest response on the side port (R307, R308). -/
  sideStatus : NocStatus := .ok
  /-- Words held by locked sequences: word number, holder request or engine, instant of the grant (R221, R222). -/
  locks : List (Nat × Initiator × Nat) := []
  /-- VAULT_FREE commands that wait for their pages: mailbox, first page, count (R319). -/
  freeing : List (Mb × Nat × Nat) := []
  deriving DecidableEq, Repr

/-! ### DRAM ports (R321 to R346) and memory encryption (R348 to R361) -/

/-- STATE of a port, DMC_STAT_k (R345). -/
inductive PortState where
  | off
  | untrained
  | training
  | ready
  | selfref
  | frozen
  | resetting
  | failed
  deriving DecidableEq, Repr

/-- The freeze record of R341. -/
structure FreezeRec where
  stamp : W64
  cause : Nat
  erased : Byte
  refresh : Byte
  pending : W32
  line : W64
  glob : W64
  syndrome : BitVec 128
  symerr : List Byte
  commands : List W64
  queue : List W64
  deriving DecidableEq, Repr

/-- One DRAM port. -/
structure DPort where
  st : PortState := .untrained
  rate2x : Bool := false
  ranks : Bool := false
  density : Bool := false
  rate : Byte := 0#8
  b1x : BitVec 16 := 0#16
  b2x : BitVec 16 := 0#16
  tm : BitVec 16 := 0#16
  mr4 : BitVec 3 := 0#3
  /-- Consecutive readings in which every device reported 1× (R333). -/
  cool : Nat := 0
  urgentCnt : BitVec 16 := 0#16
  /-- Debt of each bank set, keyed by rank × 4 + bank, and the sets whose owed REFsb a rate switch made urgent
  (R331 to R333). -/
  debt : Tab Nat := []
  switchUrgent : Tab Nat := []
  /-- MAX and OWED as they stood one interval earlier, and until when they are reported (KL-05). -/
  debtOld : Nat × Nat := (0, 0)
  debtStale : Nat := 0
  ce : W32 := 0#32
  erased0 : BitVec 4 := 0xF#4
  erased1 : BitVec 4 := 0xF#4
  ue : BitVec 16 := 0#16
  freezeCause : Nat := 0
  freezeCnt : Byte := 0#8
  record : Option FreezeRec := none
  scrubEn : Bool := true
  lapH : Byte := 24#8
  lapS : W32 := 0#32
  lapStart : Nat := 0
  patrol : Nat := 0
  bmap : Tab (BitVec 30) := []
  /-- Symbol corrections by rank × 10 + device, and those of the present second (R324). -/
  deverr : Tab W32 := []
  devsec : Tab (Nat × Nat) := []
  poison : List Nat := []
  lastAlert : Option Nat := none
  /-- Lines that hold an uncorrectable error, by line number pa >> 6 (R323, R342). -/
  bad : List Nat := []
  /-- The latest DRAM commands, oldest first (R341). -/
  commands : List W64 := []
  retrains : Nat := 0
  /-- The instant of the next retraining slot, once trained, and the end of the latest (R338). -/
  retrainAt : Option Nat := none
  slotEnd : Nat := 0
  /-- Rate-switch refreshes issued ahead of each waiting contracted request, and those of them to its own bank set (R328). -/
  ahead : Tab (Nat × Nat) := []
  /-- The failover of R428 put the port into self-refresh, and the mailbox a reset answers. -/
  failover : Bool := false
  resetBy : Option Mb := none
  deriving DecidableEq, Repr

/-- One DRAM region (R325, R345). -/
structure Region where
  defined : Bool := false
  owner : Owner := 0
  base : Nat := 0
  size : Nat := 0
  ports : Byte := 0#8
  gexp : Nat := 8
  pbase : Nat := 0
  enc : Option (Fin 8) := none
  clearing : Bool := false
  /-- The mailbox whose CREATE waits for the clear (R326). -/
  creator : Option Mb := none
  deriving DecidableEq, Repr

/-- One line of a protected region as it lies in DRAM: ciphertext and tag (R352). -/
structure CLine where
  cipher : BitVec 512
  tag : W64
  deriving DecidableEq, Repr

/-- One encryption range (R348, R360). -/
structure MRange where
  keyed : Bool := false
  key : BitVec 256 := 0#256
  region : Option Nat := none
  owner : Owner := 0
  failed : Bool := false
  imported : Bool := false
  reenc : W32 := 0#32
  fail : W32 := 0#32
  /-- Major and minor counters, by page and by line; unlisted counters are 0 (R351). -/
  major : Tab W64 := []
  minor : Tab (BitVec 7) := []
  /-- Lines written, by line number within the region; an unlisted line is the enciphered zero line. -/
  line : Tab (Option CLine) := []
  deriving DecidableEq, Repr

/-- A page re-encryption in progress (R354): range, page, old major and the lines done. -/
structure Reenc where
  range : Fin 8
  page : Nat
  old : W64
  done : BitVec 64
  deriving DecidableEq, Repr

/-- The memory-encryption unit. -/
structure Mxe where
  range : Tab MRange := []
  keyless : Bool := false
  alarm : W32 := 0#32
  last : W64 := 0#64
  hit : W32 := 0#32
  miss : W32 := 0#32
  reenc : List Reenc := []
  /-- Lines of the counter cache by index: the line of metadata held (range, number), dirty (R355). -/
  cache : Tab (Option (Fin 8 × Nat × Bool)) := []
  deriving DecidableEq, Repr

/-- The DRAM: bytes of unprotected regions by global address, ports and regions. -/
structure Dram where
  mem : Mem := []
  port : Tab DPort := []
  region : Tab Region := []
  /-- Ports that have just frozen, and ports that a request has woken from self-refresh, whose contracts have still to
  follow (R340, R343). -/
  froze : List Nat := []
  woke : List Nat := []
  deriving DecidableEq, Repr

/-! ### Signal engines and kits (R201 to R245) -/

/-- STATE of an engine apart from a debug halt and fencing, which stand beside it (R225). -/
inductive EngState where
  | off
  | stopped
  | running
  | waiting
  | task
  deriving DecidableEq, Repr

/-- A branch whose delay slot comes next (R242): its target, or none where it is not taken; an RTI with the PC and ST
it restores. -/
inductive Slot where
  | branch (target : Option (BitVec 13))
  | rti (pc : BitVec 13) (st : W24)
  deriving DecidableEq, Repr

/-- A saved outer loop (R206). -/
structure Loop where
  lc : W24 := 0#24
  ls : BitVec 13 := 0#13
  le : BitVec 13 := 0#13
  deriving DecidableEq, Repr

/-- A descriptor of the kit DMA (R218). -/
structure Desc where
  src : GAddr
  dst : GAddr
  len : Nat
  flow : Nat
  format : Nat
  dstSel : Nat
  srcSel : Nat
  next : BitVec 13
  deriving DecidableEq, Repr

/-- One kit DMA channel (R218, R219). -/
structure Chan where
  desc : Option Desc := none
  /-- A request that the descriptor waits for, the source data once read, and the status of the destination write once
  it has been answered. -/
  req : Option Nat := none
  data : Option (List Byte) := none
  done : Bool := false
  /-- Source bytes that requests have brought so far, and bytes already written at the destination (R277). -/
  got : List Byte := []
  put : Nat := 0
  /-- The status of a request that was answered with an error. -/
  status : Option NocStatus := none
  err : Bool := false
  /-- The chain ends with the present descriptor (R217), and its completion is discarded. -/
  cut : Bool := false
  deriving DecidableEq, Repr

/-- What an engine waits for in the middle of an instruction: room for a PUSHQ (R220), the end of DONE (R215), the response of
the request that a LOCK or UNLOCK of the vault has made (R221). -/
inductive Stall where
  | pushq
  | lock (id : Nat)
  | unlock (id word : Nat)
  | done (nc : Bool) (status : Byte)
  deriving DecidableEq, Repr

/-- An open locked sequence (R221): vault or kit word, the data read. `broken` holds from a break until the next
UNLOCK (R222). -/
structure LockSeq where
  vault : Bool
  word : Nat
  broken : Bool
  since : Nat
  deriving DecidableEq, Repr

/-- The state of a stored word's check bits in engine or kit memory (R205). -/
inductive CellState where
  | clean
  | correctable
  | poisoned
  deriving DecidableEq, Repr

/-- The debug settings of one engine (R470 to R473, R486): the eight comparators' IA_i, CTL_c, DA and DV values,
DBG_HIT, the SEQ comparators whose first stage has fired, and DBG_ENGCTL. -/
structure EngDbg where
  ia : Vector W32 4 := Vector.replicate 4 0#32
  ctl : Vector W32 8 := Vector.replicate 8 0#32
  dal : Vector GAddr 2 := Vector.replicate 2 0#48
  dah : Vector GAddr 2 := Vector.replicate 2 0#48
  dv : Vector W24 2 := Vector.replicate 2 0#24
  dvm : Vector W24 2 := Vector.replicate 2 0#24
  hit : BitVec 8 := 0#8
  armed : BitVec 8 := 0#8
  bkptAct : Nat := 0
  stepInt : Bool := false
  session : Option (Fin 4) := none
  /-- The address whose IA match has been acted on and whose instruction has not yet run. -/
  iaAt : Option (BitVec 13) := none
  deriving DecidableEq, Repr

/-- One engine. The fields ending in 1 and 2 are the views that R243 leaves exposed: a value as it stood before the
latest instruction (1) or before the one before that (2). -/
structure Eng where
  st : EngState := .stopped
  d : Vector W24 8 := Vector.replicate 8 0#24
  a : Vector W56 4 := Vector.replicate 4 0#56
  px : Vector (BitVec 13) 4 := Vector.replicate 4 0#13
  py : Vector (BitVec 13) 4 := Vector.replicate 4 0#13
  nx : Vector (BitVec 13) 4 := Vector.replicate 4 0#13
  ny : Vector (BitVec 13) 4 := Vector.replicate 4 0#13
  mx : Vector (BitVec 13) 4 := Vector.replicate 4 0#13
  my : Vector (BitVec 13) 4 := Vector.replicate 4 0#13
  loop : Loop := {}
  lstk : Vector Loop 3 := Vector.replicate 3 {}
  ldepth : Nat := 0
  sr : W24 := 0x40#24
  pc : BitVec 13 := 0#13
  ipc : BitVec 13 := 0#13
  istat : W24 := 0#24
  task : BitVec 14 := 0#14
  dln : W64 := 0#64
  arg : GAddr := 0#48
  takePc : BitVec 13 := 0#13
  a1 : Vector W56 4 := Vector.replicate 4 0#56
  sr1 : W24 := 0x40#24
  sr2 : W24 := 0x40#24
  /-- Register codes (R230) that the latest instruction wrote by LDI, LDIH, MOVEC or MOVEM, with the values they had
  before it. -/
  late : List (Nat × Nat) := []
  slot : Option Slot := none
  /-- The innermost loop was entered with count 1 (KL-03). -/
  once : Bool := false
  /-- 0 outside a FAULT handler, else 1 and the interrupts accepted within it (R212); a fault raised there that
  DOUBLE_FAULT has to handle. -/
  fdepth : Nat := 0
  double : Bool := false
  stall : Option Stall := none
  /-- The argument copy's request where its source does not answer at once, and its answer (R214). -/
  argReq : Option Nat := none
  argGot : List Byte := []
  argData : Option (NocStatus × List Byte) := none
  lock : Option LockSeq := none
  ien : BitVec 2 := 0#2
  swi : Bool := false
  urge : Bool := false
  /-- A debug event set to interrupt is pending (R472). -/
  dbgInt : Bool := false
  /-- Cycles left of the task watchdog, and the engine cycle up to which it has counted (R216). -/
  wdog : BitVec 24 := 0#24
  wdogAt : Nat := 0
  frozen : Bool := false
  halted : Bool := false
  /-- A halt request deferred to the next boundary (R469), and instructions left of a STEP. -/
  haltReq : Bool := false
  steps : Nat := 0
  fenced : Bool := false
  fencing : Bool := false
  frec : BitVec 19 := 0#19
  ecc : W24 := 0#24
  kdmaCode : BitVec 4 := 0#4
  chan : Vector Chan 4 := Vector.replicate 4 {}
  p : Tab W32 := []
  /-- Words of P that an external write has changed, with the engine cycle of the write (R204, R228). -/
  pNew : List (BitVec 13 × Nat) := []
  x : Tab W24 := []
  y : Tab W24 := []
  /-- Check-bit states of P, X and Y words, keyed by memory × 8192 + address. -/
  marks : Tab CellState := []
  /-- Words whose latest correctable error has been written back (R224). -/
  fixed : List Nat := []
  /-- ENG_RMT_g_i: remapped words of P, X, Y. -/
  rmtP : List (BitVec 13) := []
  rmtX : List (BitVec 13) := []
  rmtY : List (BitVec 13) := []
  dbg : EngDbg := {}
  deriving DecidableEq, Repr

/-- One kit (R201, R226). The registers that groups and engines determine are read from them. -/
structure Kit where
  owner : Owner := 0
  dmaErr : W32 := 0#32
  ce : BitVec 8 := 0#8
  broken : BitVec 16 := 0#16
  rmt : List (BitVec 16) := []
  mem : Tab W32 := []
  marks : Tab CellState := []
  fixed : List Nat := []
  /-- Words held by LOCK: word, engine, instant of the grant (R221, R222). -/
  locks : List (Nat × EngineId × Nat) := []
  deriving DecidableEq, Repr

/-! ### Fabric ports, fabric PLLs and bus lines (R114 to R127) -/

/-- One fabric PLL, CKR_FPLL_STAT_n and CKR_FPLL_FREQ_n (R118 to R121). -/
structure Fpll where
  owner : Owner := 0
  en : Bool := false
  locked : Bool := false
  axisLocked : Bool := false
  axisHold : Bool := false
  fracMode : Bool := false
  lossS : Bool := false
  holdS : Bool := false
  /-- Held until AXIS_LOCK_PLL is issued again (R95). -/
  stuck : Bool := false
  ax : AxisId := 0
  khz : BitVec 21 := 0#21
  deriving DecidableEq, Repr

/-- A heartbeat watchdog (R127): the sector and period that the manifest binds, the latest toggle, and whether it is
frozen. -/
structure Heartbeat where
  sector : Option SectorId := none
  period : Nat := 0
  last : Nat := 0
  expired : Bool := false
  deriving DecidableEq, Repr

/-- One fabric port and what a debug session holds of its sector. -/
structure Sector where
  /-- 64-byte entries of the response buffer reserved for reads (R123). -/
  reserved : Nat := 0
  /-- Responses that wait in the buffer for user logic: flow, status, data; and the beat that user logic took latest (R123). -/
  responses : List (Nat × NocStatus × List Byte) := []
  taken : Option (Nat × NocStatus × List Byte) := none
  /-- Responses of the queue channel, latest last (R124). -/
  queueResp : List (NocStatus × List Byte) := []
  /-- All regional clocks stopped by a debug session, and capture active (R477, R478). -/
  frozen : Bool := false
  /-- The instant of the freeze (R123, R127). -/
  frozenAt : Nat := 0
  capture : Bool := false
  /-- The level of the fault line (R127). -/
  faultLine : Bool := false
  /-- The heartbeat input as the port last sampled it (R127). -/
  beat : Bool := false
  deriving DecidableEq, Repr

/-! ### Block memories and slices (R131 to R150) -/

/-- Bits 29:24 of a native word: the valid check bits, those with bit 0 or bits 0 and 1 inverted (R139), or six data
bits stored with ECC off. -/
inductive Check where
  | valid
  | inj1
  | inj2
  /-- Written by a load whose frames, with the block's ECC setting, are not all in yet (R141). -/
  | image
  | raw (v : BitVec 6)
  deriving DecidableEq, Repr

/-- A native word of a block memory. -/
structure BWord where
  d : W24 := 0#24
  chk : Check := .valid
  deriving DecidableEq, Repr

/-- One port of a block memory: what the array read and the output register hold (none: ORSTVAL), their error flags, the
COLLB output, and the words that the latest edge wrote, with their values before it, and read. -/
structure BPort where
  rd : Option (BitVec 120) := none
  out : Option (BitVec 120) := none
  sbe : Bool := false
  dbe : Bool := false
  outSbe : Bool := false
  outDbe : Bool := false
  coll : Bool := false
  wrote : List (Nat × BWord) := []
  read : List Nat := []
  /-- The address of the latest read. -/
  addr : Nat := 0
  deriving DecidableEq, Repr

/-- The registers of one slice (R150), with the one-cycle delay of the operand chain (R147), the delays that let W, K, FN
and CI meet the product (R146, R151), and the OVF flag. -/
structure Slice where
  u1 : W24 := 0#24
  u2 : W24 := 0#24
  ud : W24 := 0#24
  v : W24 := 0#24
  w1 : W24 := 0#24
  w2 : W24 := 0#24
  wd : W24 := 0#24
  k : BitVec 48 := 0#48
  fn : BitVec 5 := 0#5
  ci : Bool := false
  kq : List (BitVec 48) := []
  fq : List (BitVec 5 × Bool) := []
  /-- K as it met the function whose result AC holds. -/
  kr : BitVec 48 := 0#48
  pre : Int := 0
  mu1 : W64 := 0#64
  mu2 : W64 := 0#64
  acc : W64 := 0#64
  ovf : Bool := false
  out : W24 := 0#24
  satf : Bool := false
  deriving DecidableEq, Repr

/-- The fabric: user logic's registers and memories, PLLs, ports, bus lines. A flip-flop or wire register that its table
does not list holds its INIT. -/
structure Fab where
  ff : Tab (Option Bool) := []
  wire : Tab (Option Bool) := []
  /-- Border-port registers: quad × 1024 + 512 for outbound + number (R181). -/
  border : Tab Bool := []
  /-- Levels that enter the fabric from outside it. -/
  ext : Tab Bool := []
  /-- Clock enables as last sampled (R116, R117): global clock n at n, regional clock r of sector s at 32 + 16 s + r; none
  before the first sample. -/
  en : Tab (Option Bool) := []
  /-- Native words: block × 2048 + word. Ports: block × 2, + 1 for port B. -/
  word : Tab BWord := []
  bport : Tab BPort := []
  slice : Tab Slice := []
  pll : Tab Fpll := []
  sector : Tab Sector := []
  heart : Tab Heartbeat := []
  busCount : BitVec 16 := 0#16
  busOff : List (BitVec 15) := []
  /-- Frames that enable the drivers of a disabled segment and that the scrubber has not yet rewritten (R114). -/
  busWait : List (BitVec 15 × Nat) := []
  busLast : W32 := 0#32
  deriving DecidableEq, Repr

/-! ### Configuration memory and loading (R154 to R178) -/

/-- One frame of a plane (R154, R155, R183, R196). -/
structure Frame where
  /-- The contents as last written: the write's check bits and golden signature are those of `data` (R155). -/
  data : BitVec 3072 := 0#3072
  /-- The bits that have been upset since, contents from 0 and check bits from 3072. -/
  up : BitVec 3084 := 0#3084
  /-- What the scrubber's latest read found and no repair has answered yet. -/
  found : Finding := .clean
  unrep : Bool := false
  persist : Bool := false
  /-- Repairs on consecutive laps, and the lap of the latest one. -/
  reps : Nat := 0
  lap : Nat := 0
  /-- Its frame-copy slot holds its contents. -/
  copied : Bool := false
  /-- It comes from an image with ENCRYPTED = 1; the stored container it comes from. -/
  enc : Bool := false
  handle : Option Nat := none
  deriving DecidableEq, Repr

/-- STATE of CFG_STAT (R176). -/
inductive CfgState where
  | clearing
  | firmware
  | loading
  | waitDone
  | startup
  | running
  | configOnly
  deriving DecidableEq, Repr

/-- A stream that the controller is taking (R157 to R161): its header, the next segment, the hash that segment must have
and its key, and the manifest once taken. -/
structure Stream where
  hdr : List Byte
  next : Nat := 0
  expect : List Byte := []
  key : List Byte := []
  man : Option Manifest := none
  /-- The device has taken a segment. -/
  took : Bool := false
  deriving DecidableEq, Repr

/-- A host load in progress (R177): bytes offered and consumed, the instant at which the latest chunk was consumed, and
whether the chunk with LAST has come. -/
structure HostLoad where
  offered : Nat
  consumed : Nat
  since : Nat
  last : Bool
  mb : Option Mb
  deriving DecidableEq, Repr

/-- Configuration loading. -/
structure Cfg where
  frame : Tab Frame := []
  st : CfgState := .clearing
  bootSel : BitVec 2 := 0#2
  group : BitVec 4 := 0#4
  image : Nat := 0
  /-- GSR asserted; the other start-up steps done. -/
  gsr : Bool := true
  lockDone : Bool := false
  writesOn : Bool := false
  ioOn : Bool := false
  donePin : Bool := false
  lockTo : Bool := false
  fallback : Bool := false
  errCode : Nat := 0
  errSeg : Nat := 0
  errAttempt : Nat := 0
  /-- The manifest of the image loaded, until Atmon applies it (R169). -/
  man : Manifest := {}
  /-- The instant of the previous start-up step or of CFG_DONE high. -/
  stepAt : Nat := 0
  offset : W32 := 0#32
  version : W32 := 0#32
  loadUs : W32 := 0#32
  target : W32 := 0#32
  chain : List Byte := List.replicate 48 0#8
  /-- The start of the load, the instant at which CFG_DONE was released, the instant the stream last delivered. -/
  start : Nat := 0
  doneAt : Option Nat := none
  lastByte : Nat := 0
  /-- What is being loaded: 0 primary, 1 golden, 2 host, 3 reload. -/
  attempt : Nat := 0
  /-- The golden offset is being read, whoever asked for it. -/
  golden : Bool := false
  stream : Option Stream := none
  host : Option HostLoad := none
  /-- CFG_RELOAD accepted: the instant at which it acts and its source (R177). -/
  reload : Option (Nat × Nat) := none
  /-- The flash on the xSPI bus: bytes by offset. -/
  flash : Mem := []
  /-- Bytes of the image in flash that the stream has taken. -/
  taken : Nat := 0
  /-- The level of IO_PULL_SEL (R173). -/
  ioPull : Bool := false
  deriving DecidableEq, Repr

/-! ### Overlay regions, the image store and the scrubber (R179 to R199) -/

/-- State of a shadow plane (R180). -/
inductive Shadow where
  | empty
  | staging
  | ready
  deriving DecidableEq, Repr

/-- An OVL_STAGE or OVL_LOAD_QUIESCED in progress. -/
structure Staging where
  mb : Mb
  handle : Nat
  quiesced : Bool
  since : Nat
  /-- The staging contract (R185). -/
  con : Nat
  deriving DecidableEq, Repr

/-- One overlay region. `active` is set while plane B is active. The fields beginning with `shown` are what the region's
registers show of its planes, up to 1 µs behind a swap (R189). -/
structure OvlRegion where
  active : Bool := false
  shadow : Shadow := .empty
  /-- The stored containers resident in the active and the shadow plane. -/
  act : Option Nat := none
  shd : Option Nat := none
  actVer : W32 := 0#32
  shdVer : W32 := 0#32
  toggle : Bool := false
  armId : Byte := 0#8
  staging : Option Staging := none
  /-- The contract under which the shadow plane was staged. -/
  con : Option Nat := none
  /-- The quiesce edge of a quiesced load, and whether its blocks are written and its swap is due. -/
  quiesced : Option Nat := none
  swapDue : Bool := false
  /-- The swap edge, from it until the region is usable. -/
  swapping : Option Nat := none
  /-- The latest swap edge, which the scrubber keeps away from (R197). -/
  lastSwap : Option Nat := none
  /-- A swap whose record has still to be updated. -/
  record : Bool := false
  swapS : Bool := false
  lateS : Bool := false
  rejectS : Bool := false
  swaps : W32 := 0#32
  shownActive : Bool := false
  shownShadow : Shadow := .empty
  shownAct : W32 := 0#32
  shownShd : W32 := 0#32
  deriving DecidableEq, Repr

/-- A container in the image store (R184). -/
structure Stored where
  bytes : List Byte
  owner : Owner
  kind : Nat
  region : Nat
  version : W32
  deriving DecidableEq, Repr

/-- The overlay controller and the configuration scrubber. -/
structure Ovl where
  region : Tab OvlRegion := []
  store : Tab (Option Stored) := []
  /-- The image store exists (R182). -/
  made : Bool := false
  scrubEn : Bool := false
  lag : Bool := false
  lapUs : W32 := 0#32
  lap : Nat := 0
  /-- The address of the next frame of the lap (none: all are read), and the instant at which the lap began (R195). -/
  scan : Option Nat := none
  lapAt : Nat := 0
  sbe : W32 := 0#32
  mbe : W32 := 0#32
  last : W32 := 0#32
  persisted : BitVec 16 := 0#16
  deriving DecidableEq, Repr

/-! ### PCI Express (R363 to R367, R389) -/

/-- The belfry settings (R175); `vendor` and `subvendor` are none for Plovuk's vendor ID and for VENDOR. -/
structure PceSet where
  vendor : Option (BitVec 16) := none
  device0 : BitVec 16 := 0x7140#16
  device1 : BitVec 16 := 0x7141#16
  subvendor : Option (BitVec 16) := none
  subsystem : BitVec 16 := 0#16
  cls : W24 := 0x118000#24
  revision : Byte := 1#8
  maxRate : Nat := 5
  maxWidth : Nat := 16
  pf1 : Bool := false
  msix : Nat := 2048
  deriving DecidableEq, Repr

/-- An outbound window (R366). -/
structure OutWin where
  taken : Bool := false
  owner : Owner := 0
  hbase : Nat := 0
  fn : Fin 2 := 0
  attr : BitVec 2 := 0#2
  deriving DecidableEq, Repr

/-- What a BAR offset reaches (R40, R364). -/
inductive BarAt where
  | at (a : Nat)
  | table (off : Nat)
  | pba (off : Nat)
  | nothing
  | absent
  deriving DecidableEq, Repr

/-- A host access that waits in the receive buffer (R252): the length of a read, or the data of a posted write. -/
structure Posted where
  fn : Fin 2
  dst : BarAt
  read : Option Nat := none
  data : List Byte := []
  deriving DecidableEq, Repr

/-- How a host request is completed (R173, R364, R365). -/
inductive Cpl where
  | success
  | unsupported
  | abort
  | retry
  | poisoned
  deriving DecidableEq, Repr

/-- The PCI Express endpoint. -/
structure Pce where
  set : PceSet := {}
  linkUp : Bool := false
  crs : Bool := true
  perst : Bool := true
  /-- The instant of PERST# deassertion, while the link trains (R367). -/
  training : Option Nat := none
  errDrop : BitVec 16 := 0#16
  corr : BitVec 16 := 0#16
  drop : W32 := 0#32
  /-- ABASE in units of 64 GiB (R365). -/
  abase : Nat := 0
  win : Tab OutWin := []
  /-- Posted writes and reads behind a held push, oldest first (R252). -/
  posted : List Posted := []
  /-- MSI-X table bytes, keyed by function × 0x8000 + offset; vectors unmasked, pending, and messages sent to the
  host, latest last. -/
  msixTable : Mem := []
  unmasked : List (Fin 2 × Nat) := []
  msixPend : List (Fin 2 × Nat) := []
  sent : List (Fin 2 × Nat) := []
  /-- Completions returned to the host by reads, latest last. -/
  completions : List (Fin 2 × Cpl × List Byte) := []
  deriving DecidableEq, Repr


/-! ### General lanes, JESD links, Ethernet MACs and ring ports (R368 to R391) -/

/-- A path to a ring peer: H_q in 1/256 ns, segments, reachable (R382, LNK_PEER_p_q). -/
structure RingPath where
  h : BitVec 24 := 0#24
  hops : BitVec 4 := 0#4
  reach : Bool := false
  deriving DecidableEq, Repr

/-- STATE of a ring port, LNK_STAT_p (R391). -/
inductive RingState where
  | bypassed
  | waiting
  | training
  | up
  | healing
  | failed
  deriving DecidableEq, Repr

/-- One ring port (R379 to R391). -/
structure RingPort where
  st : RingState := .bypassed
  closed : Bool := true
  rate : Nat := 0
  leader : Bool := false
  ringId : BitVec 4 := 0#4
  leaderId : BitVec 4 := 0#4
  members : Nat := 0
  /-- Incoming and outgoing segment latency in 1/256 ns, and bypassed devices in each segment. -/
  segI : BitVec 24 := 0#24
  segO : BitVec 24 := 0#24
  bypI : BitVec 3 := 0#3
  bypO : BitVec 3 := 0#3
  replay : BitVec 16 := 0#16
  heals : BitVec 8 := 0#8
  strikeLost : BitVec 8 := 0#8
  path : Tab RingPath := []
  maxRate : Nat := 0
  /-- The mailbox whose RING_JOIN waits, and when it began. -/
  join : Option (Mb × Nat) := none
  /-- Cells sent and not yet acknowledged, a STRIKE cell with its owner, and the number of the next one sent and the next
  one expected (R378). -/
  unacked : List (Option Owner × List Byte) := []
  txSeq : Nat := 0
  rxSeq : Nat := 0
  /-- The millisecond of the latest replay and the replays in it (R378). -/
  replayMs : Nat × Nat := (0, 0)
  /-- Data sent since the latest control cell, for its successor's PREV_CRC (R377). -/
  trail : List Byte := []
  /-- A control cell received whose data waits for the next PREV_CRC: type, destination, body, data. -/
  rxHold : Option (Nat × Nat × List Byte × List Byte) := none
  /-- What a ring source last transmitted of the stream that it reads (R167). -/
  feed : List Byte := []
  deriving DecidableEq, Repr

/-- One general lane, GLN_LANE_i (R368, R390). -/
structure Lane where
  use : Nat := 0
  lock : Bool := false
  rate : BitVec 9 := 0#9
  /-- The words of a RAW lane (R369): received last, and taken last from the fabric. -/
  rx : W64 := 0#64
  tx : W64 := 0#64
  deriving DecidableEq, Repr

/-- One lane group, GLN_GRP_k, with the mailbox whose LANE_CONFIG waits for its lanes (R390, R392). -/
structure LaneGroup where
  refOk : Bool := false
  refFreq : BitVec 16 := 0#16
  cmd : Option Mb := none
  deriving DecidableEq, Repr

/-- One JESD link layer (R370 to R372, R390). `st` is JSTAT STATE. -/
structure Jesd where
  en : Bool := false
  tx : Bool := false
  std : Bool := false
  lanes : Nat := 1
  sector : SectorId := 0
  ax : AxisId := 0
  sysrefIn : Bool := false
  scramble : Bool := false
  params : List Byte := []
  pos : W64 := 0#64
  period : W64 := 0#64
  pin : Nat := 0
  cap : Nat := 0
  syncIo : Nat := 0
  rbd : W32 := 0#32
  owner : Owner := 0
  st : Nat := 0
  realign : BitVec 16 := 0#16
  lat : BitVec 24 := 0#24
  crc : BitVec 16 := 0#16
  invalid : BitVec 16 := 0#16
  /-- The mailbox whose JESD_CONFIG waits for DATA, and the instant it was accepted. -/
  cmd : Option (Mb × Nat) := none
  /-- The fabric side (R370): the word that moved last, and valid. -/
  word : BitVec 512 := 0#512
  valid : Bool := false
  deriving DecidableEq, Repr

/-- A received frame that is being stored: the request of its present part, its descriptor, the address and the rest. -/
structure RxFrame where
  req : Nat
  desc : List Byte
  addr : Nat
  rest : List Byte
  deriving DecidableEq, Repr

/-- One MAC (R373, R374, R391). -/
structure Mac where
  rate : Nat := 0
  fec : Nat := 0
  keepBad : Bool := false
  flow : Nat := 0
  txq : Nat := 0
  freeq : Nat := 0
  rxq : Nat := 0
  link : Bool := false
  down : BitVec 16 := 0#16
  rx : W32 := 0#32
  tx : W32 := 0#32
  fcs : BitVec 16 := 0#16
  nobuf : BitVec 16 := 0#16
  /-- Frames handed to the line, latest last, with their TSID where a time-stamp is asked for. -/
  sent : List (List Byte × Option (BitVec 16)) := []
  /-- The transmit descriptor whose frame is being read, and the receive descriptors of frames being stored, by request. -/
  txPend : Option (List Byte) := none
  /-- The bytes of its frame read so far. -/
  txGot : List Byte := []
  /-- Frames handed to the line whose time-stamp is still to be queued: TSID, ONESTEP_FAIL (R83, R87). -/
  stamps : List (BitVec 16 × Bool) := []
  rxPend : List RxFrame := []
  deriving DecidableEq, Repr

/-- The general lanes and the ring. -/
structure Ser where
  lane : Tab Lane := []
  group : Tab LaneGroup := []
  jesd : Tab Jesd := []
  mac : Tab Mac := []
  ring : Tab RingPort := []
  /-- The window that the ring's peers reach (R383): EBASE and ESIZE. -/
  ebase : Nat := 0
  esize : Nat := 0
  /-- Axes exported on the ring (R384). -/
  exports : List AxisId := []
  /-- WINDOW_MS of the leader, and the quiet slot's end while contracts are suspended for it (R381). -/
  windowMs : Nat := 0
  quietEnd : Option Nat := none
  /-- Cells handed to the ring ports: port and bytes, latest last. -/
  cells : List (Fin 2 × List Byte) := []
  deriving DecidableEq, Repr
/-! ### Debug sessions, JTAG, the key store and the life-cycle (R462 to R488) -/

/-- A debug session. -/
structure Session where
  live : Bool := false
  owner : Owner := 0
  level : Nat := 0
  mb : Mb := 0
  key : List Byte := []
  /-- The latest CTR, once a command of a level-2 session by certificate has carried one (R467). -/
  ctr : Option Nat := none
  keyed : Bool := false
  /-- EVENT queue and sequence of trace records (R472, R473). -/
  queue : Option Nat := none
  seq : W32 := 0#32
  /-- What the session halted and froze (R464). -/
  engines : List EngineId := []
  sectors : List SectorId := []
  deriving DecidableEq, Repr

/-- A DBG_AUTH_BEGIN that waits for its FINISH (R467): owner, transcript hash, session key, debugger's static key. -/
structure AuthExch where
  owner : Owner
  t : List Byte
  key : List Byte
  pub : List Byte
  since : Nat
  deriving DecidableEq, Repr

/-- What DBG_FREEZE captured of a quad (R478). -/
structure Snap where
  frames : List (Nat × BitVec 3072)
  ff : List (Nat × Option Bool)
  wire : List (Nat × Option Bool)
  words : List (Nat × BitVec 30)
  deriving DecidableEq, Repr

/-- What a pin-control instruction does to the pins (R462). -/
inductive PinScan where
  | drive (cells : List Bool)
  | pulse (cells : List Bool)
  | train (cells : List Bool)
  | clamp
  | highz
  deriving DecidableEq, Repr

/-- The JTAG TAP: its instruction, the preloaded boundary cells, the pin-control instruction in effect, and the data of
the latest DBG_PAGE read. -/
structure Tap where
  ir : Byte := 2#8
  cells : List Bool := []
  pins : Option PinScan := none
  data : W32 := 0#32
  deriving DecidableEq, Repr

/-- The debug unit. -/
structure Dbg where
  sess : Tab Session := []
  exch : Tab (Option AuthExch) := []
  /-- Consecutive failures of DBG_AUTH by owner, and the instant until which attempts are refused (R466). -/
  fails : Tab (Nat × Nat) := []
  jrefused : Bool := false
  tap : Tap := {}
  snap : Tab (Option Snap) := []
  deriving DecidableEq, Repr

/-- Life-cycle states (R480). -/
inductive LifeCycle where
  | blank
  | owned
  | deployed
  | returned
  | scrapped
  deriving DecidableEq, Repr

/-- The key store, life-cycle and tamper unit (R479 to R487). Fuse contents of the modelled part start blank. -/
structure Sec where
  lc : LifeCycle := .blank
  undeploys : BitVec 4 := 0#4
  serial : W64 := 0#64
  /-- SHA-384 of the owner key. -/
  digest : Option (List Byte) := none
  /-- The owner's device key as the fuses hold it (wrapped under the PUF key), and in SRAM once unwrapped. -/
  devFuse : Option (List Byte) := none
  devKey : Option (List Byte) := none
  svnMin : BitVec 6 := 0#6
  settings : Option (List Byte) := none
  tamper : Bool := false
  seen : BitVec 5 := 0#5
  pinEn : BitVec 2 := 0#2
  pinLevel : BitVec 2 := 0#2
  /-- VCC_FUSE in range. -/
  fusePwr : Bool := false
  /-- The unused nonce of each mailbox and when it was drawn (R481). -/
  nonce : Tab (Option (List Byte × Nat)) := []
  /-- The return record kept in belfry SRAM (R484). -/
  record : List Byte := []
  /-- The instant of the chip reset that follows a transition (R482). -/
  resetAt : Option Nat := none
  deriving DecidableEq, Repr

/-! ### The whole machine -/

/-- Everything the machine holds. `pending`, `now`, `freeCount` and `readData` are the model's own: the commands that
wait, the ns of axis clock edges since reset, the index of the next free value, and the data that the latest register
read or pop returned. -/
structure State where
  pending : List Instr := []
  now : Nat := 0
  freeCount : Nat := 0
  readData : List Byte := []
  variant : Variant := .f
  /-- Speed grade 1 to 3, and temperature grade E rather than M (R505). -/
  speed : Nat := 3
  gradeE : Bool := false
  man : Manifest := {}
  flt : Flt := {}
  thm : Thm := {}
  ckr : Ckr := {}
  mbx : Mbx := {}
  qcu : Qcu := {}
  tdu : Tdu := {}
  axu : Axu := {}
  stk : Stk := {}
  ptu : Tab Ptu := []
  noc : Noc := {}
  vlt : Vlt := {}
  dram : Dram := {}
  mxe : Mxe := {}
  eng : Tab Eng := []
  kit : Tab Kit := []
  fab : Fab := {}
  dbg : Dbg := {}
  pce : Pce := {}
  ser : Ser := {}
  cfg : Cfg := {}
  ovl : Ovl := {}
  sec : Sec := {}
  deriving DecidableEq, Repr

/-- The machine right after reset (R431, R436 and the reset columns of each chapter). -/
def State.reset : State := {}

/-- Why the machine stops with a fault. -/
inductive Fault where
  /-- An owner error whose result the spec calls unpredictable (R10). No meaning raises it: every such error runs on with free
  values (log 13). Safe. -/
  | ownerError (rule : Nat)
  deriving DecidableEq, Repr

/-- Why the machine has no meaning for a command. -/
inductive Refusal where
  /-- The command has no meaning in this model yet. Raised by Dispatch alone; safe. -/
  | notModelled (mnemonic : String)
  deriving DecidableEq, Repr

end Sys2Proof.Machine
end

