-- ==== Sys2Proof/Machine/Access.lean ====
section
/-!
DEFINITION. Machine/Access.lean: one reader and one writer for every table of the state. An instance that its table
does not list reads as its reset value, and a write keeps the table's canonical form.
-/
namespace Sys2Proof.Machine

/-- The state of axis `n`. -/
def State.axis (s : State) (n : Nat) : Axis := tget s.axu.axis {} n

/-- Replace axis `n`. -/
def State.setAxis (s : State) (n : Nat) (v : Axis) : State :=
  { s with axu.axis := tput s.axu.axis {} n v }

/-- Change axis `n`. -/
def State.modAxis (s : State) (n : Nat) (f : Axis → Axis) : State := s.setAxis n (f (s.axis n))

/-- The state of pin code `n`. -/
def State.pin (s : State) (n : Nat) : Pin := tget s.axu.pin {} n

/-- Replace pin code `n`. -/
def State.setPin (s : State) (n : Nat) (v : Pin) : State :=
  { s with axu.pin := tput s.axu.pin {} n v }

/-- Change pin code `n`. -/
def State.modPin (s : State) (n : Nat) (f : Pin → Pin) : State := s.setPin n (f (s.pin n))

/-- The state of capture unit `n`. -/
def State.cap (s : State) (n : Nat) : Capture := tget s.axu.cap {} n

/-- Replace capture unit `n`. -/
def State.setCap (s : State) (n : Nat) (v : Capture) : State :=
  { s with axu.cap := tput s.axu.cap {} n v }

/-- Change capture unit `n`. -/
def State.modCap (s : State) (n : Nat) (f : Capture → Capture) : State := s.setCap n (f (s.cap n))

/-- The state of strike slot `n`. -/
def State.strike (s : State) (n : Nat) : Strike := tget s.stk.entry {} n

/-- Replace strike slot `n`. -/
def State.setStrike (s : State) (n : Nat) (v : Strike) : State :=
  { s with stk.entry := tput s.stk.entry {} n v }

/-- Change strike slot `n`. -/
def State.modStrike (s : State) (n : Nat) (f : Strike → Strike) : State := s.setStrike n (f (s.strike n))

/-- The state of the strike allotment of owner `n`. -/
def State.allot (s : State) (n : Nat) : Allot := tget s.stk.allot {} n

/-- Replace the strike allotment of owner `n`. -/
def State.setAllot (s : State) (n : Nat) (v : Allot) : State :=
  { s with stk.allot := tput s.stk.allot {} n v }

/-- Change the strike allotment of owner `n`. -/
def State.modAllot (s : State) (n : Nat) (f : Allot → Allot) : State := s.setAllot n (f (s.allot n))

/-- The state of time unit `n`. -/
def State.ptuAt (s : State) (n : Nat) : Ptu := tget s.ptu {} n

/-- Replace time unit `n`. -/
def State.setPtuAt (s : State) (n : Nat) (v : Ptu) : State :=
  { s with ptu := tput s.ptu {} n v }

/-- Change time unit `n`. -/
def State.modPtuAt (s : State) (n : Nat) (f : Ptu → Ptu) : State := s.setPtuAt n (f (s.ptuAt n))

/-- The state of queue `n`. -/
def State.queue (s : State) (n : Nat) : Queue := tget s.qcu.queue {} n

/-- Replace queue `n`. -/
def State.setQueue (s : State) (n : Nat) (v : Queue) : State :=
  { s with qcu.queue := tput s.qcu.queue {} n v }

/-- Change queue `n`. -/
def State.modQueue (s : State) (n : Nat) (f : Queue → Queue) : State := s.setQueue n (f (s.queue n))

/-- The state of the pop window of owner `n`. -/
def State.win (s : State) (n : Nat) : PopWin := tget s.qcu.win {} n

/-- Replace the pop window of owner `n`. -/
def State.setWin (s : State) (n : Nat) (v : PopWin) : State :=
  { s with qcu.win := tput s.qcu.win {} n v }

/-- Change the pop window of owner `n`. -/
def State.modWin (s : State) (n : Nat) (f : PopWin → PopWin) : State := s.setWin n (f (s.win n))

/-- The state of engine group `n`. -/
def State.grp (s : State) (n : Nat) : Group := tget s.tdu.group {} n

/-- Replace engine group `n`. -/
def State.setGrp (s : State) (n : Nat) (v : Group) : State :=
  { s with tdu.group := tput s.tdu.group {} n v }

/-- Change engine group `n`. -/
def State.modGrp (s : State) (n : Nat) (f : Group → Group) : State := s.setGrp n (f (s.grp n))

/-- The state of task context `n`. -/
def State.ctx (s : State) (n : Nat) : Ctx := tget s.tdu.ctx {} n

/-- Replace task context `n`. -/
def State.setCtx (s : State) (n : Nat) (v : Ctx) : State :=
  { s with tdu.ctx := tput s.tdu.ctx {} n v }

/-- Change task context `n`. -/
def State.modCtx (s : State) (n : Nat) (f : Ctx → Ctx) : State := s.setCtx n (f (s.ctx n))

/-- The state of mailbox page `n`. -/
def State.box (s : State) (n : Nat) : Mailbox := tget s.mbx.box {} n

/-- Replace mailbox page `n`. -/
def State.setBox (s : State) (n : Nat) (v : Mailbox) : State :=
  { s with mbx.box := tput s.mbx.box {} n v }

/-- Change mailbox page `n`. -/
def State.modBox (s : State) (n : Nat) (f : Mailbox → Mailbox) : State := s.setBox n (f (s.box n))

/-- The state of router `n`. -/
def State.rtr (s : State) (n : Nat) : Router := tget s.noc.rtr {} n

/-- Replace router `n`. -/
def State.setRtr (s : State) (n : Nat) (v : Router) : State :=
  { s with noc.rtr := tput s.noc.rtr {} n v }

/-- Change router `n`. -/
def State.modRtr (s : State) (n : Nat) (f : Router → Router) : State := s.setRtr n (f (s.rtr n))

/-- The state of request `n`. -/
def State.req (s : State) (n : Nat) : (Option Req) := tget s.noc.req none n

/-- Replace request `n`. -/
def State.setReq (s : State) (n : Nat) (v : (Option Req)) : State :=
  { s with noc.req := tput s.noc.req none n v }

/-- Change request `n`. -/
def State.modReq (s : State) (n : Nat) (f : (Option Req) → (Option Req)) : State := s.setReq n (f (s.req n))

/-- The state of the contract whose first entry is `n`. -/
def State.con (s : State) (n : Nat) : (Option Contract) := tget s.noc.contract none n

/-- Replace the contract whose first entry is `n`. -/
def State.setCon (s : State) (n : Nat) (v : (Option Contract)) : State :=
  { s with noc.contract := tput s.noc.contract none n v }

/-- Change the contract whose first entry is `n`. -/
def State.modCon (s : State) (n : Nat) (f : (Option Contract) → (Option Contract)) : State := s.setCon n (f (s.con n))

/-- The state of DRAM port `n`. -/
def State.dport (s : State) (n : Nat) : DPort := tget s.dram.port {} n

/-- Replace DRAM port `n`. -/
def State.setDport (s : State) (n : Nat) (v : DPort) : State :=
  { s with dram.port := tput s.dram.port {} n v }

/-- Change DRAM port `n`. -/
def State.modDport (s : State) (n : Nat) (f : DPort → DPort) : State := s.setDport n (f (s.dport n))

/-- The state of DRAM region `n`. -/
def State.region (s : State) (n : Nat) : Region := tget s.dram.region {} n

/-- Replace DRAM region `n`. -/
def State.setRegion (s : State) (n : Nat) (v : Region) : State :=
  { s with dram.region := tput s.dram.region {} n v }

/-- Change DRAM region `n`. -/
def State.modRegion (s : State) (n : Nat) (f : Region → Region) : State := s.setRegion n (f (s.region n))

/-- The state of encryption range `n`. -/
def State.range (s : State) (n : Nat) : MRange := tget s.mxe.range {} n

/-- Replace encryption range `n`. -/
def State.setRange (s : State) (n : Nat) (v : MRange) : State :=
  { s with mxe.range := tput s.mxe.range {} n v }

/-- Change encryption range `n`. -/
def State.modRange (s : State) (n : Nat) (f : MRange → MRange) : State := s.setRange n (f (s.range n))

/-- The state of vault page `n`. -/
def State.vpage (s : State) (n : Nat) : VPage := tget s.vlt.page {} n

/-- Replace vault page `n`. -/
def State.setVpage (s : State) (n : Nat) (v : VPage) : State :=
  { s with vlt.page := tput s.vlt.page {} n v }

/-- Change vault page `n`. -/
def State.modVpage (s : State) (n : Nat) (f : VPage → VPage) : State := s.setVpage n (f (s.vpage n))

/-- The state of engine `n`. -/
def State.engAt (s : State) (n : Nat) : Eng := tget s.eng {} n

/-- Replace engine `n`. -/
def State.setEngAt (s : State) (n : Nat) (v : Eng) : State :=
  { s with eng := tput s.eng {} n v }

/-- Change engine `n`. -/
def State.modEngAt (s : State) (n : Nat) (f : Eng → Eng) : State := s.setEngAt n (f (s.engAt n))

/-- The state of kit `n`. -/
def State.kitAt (s : State) (n : Nat) : Kit := tget s.kit {} n

/-- Replace kit `n`. -/
def State.setKitAt (s : State) (n : Nat) (v : Kit) : State :=
  { s with kit := tput s.kit {} n v }

/-- Change kit `n`. -/
def State.modKitAt (s : State) (n : Nat) (f : Kit → Kit) : State := s.setKitAt n (f (s.kitAt n))

/-- The state of fabric PLL `n`. -/
def State.fpll (s : State) (n : Nat) : Fpll := tget s.fab.pll {} n

/-- Replace fabric PLL `n`. -/
def State.setFpll (s : State) (n : Nat) (v : Fpll) : State :=
  { s with fab.pll := tput s.fab.pll {} n v }

/-- Change fabric PLL `n`. -/
def State.modFpll (s : State) (n : Nat) (f : Fpll → Fpll) : State := s.setFpll n (f (s.fpll n))

/-- The state of sector `n`. -/
def State.sector (s : State) (n : Nat) : Sector := tget s.fab.sector {} n

/-- Replace sector `n`. -/
def State.setSector (s : State) (n : Nat) (v : Sector) : State :=
  { s with fab.sector := tput s.fab.sector {} n v }

/-- Change sector `n`. -/
def State.modSector (s : State) (n : Nat) (f : Sector → Sector) : State := s.setSector n (f (s.sector n))

/-- The state of clock source `n`. -/
def State.clkSrc (s : State) (n : Nat) : ClkSrc := tget s.ckr.src {} n

/-- Replace clock source `n`. -/
def State.setClkSrc (s : State) (n : Nat) (v : ClkSrc) : State :=
  { s with ckr.src := tput s.ckr.src {} n v }

/-- Change clock source `n`. -/
def State.modClkSrc (s : State) (n : Nat) (f : ClkSrc → ClkSrc) : State := s.setClkSrc n (f (s.clkSrc n))

/-- The state of clock domain `n`. -/
def State.clkDom (s : State) (n : Nat) : ClkDom := tget s.ckr.dom {} n

/-- Replace clock domain `n`. -/
def State.setClkDom (s : State) (n : Nat) (v : ClkDom) : State :=
  { s with ckr.dom := tput s.ckr.dom {} n v }

/-- Change clock domain `n`. -/
def State.modClkDom (s : State) (n : Nat) (f : ClkDom → ClkDom) : State := s.setClkDom n (f (s.clkDom n))

/-- The state of global clock `n`. -/
def State.gclk (s : State) (n : Nat) : Gclk := tget s.ckr.gclk {} n

/-- Replace global clock `n`. -/
def State.setGclk (s : State) (n : Nat) (v : Gclk) : State :=
  { s with ckr.gclk := tput s.ckr.gclk {} n v }

/-- Change global clock `n`. -/
def State.modGclk (s : State) (n : Nat) (f : Gclk → Gclk) : State := s.setGclk n (f (s.gclk n))

/-- The state of thermal sensor `n`. -/
def State.sensor (s : State) (n : Nat) : Sensor := tget s.thm.sens {} n

/-- Replace thermal sensor `n`. -/
def State.setSensor (s : State) (n : Nat) (v : Sensor) : State :=
  { s with thm.sens := tput s.thm.sens {} n v }

/-- Change thermal sensor `n`. -/
def State.modSensor (s : State) (n : Nat) (f : Sensor → Sensor) : State := s.setSensor n (f (s.sensor n))

/-- The state of the fault state of owner `n`. -/
def State.ownerFlt (s : State) (n : Nat) : OwnerFlt := tget s.flt.owner {} n

/-- Replace the fault state of owner `n`. -/
def State.setOwnerFlt (s : State) (n : Nat) (v : OwnerFlt) : State :=
  { s with flt.owner := tput s.flt.owner {} n v }

/-- Change the fault state of owner `n`. -/
def State.modOwnerFlt (s : State) (n : Nat) (f : OwnerFlt → OwnerFlt) : State := s.setOwnerFlt n (f (s.ownerFlt n))

/-- The state of debug session `n`. -/
def State.sess (s : State) (n : Nat) : Session := tget s.dbg.sess {} n

/-- Replace debug session `n`. -/
def State.setSess (s : State) (n : Nat) (v : Session) : State :=
  { s with dbg.sess := tput s.dbg.sess {} n v }

/-- Change debug session `n`. -/
def State.modSess (s : State) (n : Nat) (f : Session → Session) : State := s.setSess n (f (s.sess n))

/-- The state of lane `n`. -/
def State.lane (s : State) (n : Nat) : Lane := tget s.ser.lane {} n

/-- Replace lane `n`. -/
def State.setLane (s : State) (n : Nat) (v : Lane) : State :=
  { s with ser.lane := tput s.ser.lane {} n v }

/-- Change lane `n`. -/
def State.modLane (s : State) (n : Nat) (f : Lane → Lane) : State := s.setLane n (f (s.lane n))

/-- The state of lane group `n`. -/
def State.laneGroup (s : State) (n : Nat) : LaneGroup := tget s.ser.group {} n

/-- Replace lane group `n`. -/
def State.setLaneGroup (s : State) (n : Nat) (v : LaneGroup) : State :=
  { s with ser.group := tput s.ser.group {} n v }

/-- Change lane group `n`. -/
def State.modLaneGroup (s : State) (n : Nat) (f : LaneGroup → LaneGroup) : State := s.setLaneGroup n (f (s.laneGroup n))

/-- The state of JESD link `n`. -/
def State.jesd (s : State) (n : Nat) : Jesd := tget s.ser.jesd {} n

/-- Replace JESD link `n`. -/
def State.setJesd (s : State) (n : Nat) (v : Jesd) : State :=
  { s with ser.jesd := tput s.ser.jesd {} n v }

/-- Change JESD link `n`. -/
def State.modJesd (s : State) (n : Nat) (f : Jesd → Jesd) : State := s.setJesd n (f (s.jesd n))

/-- The state of Ethernet MAC `n`. -/
def State.mac (s : State) (n : Nat) : Mac := tget s.ser.mac {} n

/-- Replace Ethernet MAC `n`. -/
def State.setMac (s : State) (n : Nat) (v : Mac) : State :=
  { s with ser.mac := tput s.ser.mac {} n v }

/-- Change Ethernet MAC `n`. -/
def State.modMac (s : State) (n : Nat) (f : Mac → Mac) : State := s.setMac n (f (s.mac n))

/-- The state of ring port `n`. -/
def State.ring (s : State) (n : Nat) : RingPort := tget s.ser.ring {} n

/-- Replace ring port `n`. -/
def State.setRing (s : State) (n : Nat) (v : RingPort) : State :=
  { s with ser.ring := tput s.ser.ring {} n v }

/-- Change ring port `n`. -/
def State.modRing (s : State) (n : Nat) (f : RingPort → RingPort) : State := s.setRing n (f (s.ring n))

/-- The state of outbound window `n`. -/
def State.outWin (s : State) (n : Nat) : OutWin := tget s.pce.win {} n

/-- Replace outbound window `n`. -/
def State.setOutWin (s : State) (n : Nat) (v : OutWin) : State :=
  { s with pce.win := tput s.pce.win {} n v }

/-- Change outbound window `n`. -/
def State.modOutWin (s : State) (n : Nat) (f : OutWin → OutWin) : State := s.setOutWin n (f (s.outWin n))

/-- The state of configuration frame `n`. -/
def State.frame (s : State) (n : Nat) : Frame := tget s.cfg.frame {} n

/-- Replace configuration frame `n`. -/
def State.setFrame (s : State) (n : Nat) (v : Frame) : State :=
  { s with cfg.frame := tput s.cfg.frame {} n v }

/-- Change configuration frame `n`. -/
def State.modFrame (s : State) (n : Nat) (f : Frame → Frame) : State := s.setFrame n (f (s.frame n))

/-- The state of overlay region `n`. -/
def State.ovlRegion (s : State) (n : Nat) : OvlRegion := tget s.ovl.region {} n

/-- Replace overlay region `n`. -/
def State.setOvlRegion (s : State) (n : Nat) (v : OvlRegion) : State :=
  { s with ovl.region := tput s.ovl.region {} n v }

/-- Change overlay region `n`. -/
def State.modOvlRegion (s : State) (n : Nat) (f : OvlRegion → OvlRegion) : State := s.setOvlRegion n (f (s.ovlRegion n))

/-- The state of block-memory port `n`. -/
def State.bport (s : State) (n : Nat) : BPort := tget s.fab.bport {} n

/-- Replace block-memory port `n`. -/
def State.setBport (s : State) (n : Nat) (v : BPort) : State :=
  { s with fab.bport := tput s.fab.bport {} n v }

/-- Change block-memory port `n`. -/
def State.modBport (s : State) (n : Nat) (f : BPort → BPort) : State := s.setBport n (f (s.bport n))

/-- The state of slice `n`. -/
def State.sliceAt (s : State) (n : Nat) : Slice := tget s.fab.slice {} n

/-- Replace slice `n`. -/
def State.setSliceAt (s : State) (n : Nat) (v : Slice) : State :=
  { s with fab.slice := tput s.fab.slice {} n v }

/-- Change slice `n`. -/
def State.modSliceAt (s : State) (n : Nat) (f : Slice → Slice) : State := s.setSliceAt n (f (s.sliceAt n))

end Sys2Proof.Machine
end

