-- ==== Sys2Proof/Machine/Ops.lean ====
section
/-!
DEFINITION. Machine/Ops.lean: the operations every unit shares: free values, which units a variant has, who owns what,
fault sources and raising them, time, messages to the host.
-/
namespace Sys2Proof.Machine

/-! ### Free values -/

/-- A fresh free value: nothing constrains it. -/
def State.fresh (s : State) (w : Nat) : BitVec w × State :=
  (Config.freeBits w s.freeCount, { s with freeCount := s.freeCount + 1 })

/-- `n` fresh bytes. -/
def State.freshBytes (s : State) (n : Nat) : List Byte × State :=
  (leBytes n (Config.freeBits (8 * n) s.freeCount).toNat, { s with freeCount := s.freeCount + 1 })

/-- A fresh value that is not zero (R407): the free value, or 1 where it is zero. -/
def State.freshNonZero (s : State) (w : Nat) : BitVec w × State :=
  let v := Config.freeBits w s.freeCount
  (if v = 0#w then 1#w else v, { s with freeCount := s.freeCount + 1 })

/-! ### Presence (R4, R6) -/

/-- Engines of a variant (R4). -/
def Variant.engines : Variant → Nat
  | .f => 128
  | .c => 128
  | .m => 64
  | .s => 64

/-- DRAM ports of a variant (R4). -/
def Variant.dports : Variant → Nat
  | .f => 8
  | .c => 8
  | .m => 6
  | .s => 4

/-- Lane groups, and JESD link layers, of a variant (R4). -/
def Variant.groups : Variant → Nat
  | .f => 8
  | .c => 8
  | .m => 8
  | .s => 4

/-- Ring ports of a variant (R4). -/
def Variant.rings : Variant → Nat
  | .f => 2
  | .c => 2
  | .m => 2
  | .s => 0

/-- Does the variant have the memory-encryption unit (R4)? -/
def Variant.mxe : Variant → Bool
  | .f => true
  | .c => false
  | .m => true
  | .s => false

def State.engPresent (s : State) (g : Nat) : Bool := g < s.variant.engines
def State.kitPresent (s : State) (k : Nat) : Bool := k * 8 < s.variant.engines
def State.dportPresent (s : State) (k : Nat) : Bool := k < s.variant.dports
def State.lanePresent (s : State) (k : Nat) : Bool := k < s.variant.groups
def State.ringPresent (s : State) (p : Nat) : Bool := p < s.variant.rings

/-- Is a block of R432 present? -/
def State.blockPresent (s : State) : Block → Bool
  | .kit k => s.kitPresent k
  | .fport _ => true
  | .vport _ => true
  | .dport k => s.dportPresent k
  | .lane k => s.lanePresent k
  | .ring p => s.ringPresent p
  | .pcie => true

/-! ### Routers and blocks (R274) -/

/-- The router of the fabric port of sector `sec`. -/
def sectorRouter (sec : Nat) : Nat := (sec / 12 + 1) * 14 + sec % 12 + 1

/-- The router of kit `k`. -/
def kitRouter (k : Nat) : Nat :=
  if k < 4 then k + 1 else if k < 8 then k + 5 else if k < 12 then k + 119 else k + 123

/-- The router of DRAM port `k`. -/
def dportRouter (k : Nat) : Nat := if k < 4 then 14 * (k + 1) else 14 * (k - 3) + 13

/-- The router of lane group `k`. -/
def laneRouter (k : Nat) : Nat := if k < 4 then 14 * (k + 5) else 14 * (k + 1) + 13

/-- The router of a block. -/
def blockRouter : Block → Nat
  | .kit k => kitRouter k
  | .fport s => sectorRouter s
  | .vport v => 5 + v
  | .dport k => dportRouter k
  | .lane k => laneRouter k
  | .ring p => if p = 0 then 0 else 13
  | .pcie => 131

/-- Every block of R432. -/
def allBlocks : List Block :=
  (List.finRange 16).map Block.kit ++ (List.finRange 96).map Block.fport ++ (List.finRange 4).map Block.vport ++
  (List.finRange 8).map Block.dport ++ (List.finRange 8).map Block.lane ++ (List.finRange 2).map Block.ring ++ [.pcie]

/-- The block behind a router, where it has one (R274). -/
def routerBlock (n : Nat) : Option Block := allBlocks.find? fun b => blockRouter b == n

/-- BLOCK_KIND and BLOCK of a fault record (R451). -/
def blockCode : Option Block → Nat × Nat
  | none => (0, 0)
  | some (.kit k) => (1, k)
  | some (.fport s) => (2, s)
  | some (.vport v) => (3, v)
  | some (.dport k) => (4, k)
  | some (.lane k) => (5, k)
  | some (.ring p) => (6, p)
  | some .pcie => (7, 0)

/-- The block that BLOCK_KIND and BLOCK name. -/
def blockOf (kind idx : Nat) : Option Block := allBlocks.find? fun b => blockCode (some b) == (kind, idx)

/-! ### Owners (R7, R23, R162) -/

/-- Owner `o` holds the configuration right; owner 0 always does (R162). -/
def State.hasConfig (s : State) (o : Owner) : Bool := o = 0 || inMask s.man.config.toNat o

/-- Owner `o` has the secure attribute (R25). -/
def State.isSecure (s : State) (o : Owner) : Bool := inMask s.man.secure.toNat o

/-- The owner of a sector's partition. -/
def State.sectorOwner (s : State) (sec : Nat) : Owner := tget s.man.sector 0 sec

/-- The owner of a quad. -/
def State.quadOwner (s : State) (q : Nat) : Owner := tget s.man.quad 0 q

/-- The owner of a PCIe function (R23); owner 0 without a FUNCTION record. -/
def State.pfOwner (s : State) (fn : Nat) : Owner := ((if fn = 0 then s.man.pf0 else s.man.pf1)).getD 0

/-- The time controller of a PTU, who owns the MAC (R81, R373). -/
def State.ptuOwner (s : State) (n : Nat) : Owner :=
  match s.man.ptu.find? fun e => e.1.val == n with
  | some e => e.2
  | none => 0

/-- The owner that a PEER record assigns to a ring peer (R23). -/
def State.peerOwner (s : State) (p src : Nat) : Owner :=
  match s.man.peers.find? fun e => e.port.val == p && e.src.val == src with
  | some e => e.owner
  | none => 0

/-- The owner stamped on the requests of an initiator (R23): a kit's or engine's is the owner of the context it runs,
else the kit's owner. -/
def State.ownerOf (s : State) : Initiator → Owner
  | .belfry => 0
  | .pf fn => s.pfOwner fn
  | .sector sec => s.sectorOwner sec
  | .kit k => (s.kitAt k).owner
  | .engine g =>
    let e := s.engAt g
    if e.st = .task then (s.ctx e.task.toNat).owner else (s.kitAt (g / 8)).owner
  | .mac n => s.ptuOwner n
  | .ring p src => s.peerOwner p src
  | .debug i => (s.sess i).owner
  | .jtag => 0
  | .unit o => o

/-- Does an access by `who` to a resource of owner `o` pass the check of R24? The belfry passes every check (R23). -/
def State.passes (s : State) (who : Initiator) (o : Owner) : Bool := who = .belfry || s.ownerOf who = o

/-- The block that contains an initiator (R449). A MAC's is the lane group of its lanes (R373). -/
def initBlock : Initiator → Option Block
  | .belfry => none
  | .pf _ => some .pcie
  | .sector s => some (.fport s)
  | .kit k => some (.kit k)
  | .engine g => some (.kit ⟨g.val / 8, by omega⟩)
  | .mac n => some (.lane ⟨2 + n.val, by omega⟩)
  | .ring p _ => some (.ring p)
  | .debug _ => none
  | .jtag => none
  | .unit _ => none

/-- The router at which an initiator's requests enter the network (R274). -/
def initRouter : Initiator → Nat
  | .belfry => 134
  | .pf _ => 131
  | .sector s => sectorRouter s
  | .kit k => kitRouter k
  | .engine g => kitRouter (g / 8)
  | .mac n => laneRouter (2 + n)
  | .ring p _ => if p = 0 then 0 else 13
  | .debug _ => 139
  | .jtag => 134
  | .unit _ => 132

/-! ### Time -/

/-- The LOCAL axis position (R45): the count as the integer part, no fraction. -/
def State.localPos (s : State) : W64 := (s.axu.localNs ++ 0#16 : BitVec 64)

/-! ### Messages to the host (R364, R446) -/

/-- Send an MSI-X vector of a function: a masked vector becomes pending. -/
def State.msix (s : State) (fn : Fin 2) (v : Nat) : State :=
  if s.pce.unmasked.contains (fn, v) then { s with pce.sent := s.pce.sent ++ [(fn, v)] }
  else if s.pce.msixPend.contains (fn, v) then s
  else { s with pce.msixPend := s.pce.msixPend ++ [(fn, v)] }

/-! ### Fault sources (R440, R441, R518 and the tables of the chapters) -/

/-- The class of a hardware source; for a multi-class source the highest class of its causes. For a user source, the
default of R127. Reserved sources have class 0. -/
def srcClass (i : Nat) : Nat :=
  if i < 64 then
    if i = 0 then 7 else if i = 1 ∨ i = 2 then 1 else if i = 40 then 3 else if i = 41 then 1 else if i = 43 then 4 else 0
  else if i < 128 then
    if i ≤ 73 then 5 else if i = 74 then 3 else if i = 75 then 7 else if i = 76 ∨ i = 77 then 5
    else if 96 ≤ i ∧ i ≤ 121 then 5 else if i = 122 then 7 else if i = 123 then 5 else 0
  else if i < 192 then
    if i ≤ 131 then 4 else if i = 132 then 0 else if i = 133 then 4 else if i = 134 then 1 else if i = 135 then 4
    else if i = 137 then 1 else if i = 160 then 4 else 0
  else if i < 256 then
    if i = 193 then 7 else if i = 195 then 3 else if i = 196 then 1 else if i = 197 then 7
    else if 198 ≤ i ∧ i ≤ 200 then 3 else if i = 201 then 1 else 0
  else if i < 384 then ([0, 1, 3, 1, 7, 0, 5, 0, 7, 1, 1, 3, 3].getD ((i - 256) % 16) 0)
  else if i < 448 then
    if i < 400 then 6 else if i < 408 then 7 else if i = 409 then 1 else 0
  else if i < 512 then
    if i = 449 ∨ i = 450 then 3 else if i = 451 then 1 else if 453 ≤ i ∧ i ≤ 455 then 1 else 0
  else if i < 656 then 3
  else if i < 720 then
    if i = 656 ∨ i = 657 then 3 else if i = 658 then 1 else if 672 ≤ i ∧ i ≤ 687 then 2 else if i = 688 then 3 else 0
  else if i < 784 then
    if i < 736 then 1 else if i = 736 then 2 else if 740 ≤ i ∧ i ≤ 755 then 2 else if 760 ≤ i ∧ i ≤ 763 then 1 else 0
  else if i < 848 then
    if i = 785 ∨ i = 787 then 3 else if i = 786 then 1 else if 792 ≤ i ∧ i ≤ 799 then 5
    else if 800 ≤ i ∧ i ≤ 809 then 1 else if 818 ≤ i ∧ i ≤ 821 then 1 else if i = 822 ∨ i = 823 then 4
    else if i = 824 then 2 else 0
  else if i < 912 then
    if i = 848 then 1 else if 850 ≤ i ∧ i ≤ 852 then 6 else if 856 ≤ i ∧ i ≤ 860 then 6 else if i = 864 then 1
    else if i = 865 then 7 else if i = 866 then 6 else 0
  else if i < 1008 then 1
  else 2

/-- Multi-class sources (R440). -/
def srcMulti (i : Nat) : Bool := 512 ≤ i && i < 656

/-- The block that contains the unit of a source (R449), where it lies in one of R432. -/
def srcBlock (i : Nat) : Option Block :=
  if 256 ≤ i ∧ i < 384 then some (.dport (Fin.ofNat 8 ((i - 256) / 16)))
  else if 512 ≤ i ∧ i < 640 then some (.kit (Fin.ofNat 16 ((i - 512) / 8)))
  else if 640 ≤ i ∧ i < 656 then some (.kit (Fin.ofNat 16 (i - 640)))
  else if 784 ≤ i ∧ i ≤ 787 then some .pcie
  else if 792 ≤ i ∧ i < 800 then some (.lane (Fin.ofNat 8 (i - 792)))
  else if 800 ≤ i ∧ i < 808 then some (.lane (Fin.ofNat 8 (i - 800)))
  else if i = 808 ∨ i = 809 then some (.lane (Fin.ofNat 8 (i - 806)))
  else if 816 ≤ i ∧ i < 824 then some (.ring (Fin.ofNat 2 (i % 2)))
  else if 912 ≤ i ∧ i < 1008 then some (.fport (Fin.ofNat 96 (i - 912)))
  else none

/-- Sources whose chapter names a requester, initiator, reader, writer or resource owner and whose faults have a block
through it (R447, R449). -/
def srcOther (i : Nat) : Bool :=
  [74, 195, 198, 199, 200, 449, 450, 656, 785, 786, 787, 824].contains i ||
  (256 ≤ i && i < 384 && [2, 3, 11, 12].contains ((i - 256) % 16)) || srcMulti i || (800 ≤ i && i ≤ 809) || 912 ≤ i

/-- Sources delivered to an owner other than owner 0 and whose faults have no block. -/
def srcOtherNoBlock (i : Nat) : Bool :=
  [40, 41, 133, 135, 201, 451, 657, 658, 688, 736, 848, 850, 851].contains i || (96 ≤ i && i < 120) ||
  (384 ≤ i && i < 392) || (672 ≤ i && i < 688) || (720 ≤ i && i < 736) || (740 ≤ i && i < 764)

/-- The default CAP of R447: L4 for a source delivered to owner 0 alone, else L3 with a block and L2 without. -/
def srcCap (i : Nat) : Nat := if srcOther i then 3 else if srcOtherNoBlock i then 2 else 4

/-- FLT_SRC_i at reset (R458). -/
def srcReset (i : Nat) : SrcCfg :=
  { cls := srcClass i, level := 0, cap := srcCap i, errn := false, latch := false, mask := false }

/-- FLT_SRC_i as it stands. -/
def State.srcCfg (s : State) (i : Nat) : SrcCfg := tget s.flt.cfg (srcReset i) i

/-- Change FLT_SRC_i. -/
def State.setSrcCfg (s : State) (i : Nat) (c : SrcCfg) : State :=
  { s with flt.cfg := tput s.flt.cfg (srcReset i) i c }

/-- A unit raises a fault (R442): the collector handles it in a FAULT_RAISE. `cls` is the class of the cause. -/
def State.raiseC (s : State) (src cls : Nat) (owners : List Owner) (block : Option Block) (info : W32) : State :=
  { s with flt.raised := s.flt.raised ++
      [{ src := src, cls := cls, owners := owners.eraseDups, block := block, info := info, injected := false,
         stamp := s.localPos, time := s.now }] }

/-- A unit raises a fault of its source's one class, with the block of its unit. -/
def State.raise (s : State) (src : Nat) (owners : List Owner) (info : W32 := 0#32) : State :=
  s.raiseC src (s.srcCfg src).cls owners (srcBlock src) info

/-- A fault delivered to a requester's or initiator's owner, whose block is the initiator's (R449). -/
def State.raiseBy (s : State) (src : Nat) (who : Initiator) (o : Owner) (info : W32 := 0#32) : State :=
  s.raiseC src (s.srcCfg src).cls [o] (initBlock who) info

/-- The fault note of a failed ownership check (R24, R518). -/
def State.noteOwner (s : State) (who : Initiator) : State := s.raiseBy 198 who (s.ownerOf who)

/-! ### Health (R456) -/

/-- A cause of REPLACE_SOON: the first one raises FSRC 2 and drives SVC_N low. -/
def State.healthCause (s : State) (bit : Nat) : State :=
  let s' := { s with flt.causes := s.flt.causes ||| (1#32 <<< bit) }
  if s.flt.causes = 0#32 then s'.raise 2 [0] else s'

/-! ### Block resets, windows and gates -/

/-- Is the block inside its post-reset window of R3, or in reset (R36)? -/
def State.inWindow (s : State) (b : Block) : Bool :=
  s.noc.window.any fun w => w.1 == b && (match w.2 with | none => true | some t => decide (s.now < t))

/-- Does the clock gate of kit `k` run (R430, R437)? -/
def State.kitOn (s : State) (k : Nat) : Bool :=
  s.kitPresent k && bitOf s.ckr.gate0.toNat k && bitOf s.ckr.pwrUnit.toNat k && !s.ckr.inReset.contains (.kit (Fin.ofNat 16 k))

/-- Does the clock gate of DRAM port `k` run? -/
def State.dportOn (s : State) (k : Nat) : Bool :=
  s.dportPresent k && bitOf s.ckr.gate0.toNat (16 + k) && bitOf s.ckr.pwrUnit.toNat (16 + k)

/-- Is engine `g`'s register block reachable? -/
def State.engOn (s : State) (g : Nat) : Bool := s.engPresent g && s.kitOn (g / 8)

end Sys2Proof.Machine
end

