-- ==== Sys2Proof/Machine/Memory.lean ====
section
/-!
DEFINITION. Machine/Memory.lean: accesses to the vault (R301 to R316), to DRAM regions (R325 to R343) and through the
memory encryption (R348 to R356): the ownership check, the state of the words and lines touched, the data and the
response. An access is one step; what the code of a word or line finds is part of the state or an operand of the
command that serves the access.
-/
namespace Sys2Proof.Machine

/-! ### Vault -/

/-- First address and size of the vault (R37). -/
def vaultBase : Nat := 0x010000000000
def vaultSize : Nat := 0x2000000

/-- Does [a, a + n) lie in the vault? -/
def inVault (a n : Nat) : Bool := vaultBase ≤ a && a + n ≤ vaultBase + vaultSize

/-- Base word, first bank and number of banks of the part that holds vault word `v` (R301, R302). -/
def vaultPart (v : Nat) : Nat × Nat × Nat :=
  if v < 0x20000 then (0, 0, 4) else if v < 0x1E0000 then (0x20000, 4, 56) else (0x1E0000, 60, 4)

/-- The bank of vault word `v` (R302). -/
def vaultBank (v : Nat) : Nat := let p := vaultPart v; p.2.1 + (v - p.1) % p.2.2

/-- The row of vault word `v` in its bank (R302). -/
def vaultRow (v : Nat) : Nat := let p := vaultPart v; (v - p.1) / p.2.2

/-- The vault word at a row of a bank (R302). -/
def vaultWordAt (bank row : Nat) : Nat :=
  if bank < 4 then row * 4 + bank
  else if bank < 60 then 0x20000 + row * 56 + (bank - 4)
  else 0x1E0000 + row * 4 + (bank - 60)

/-- Vault words, or lines of `k` bytes, that [off, off + n) touches. -/
def spanOf (k off n : Nat) : List Nat :=
  if n = 0 then [] else (List.range ((off + n - 1) / k - off / k + 1)).map (· + off / k)

/-- Every page touched belongs to `o`, and the secure part is touched only with the secure attribute (R25, R304). -/
def State.vaultMine (s : State) (who : Initiator) (o : Owner) (off n : Nat) : Bool :=
  who = .belfry ||
    ((spanOf 0x10000 off n).all fun p => (s.vpage p).owner = o && (p < 480 || s.isSecure o))

/-- The check bits of a vault word. -/
def State.wordState (s : State) (v : Nat) : WordState := tget s.vlt.word .unwritten v

def State.setWordState (s : State) (v : Nat) (w : WordState) : State :=
  { s with vlt.word := tput s.vlt.word .unwritten v w }

/-- VLT_LAST: word, kind and page owner of the latest error (R317). -/
def State.vaultLast (s : State) (v kind : Nat) : State :=
  { s with vlt.last := packW [(0, v % 2 ^ 21), (21, kind), (24, (s.vpage (v / 4096)).owner.val)] }

/-- What the code finds at a word that is accessed: a written word takes the error found (R309 keeps unwritten words
out). -/
def State.vaultFind (s : State) (v : Nat) (f : Finding) : State :=
  if s.wordState v = .unwritten then s
  else match f with
    | .clean => s
    | .corrected => if s.wordState v = .poisoned then s else s.setWordState v .correctable
    | .uncorrectable => s.setWordState v .poisoned

/-- Word accesses of source `i` that waited behind another at their banks, of `n` made: the model has no vault cycles, so how many
did is a free value (R313; DESIGN CHOICE, log 128). -/
def State.confTick (s : State) (i n : Nat) : State :=
  let f := s.fresh 6
  { f.2 with vlt.conf := tput s.vlt.conf 0#32 i (satAdd (tget s.vlt.conf 0#32 i) (f.1.toNat % (n + 1))) }

/-- One word of a read: the reported state of the word (R309, R310). An unwritten word takes fresh free contents,
which the read returns; whether it raises FSRC 448 or 449 is free (R309). -/
def State.vaultReadWord (s : State) (who : Initiator) (o : Owner) (v : Nat) : NocStatus × List Byte × State :=
  match s.wordState v with
  | .unwritten =>
    let r := s.freshBytes 16
    let f := r.2.fresh 2
    (.ok, r.1, if f.1 = 1#2 then f.2.raise 448 [] else if f.1 = 2#2 then f.2.raiseBy 449 who o else f.2)
  | .clean => (.ok, rdBytes s.vlt.mem (16 * v) 16, s)
  | .correctable =>
    (.ok, rdBytes s.vlt.mem (16 * v) 16,
      ({ s with vlt.ce := satInc s.vlt.ce }.vaultLast v 1).raise 448 [])
  | .poisoned =>
    (.poisoned, rdBytes s.vlt.mem (16 * v) 16,
      ({ s with vlt.ue := satInc s.vlt.ue }.vaultLast v 2).raiseBy 449 who o)

/-- Does another's locked sequence hold a word of [off, off + n), so that a write of it waits (R221, R311)? -/
def State.vaultLocked (s : State) (who : Initiator) (off n : Nat) : Bool :=
  s.vlt.locks.any fun l => (spanOf 16 off n).contains l.1 && l.2.1 != who

/-- The words of a read in address order; the status is POISONED where any word is. -/
def State.vaultReadWords (s : State) (who : Initiator) (o : Owner) : List Nat → NocStatus × List Byte × State
  | [] => (.ok, [], s)
  | v :: vs =>
    let r := s.vaultReadWord who o v
    let t := r.2.2.vaultReadWords who o vs
    (if r.1 = .ok then t.1 else r.1, r.2.1 ++ t.2.1, t.2.2)

/-- The bytes [lo, hi) of word `v` written (R309, R310): a whole word is stored clean; a part is merged into the old
word, whose unwritten bytes are free values and whose poison stays. -/
def State.vaultWriteWord (s : State) (who : Initiator) (o : Owner) (v lo : Nat) (bs : List Byte) : NocStatus × State :=
  if lo = 0 ∧ bs.length = 16 then
    (.ok, { s.setWordState v .clean with vlt.mem := wrBytes s.vlt.mem (16 * v) bs })
  else match s.wordState v with
    | .clean => (.ok, { s with vlt.mem := wrBytes s.vlt.mem (16 * v + lo) bs })
    | .correctable =>
      (.ok, (({ (s.setWordState v .clean) with
          vlt.mem := wrBytes s.vlt.mem (16 * v + lo) bs, vlt.ce := satInc s.vlt.ce }).vaultLast v 1).raise 448 [])
    | .poisoned =>
      (.poisonedMerge, (({ s with
          vlt.mem := wrBytes s.vlt.mem (16 * v + lo) bs,
          vlt.pmerge := satInc s.vlt.pmerge }).vaultLast v 5).raiseBy 450 who o)
    | .unwritten =>
      let r := s.freshBytes 16
      (.ok, { r.2.setWordState v .clean with
          vlt.mem := wrBytes (wrBytes s.vlt.mem (16 * v) r.1) (16 * v + lo) bs })

/-- A write of bytes from offset `off` up, word by word in address order. -/
def State.vaultWriteWords (s : State) (who : Initiator) (o : Owner) (off : Nat) :
    List Nat → List Byte → NocStatus × State
  | [], _ => (.ok, s)
  | v :: vs, bs =>
    let lo := off - 16 * v
    let k := min bs.length (16 - lo)
    let r := s.vaultWriteWord who o v lo (bs.take k)
    let t := r.2.vaultWriteWords who o (16 * v + 16) vs (bs.drop k)
    (if r.1 = .ok then t.1 else r.1, t.2)

/-- The check that an access to the vault passes before it touches a word: ownership (R24, R304), and no access to the
secure part during a wipe (R312). -/
def State.vaultCheck (s : State) (who : Initiator) (o : Owner) (off n : Nat) : Option NocStatus :=
  if !s.vaultMine who o off n then some .notOwner
  else if s.vlt.wiping && (spanOf 0x10000 off n).any (fun p => decide (480 ≤ p)) then some .error
  else none

/-- A read of `n` bytes at vault offset `off`. -/
def State.vaultRead (s : State) (who : Initiator) (o : Owner) (off n : Nat) : NocStatus × List Byte × State :=
  match s.vaultCheck who o off n with
  | some .notOwner => (.notOwner, [], s.raiseBy 198 who o)
  | some st => (st, [], s)
  | none =>
    let r := s.vaultReadWords who o (spanOf 16 off n)
    (r.1, (r.2.1.drop (off % 16)).take n, r.2.2)

/-- A write of bytes at vault offset `off`. -/
def State.vaultWrite (s : State) (who : Initiator) (o : Owner) (off : Nat) (bs : List Byte) : NocStatus × State :=
  match s.vaultCheck who o off bs.length with
  | some .notOwner => (.notOwner, s.raiseBy 198 who o)
  | some st => (st, s)
  | none => s.vaultWriteWords who o off (spanOf 16 off bs.length) bs

/-- Clear every word of [first word, + count) to zero with valid check bits. -/
def State.vaultClear (s : State) (first count : Nat) : State :=
  { s with
    vlt.mem := s.vlt.mem.filter fun c => !(16 * first ≤ c.1 && c.1 < 16 * (first + count))
    vlt.word := (s.vlt.word.filter fun c => c.1 < first) ++ ((List.range count).map fun i => (first + i, WordState.clean)) ++
      (s.vlt.word.filter fun c => first + count ≤ c.1)
    vlt.once := s.vlt.once.filter fun v => !(first ≤ v && v < first + count) }

/-! ### DRAM regions and ports -/

/-- The region that holds global DRAM address `a`, cleared or not (R325). -/
def State.regionAt (s : State) (a : Nat) : Option Nat :=
  firstFree 16 fun r => let g := s.region r; g.defined && g.base ≤ a && a < g.base + g.size

/-- Port and port address of global address `a` in a region (R325). -/
def regionMap (g : Region) (a : Nat) : Nat × Nat :=
  let ports := maskList 8 g.ports.toNat
  let n := ports.length
  let o := a - g.base
  let gr := o / 2 ^ g.gexp
  (ports.getD (gr % n) 0, g.pbase + gr / n * 2 ^ g.gexp + o % 2 ^ g.gexp)

/-- Data bytes of a protected region (R350). -/
def mxeData (size : Nat) : Nat := size * 6 / 7 / 4096 * 4096

/-- Owners with a region on port `k` (R344). -/
def State.portOwners (s : State) (k : Nat) : List Owner :=
  (((List.range 16).filter fun r => (s.region r).defined && inMask (s.region r).ports.toNat k).map
    fun r => (s.region r).owner).eraseDups

/-- Debt of bank set `b` (rank × 4 + bank) of a port (R331). -/
def DPort.debtOf (p : DPort) (b : Nat) : Nat := tget p.debt 0 b

/-- Bank sets of a port: four per rank. -/
def DPort.sets (p : DPort) : Nat := if p.ranks then 8 else 4

def DPort.maxDebt (p : DPort) : Nat := ((List.range p.sets).map p.debtOf).foldl max 0
def DPort.owed (p : DPort) : Nat := ((List.range p.sets).map p.debtOf).foldl (· + ·) 0

/-- The freeze record of R341, with the requests that the port answers FROZEN. -/
def State.freezeRecord (s : State) (k cause : Nat) (line : Nat) (glob : Nat) (syn : BitVec 128) (pend : Nat)
    (q : List W64) : FreezeRec :=
  let p := s.dport k
  { stamp := s.localPos, cause := cause
    erased := BitVec.ofNat 8 (p.erased0.toNat + 16 * p.erased1.toNat)
    refresh := BitVec.ofNat 8 (b2n p.rate2x + 16 * p.maxDebt)
    pending := BitVec.ofNat 32 pend
    line := if cause = 5 ∨ cause = 6 then BitVec.allOnes 64 else BitVec.ofNat 64 line
    glob := if cause = 5 ∨ cause = 6 then BitVec.allOnes 64 else BitVec.ofNat 64 glob
    syndrome := syn, symerr := [], commands := p.commands, queue := q }

/-- QUEUE entry of the freeze record for a request pending at the port (R341). -/
def freezeQueueEntry (now : Nat) (pa : Nat) (r : Req) : W64 :=
  BitVec.ofNat 64 (pa / 64 % 2 ^ 30 + b2n (r.op = .write) * 2 ^ 30 + b2n (r.vc = 2) * 2 ^ 31 + r.src * 2 ^ 32 +
    r.owner.val * 2 ^ 40 + r.flow * 2 ^ 44 + min 65535 (now - r.since) * 2 ^ 48)

/-- Requests pending at port `k`. -/
def State.portPending (s : State) (k : Nat) : List (Nat × Req) :=
  s.noc.req.filterMap fun e => match e.2 with
    | some r => if r.dst = dportRouter k && r.stage = .target then some (e.1, r) else none
    | none => none

/-- The port freezes (R340): every pending request is answered FROZEN, the record is kept, the frozen source is
raised. Contracts through the port follow in `State.settle`. -/
def State.dportFreeze (s : State) (k cause line glob : Nat) (syn : BitVec 128) : State :=
  let p := s.dport k
  let pend := s.portPending k
  let q := (pend.take 16).map fun e =>
    freezeQueueEntry s.now (match s.regionAt e.2.addr with | some r => (regionMap (s.region r) e.2.addr).2 | none => 0) e.2
  let rec_ := s.freezeRecord k cause line glob syn pend.length q
  let s := s.setDport k { p with
    st := .frozen, freezeCause := cause, freezeCnt := satInc p.freezeCnt, record := some rec_ }
  let s := { s with noc.req := pend.foldl (fun (t : Tab (Option Req)) (e : Nat × Req) =>
    tput t none e.1 (some { e.2 with stage := .answered .frozen [] })) s.noc.req }
  { s with dram.froze := s.dram.froze ++ [k] }.raise (256 + 16 * k + 3) (s.portOwners k)
    (packW [(0, cause), (3, 1), (8, (satInc p.freezeCnt).toNat)])

/-- What a port answers before it looks at a line (R337, R340, R342, R343): a port in self-refresh leaves it first,
which the caller does. -/
def portRefusal : PortState → Option NocStatus
  | .off => some .domainOff
  | .untrained => some .error
  | .training => some .error
  | .ready => none
  | .selfref => none
  | .frozen => some .frozen
  | .resetting => some .resetAbort
  | .failed => some .error

/-- Is port `k` of region `g` gated, or the MXE before it, so that accesses read zero and writes are ignored (R430; that the MXE's
gate covers the lines it protects is DEDUCED, log 130)? -/
def State.portGated (s : State) (g : Region) (k : Nat) : Bool :=
  !bitOf s.ckr.gate0.toNat (16 + k) || (g.enc.isSome && !bitOf s.ckr.gate1.toNat 12)

/-- The first refusal of the ports that lines `ls` (global line numbers) of region `g` lie on. -/
def State.portsRefuse (s : State) (g : Region) : List Nat → Option NocStatus
  | [] => none
  | l :: ls =>
    let k := (regionMap g (64 * l)).1
    match (if s.portGated g k then none else portRefusal (s.dport k).st) with
    | some st => some st
    | none => s.portsRefuse g ls

/-- A request that reaches a port in self-refresh makes it exit (R343). -/
def State.portWake (s : State) (k : Nat) : State :=
  if (s.dport k).st = .selfref then { s.modDport k fun p => { p with st := .ready } with dram.woke := s.dram.woke ++ [k] } else s

/-! ### Memory encryption -/

/-- The 128-bit value of R352 for line `i`, counters and block `j`, as bytes, most significant first (DEDUCED, log 111). -/
def mxeBlock (i : Nat) (major : W64) (minor : BitVec 7) (j : Nat) : List Byte :=
  beBytes 16 ((((i % 2 ^ 40 * 2 ^ 64 + major.toNat) * 2 ^ 7 + minor.toNat) * 4 + j) * 2 ^ 15)

/-- The encryption key and the tag key of range `r` (R349): the KDF of R159 with the range number, 4 bytes, as its context. -/
def mxeKey (key : BitVec 256) (label r : Nat) : List Byte := kdf (leBytes 32 key.toNat) label (beBytes 4 r)

/-- What the four blocks of a line are enciphered with (R352). -/
def mxePad (key : BitVec 256) (r i : Nat) (major : W64) (minor : BitVec 7) : BitVec 512 :=
  BitVec.ofNat 512 (leNat ((List.range 4).flatMap fun j => fit 16 (Config.aes256 (mxeKey key 0x51564D45 r) (mxeBlock i major minor j))))

/-- The tag of a line's ciphertext (R352). -/
def mxeTag (key : BitVec 256) (r i : Nat) (major : W64) (minor : BitVec 7) (cipher : BitVec 512) : W64 :=
  BitVec.ofNat 64 (leNat (fit 8 (Config.gmac (mxeKey key 0x51564D54 r) (mxeBlock i major minor 3) (leBytes 64 cipher.toNat))))

/-- Lines of the tree nodes above node `k` of a level of `n` nodes that starts at line `start`, below the root level (R350, R351). -/
def nodeLines : Nat → Nat → Nat → Nat → List Nat
  | 0, _, _, _ => []
  | fuel + 1, start, n, k => if n ≤ 64 then [] else (start + k) :: nodeLines fuel (start + n) (ceilDiv n 8) (k / 8)

/-- Metadata lines of data line `i` of a protected region, as global line numbers: tag, counter block, tree path (R350, R353). -/
def metaLines (g : Region) (i : Nat) : List Nat :=
  let d := mxeData g.size
  let first := (g.base + d + d / 8) / 64
  let pages := d / 4096
  [(g.base + d + 8 * i) / 64, first + i / 64] ++ nodeLines 16 (first + pages) (ceilDiv pages 8) (i / 64 / 8)

/-- A metadata fetch wakes ports in self-refresh as any access does (R343). -/
def State.metaWake (s : State) (g : Region) (i : Nat) : State :=
  (metaLines g i).foldl (fun (t : State) (l : Nat) => t.portWake (regionMap g (64 * l)).1) s

/-- The major counter that applies to line `i` of range `r` (R354). -/
def State.mxeMajor (s : State) (r : Nat) (i : Nat) : W64 :=
  match s.mxe.reenc.find? fun e => e.range.val = r && e.page = i / 64 && !inMask e.done.toNat (i % 64) with
  | some e => e.old
  | none => tget (s.range r).major 0#64 (i / 64)

/-- The plaintext of line `i` of range `r`: a line never written reads as zero (R326, R352). -/
def State.mxePlain (s : State) (r i : Nat) : BitVec 512 :=
  let g := s.range r
  match tget g.line none i with
  | none => 0#512
  | some c => c.cipher ^^^ mxePad g.key r i (s.mxeMajor r i) (tget g.minor 0#7 i)

/-- Does the stored tag of line `i` verify (R352)? -/
def State.mxeTagOk (s : State) (r i : Nat) : Bool :=
  let g := s.range r
  match tget g.line none i with
  | none => true
  | some c => c.tag = mxeTag g.key r i (s.mxeMajor r i) (tget g.minor 0#7 i) c.cipher

/-- Line `i` of range `r` enciphered under the given counters and stored with its tag. -/
def State.mxeStore (s : State) (r i : Nat) (plain : BitVec 512) (major : W64) (minor : BitVec 7) : State :=
  s.modRange r fun g =>
    let c := plain ^^^ mxePad g.key r i major minor
    { g with minor := tput g.minor 0#7 i minor
             line := tput g.line none i (some { cipher := c, tag := mxeTag g.key r i major minor c }) }

/-- Line `i` has not moved to the new major counter of a pending re-encryption: its minor counter there is 0 (R354). -/
def State.mxeOpen (s : State) (r i : Nat) : Bool :=
  s.mxe.reenc.any fun e => decide (e.range.val = r) && decide (e.page = i / 64) && !inMask e.done.toNat (i % 64)

/-- Lines of a page that have moved to its present major counter are done in every pending re-encryption of it (R354). -/
def State.mxeDone (s : State) (r page : Nat) (lines : BitVec 64) : State :=
  { s with mxe.reenc := s.mxe.reenc.map fun (e : Reenc) =>
      if e.range.val = r ∧ e.page = page then { e with done := e.done ||| lines } else e }

/-- A write that moves a minor counter past 127 has to wait while 16 re-encryptions are pending (R354). -/
def State.mxeMustWait (s : State) (r i : Nat) : Bool :=
  !s.mxeOpen r i && tget (s.range r).minor 0#7 i = 127#7 && decide (16 ≤ s.mxe.reenc.length)

/-- A whole line written to a protected region (R353, R354). A line that a pending re-encryption has not reached takes
the new major counter, under which every minor counter is 0; where the minor counter is at 127 the page's major counter
advances and a re-encryption starts, in which this line is done. -/
def State.mxeWriteLine (s : State) (r i : Nat) (plain : BitVec 512) : State :=
  let g := s.range r
  let m := tget g.minor 0#7 i
  let old := tget g.major 0#64 (i / 64)
  if s.mxeOpen r i then
    (s.mxeDone r (i / 64) (BitVec.ofNat 64 (2 ^ (i % 64)))).mxeStore r i plain old 1#7
  else if m = 127#7 then
    let s := s.setRange r { g with major := tput g.major 0#64 (i / 64) (old + 1), reenc := satInc g.reenc }
    let s := { s with mxe.reenc := s.mxe.reenc ++
      [({ range := Fin.ofNat 8 r, page := i / 64, old := old, done := BitVec.ofNat 64 (2 ^ (i % 64)) } : Reenc)] }
    s.mxeStore r i plain (old + 1) 0#7
  else s.mxeStore r i plain old (m + 1)

/-- One access to a page's metadata in the counter cache (R355): a hit or a miss, with the line marked dirty by a
write. -/
def State.mxeTouch (s : State) (r page : Nat) (dirty : Bool) : State :=
  let ix := (r * 1024 + page) % 8192
  match tget s.mxe.cache none ix with
  | some (r', p', d) =>
    if r'.val = r ∧ p' = page then
      { s with mxe.hit := satInc s.mxe.hit, mxe.cache := tput s.mxe.cache none ix (some (r', p', d || dirty)) }
    else { s with mxe.miss := satInc s.mxe.miss, mxe.cache := tput s.mxe.cache none ix (some (Fin.ofNat 8 r, page, dirty)) }
  | none => { s with mxe.miss := satInc s.mxe.miss, mxe.cache := tput s.mxe.cache none ix (some (Fin.ofNat 8 r, page, dirty)) }

/-- A verification failure of range `r` (R356): `src` is FSRC 384 + r for a tag, 392 + r for a counter block or tree
node. -/
def State.mxeAlarm (s : State) (r a : Nat) (tree : Bool) : State :=
  let s := s.modRange r fun g => { g with fail := satInc g.fail }
  let n := satInc (s.mxe.alarm.extractLsb' 0 16)
  let s := { s with
    mxe.alarm := packW [(0, n.toNat), (16, r), (19, b2n tree)]
    mxe.last := BitVec.ofNat 64 (a / 64 * 64) }
  s.raise ((if tree then 392 else 384) + r) [(s.range r).owner, 0]

/-- 64 bytes of a line and back. -/
def lineBytes (v : BitVec 512) : List Byte := leBytes 64 v.toNat
def lineOf (bs : List Byte) : BitVec 512 := BitVec.ofNat 512 (leNat bs)

/-! ### One access to DRAM -/

/-- The check of a DRAM access before any line is touched: a cleared region that holds all of it (R39, R325, R326),
its owner (R24), the data area of a protected one (R350), the gate (R430), the states of the ports of its lines and of their
metadata (R356), the range's state (R349, R355). -/
def State.dramCheck (s : State) (who : Initiator) (o : Owner) (a n : Nat) : Except NocStatus Nat :=
  match s.regionAt a with
  | none => .error .unmapped
  | some r =>
    let g := s.region r
    if g.clearing ∨ g.base + g.size < a + n then .error .unmapped
    else if ¬ (who = .belfry ∨ g.owner = o) then .error .notOwner
    else if g.enc.isSome ∧ g.base + mxeData g.size < a + n then .error .unmapped
    else match g.enc with
      | none => match s.portsRefuse g (spanOf 64 a n) with
        | some st => .error st
        | none => .ok r
      | some q =>
        if (s.range q).failed ∨ ¬ (s.range q).keyed then .error .integrity
        else match s.portsRefuse g (spanOf 64 a n ++ (spanOf 64 (a - g.base) n).flatMap (metaLines g)) with
          | some st => .error st
          | none => .ok r

/-- The fault notes of a refused access (R24, R39). -/
def State.dramNote (s : State) (who : Initiator) (o : Owner) : NocStatus → State
  | .unmapped => s.raiseBy 199 who o
  | .notOwner => s.raiseBy 198 who o
  | _ => s

/-- One line of a read from region `g` (R330, R340, R356): a line of the poison table gives POISONED, a line beyond the
code freezes its port. -/
def State.dramReadLine (s : State) (who : Initiator) (o : Owner) (g : Region) (l : Nat) : NocStatus × List Byte × State :=
  let m := regionMap g (64 * l)
  if s.portGated g m.1 then (.ok, leBytes 64 0, s)
  else
  let s := s.portWake m.1
  let p := s.dport m.1
  if p.bad.contains (m.2 / 64) && !p.poison.contains (m.2 / 64) then
    let s := s.setDport m.1 { p with ue := satInc p.ue }
    let s := s.raiseC (256 + 16 * m.1 + 2) 3 [o] (initBlock who) 0#32
    (.frozen, leBytes 64 0, s.dportFreeze m.1 1 m.2 (64 * l) 0#128)
  else if p.poison.contains (m.2 / 64) then
    let d := match g.enc with
      | none => rdBytes s.dram.mem (64 * l) 64
      | some r => lineBytes (s.mxePlain r (l - g.base / 64))
    (.poisoned, d, s.raiseC (256 + 16 * m.1 + 11) 3 [o] (initBlock who) 0#32)
  else match g.enc with
    | none => (.ok, rdBytes s.dram.mem (64 * l) 64, s)
    | some r =>
      let i := l - g.base / 64
      let s := (s.metaWake g i).mxeTouch r (i / 64) false
      if s.mxeTagOk r i then (.ok, lineBytes (s.mxePlain r i), s)
      else (.integrity, leBytes 64 0, s.mxeAlarm r (64 * l) false)

/-- The lines of a read; the first status that is not OK is the response's. -/
def State.dramReadLines (s : State) (who : Initiator) (o : Owner) (g : Region) :
    List Nat → NocStatus × List Byte × State
  | [] => (.ok, [], s)
  | l :: ls =>
    let r := s.dramReadLine who o g l
    let t := r.2.2.dramReadLines who o g ls
    (if r.1 = .ok then t.1 else r.1, r.2.1 ++ t.2.1, t.2.2)

/-- One line of a write (R330, R353, R356): bytes `bs` at byte `lo` of line `l`. -/
def State.dramWriteLine (s : State) (who : Initiator) (o : Owner) (g : Region) (l lo : Nat) (bs : List Byte) :
    NocStatus × State :=
  let m := regionMap g (64 * l)
  if s.portGated g m.1 then (.ok, s)
  else
  let s := s.portWake m.1
  let p := s.dport m.1
  let whole := lo = 0 ∧ bs.length = 64
  let ln := m.2 / 64
  if ¬ whole ∧ p.bad.contains ln ∧ ¬ p.poison.contains ln then
    let s := s.setDport m.1 { p with ue := satInc p.ue }
    let s := s.raiseC (256 + 16 * m.1 + 2) 3 [o] (initBlock who) 0#32
    (.frozen, s.dportFreeze m.1 (if g.enc.isSome then 1 else 2) m.2 (64 * l) 0#128)
  else if ¬ whole ∧ p.poison.contains ln then
    let s := s.raiseC (256 + 16 * m.1 + 12) 3 [o] (initBlock who) 0#32
    (.poisonedMerge, match g.enc with
      | none => { s with dram.mem := wrBytes s.dram.mem (64 * l + lo) bs }
      | some _ => s)
  else
    let s := s.setDport m.1 { p with bad := p.bad.filter (· ≠ ln), poison := p.poison.filter (· ≠ ln) }
    match g.enc with
    | none => (.ok, { s with dram.mem := wrBytes s.dram.mem (64 * l + lo) bs })
    | some r =>
      let i := l - g.base / 64
      let s := (s.metaWake g i).mxeTouch r (i / 64) true
      let s := if s.mxeTagOk r i then s else s.mxeAlarm r (64 * l) false
      if ¬ whole ∧ ¬ s.mxeTagOk r i then (.integrity, s)
      else
        let old := if whole then [] else lineBytes (s.mxePlain r i)
        (.ok, s.mxeWriteLine r i (lineOf (old.take lo ++ bs ++ old.drop (lo + bs.length))))

/-- The lines of a write in address order. -/
def State.dramWriteLines (s : State) (who : Initiator) (o : Owner) (g : Region) (a : Nat) :
    List Nat → List Byte → NocStatus × State
  | [], _ => (.ok, s)
  | l :: ls, bs =>
    let lo := a - 64 * l
    let k := min bs.length (64 - lo)
    let r := s.dramWriteLine who o g l lo (bs.take k)
    let t := r.2.dramWriteLines who o g (64 * l + 64) ls (bs.drop k)
    (if r.1 = .ok then t.1 else r.1, t.2)

/-- A read of `n` bytes at global DRAM address `a`. -/
def State.dramRead (s : State) (who : Initiator) (o : Owner) (a n : Nat) : NocStatus × List Byte × State :=
  match s.dramCheck who o a n with
  | .error st => (st, [], s.dramNote who o st)
  | .ok r =>
    let t := s.dramReadLines who o (s.region r) (spanOf 64 a n)
    (t.1, (t.2.1.drop (a % 64)).take n, t.2.2)

/-- A write of bytes at global DRAM address `a`. -/
def State.dramWrite (s : State) (who : Initiator) (o : Owner) (a : Nat) (bs : List Byte) : NocStatus × State :=
  match s.dramCheck who o a bs.length with
  | .error st => (st, s.dramNote who o st)
  | .ok r =>
    s.dramWriteLines who o (s.region r) a (spanOf 64 a bs.length) bs

/-- Accesses to memory that holds data of owners: the vault and the DRAM regions. -/
def State.memRead (s : State) (who : Initiator) (o : Owner) (a n : Nat) : NocStatus × List Byte × State :=
  if inVault a n then s.vaultRead who o (a - vaultBase) n
  else if a < vaultBase then s.dramRead who o a n
  else (.unmapped, [], s.raiseBy 199 who o)

def State.memWrite (s : State) (who : Initiator) (o : Owner) (a : Nat) (bs : List Byte) : NocStatus × State :=
  if inVault a bs.length then s.vaultWrite who o (a - vaultBase) bs
  else if a < vaultBase then s.dramWrite who o a bs
  else (.unmapped, s.raiseBy 199 who o)

end Sys2Proof.Machine
end

