-- ==== Sys2Proof/Machine/Queue.lean ====
section
/-!
DEFINITION. Machine/Queue.lean: the queues' shared operations: pushing and popping an entry (R246 to R254), the records
that hardware writes to queues (R255, R256, R268, R296, R409, R451), axis positions as the dispatcher reads them.
-/
namespace Sys2Proof.Machine

/-- Bytes of an entry (R247). -/
def Queue.bytes (q : Queue) : Nat := 16 * 2 ^ q.esize

/-- Entries held (R247). -/
def Queue.count (q : Queue) : Nat := (q.pidx + 2 ^ (q.sizeExp + 1) - q.cidx) % 2 ^ (q.sizeExp + 1)

/-- Entries that fit. -/
def Queue.size (q : Queue) : Nat := 2 ^ q.sizeExp

/-- Is the queue full (R247)? -/
def Queue.full (q : Queue) : Bool := q.count = q.size

/-- The storage address of index `i` (R247). -/
def Queue.entry (q : Queue) (i : Nat) : Nat := q.base + i % 2 ^ q.sizeExp * q.bytes

/-- An index advanced by `n`, modulo 2^(SIZE_EXP + 1). -/
def Queue.adv (q : Queue) (i n : Nat) : Nat := (i + n) % 2 ^ (q.sizeExp + 1)

/-- The outcome of a push: accepted, no room, or refused with a status. -/
inductive PushRes where
  | ok
  | full
  | err (st : NocStatus)
  deriving DecidableEq, Repr

/-- An entry padded with zeros, or cut, to the queue's entry size. -/
def Queue.pad (q : Queue) (bs : List Byte) : List Byte := (bs ++ List.replicate q.bytes 0#8).take q.bytes

/-- A task token as accepted (R254): with NOW set RELEASE becomes the axis position. -/
def State.acceptToken (s : State) (q : Queue) (bs : List Byte) : List Byte :=
  let w := leNat ((bs.drop 14).take 2)
  if bitOf w 14 then
    let ax := (s.grp (s.ctx q.context).group).ax
    leBytes 8 (s.axis ax).pos.toNat ++ (bs.drop 8).take 6 ++ leBytes 2 (setBits w 14 1 0)
  else bs

/-- The count of a watched queue's high-water mark, at every place that names the queue (R269). -/
def State.obsHigh (s : State) (q n : Nat) : State :=
  if s.tdu.obs.mode = 2 then
    { s with tdu.obs.high := s.tdu.obs.queues.zipIdx.foldl (fun (t : Tab Nat) (e : Nat × Nat) =>
        if e.1 = q then tput t 0 e.2 (max n (tget t 0 e.2)) else t) s.tdu.obs.high }
  else s

/-- The QCU accepts one entry into a queue that has room (R248, R254): the storage is written on behalf of the queue's
owner, then PIDX advances. A token of another context is discarded with FSRC 688. -/
def State.qAccept (s : State) (n : Nat) (bs : List Byte) : PushRes × State :=
  let q := s.queue n
  if q.kind = .task ∧ bitsOf (leNat ((bs.drop 14).take 2)) 0 14 ≠ q.context then (.ok, s.raise 688 [q.owner])
  else
    let e := if q.kind = .task then s.acceptToken q (q.pad bs) else q.pad bs
    let r := s.memWrite (.unit q.owner) q.owner (q.entry q.pidx) e
    if r.1 = .ok then
      let q' := { q with pidx := q.adv q.pidx 1 }
      let s := r.2.setQueue n q'
      let s := if q.count = 0 ∧ q.notifyEn then s.msix 0 q.vector.toNat else s
      let s := if q'.full ∧ q.note then s.raise 658 [q.owner] else s
      (.ok, s.obsHigh n q'.count)
    else (.err r.1, r.2)

/-- A push by hardware (R246): to an enabled queue, accepted when it has room and no earlier push
is held for it. -/
def State.qPush (s : State) (n : Nat) (bs : List Byte) : PushRes × State :=
  let q := s.queue n
  if q.kind = .free ∨ ¬ q.en then (.err .notOwner, s)
  else if q.full || s.qcu.held.any (fun h => h.q == n) then (.full, s)
  else s.qAccept n bs

/-- May software of owner `o` push `len` bytes to queue `n` (R246, R249)? -/
def State.qSoftPush (s : State) (o : Owner) (n len : Nat) : Bool :=
  let q := s.queue n
  n < 262144 && q.en && (q.kind = .message || q.kind = .task) && q.owner = o && len = q.bytes

/-- May software of owner `o` pop queue `n` (R246)? -/
def State.qSoftPop (s : State) (o : Owner) (n : Nat) : Bool :=
  let q := s.queue n
  n < 262144 && q.en && (q.kind = .message || q.kind = .event) && q.owner = o

/-- The head entry of a queue, read on behalf of its owner (R248). -/
def State.qHead (s : State) (n : Nat) : NocStatus × List Byte × State :=
  let q := s.queue n
  if q.count = 0 then (.empty, [], s)
  else s.memRead (.unit q.owner) q.owner (q.entry q.cidx) q.bytes

/-- A pop (R248, R250): the head entry, removed once its storage has answered. -/
def State.qPop (s : State) (n : Nat) : NocStatus × List Byte × State :=
  let r := s.qHead n
  if r.1 = .ok then
    (.ok, r.2.1, r.2.2.modQueue n fun q => { q with cidx := q.adv q.cidx 1 })
  else (r.1, [], r.2.2)

/-- A push held at its source (R251). -/
def State.hold (s : State) (who : Holder) (n : Nat) (bs : List Byte) : State :=
  { s with qcu.held := s.qcu.held ++ [{ who := who, q := n, owner := (s.queue n).owner, data := bs, since := s.now }] }

/-- A dropped doorbell access (R249, R250): the note of FSRC 656 and the owner's count. -/
def State.doorbellDrop (s : State) (who : Initiator) : State :=
  let o := s.ownerOf who
  (s.modWin o.val fun w => { w with dbdrop := satInc w.dbdrop }).raiseBy 656 who o

/-! ### The host's order (R252) -/

/-- Does a held host push stop every later access of the link (R252)? -/
def State.hostHeld (s : State) : Bool :=
  s.qcu.held.any fun h => match h.who with | .initiator (.pf _) => true | _ => false

/-- A host access that waits behind a held push (R252). -/
def State.postpone (s : State) (w : Posted) : State := { s with pce.posted := s.pce.posted ++ [w] }

/-- The first address of control space (R41). -/
def ctlBase : Nat := 0x040000000000

/-- An access of `who` to address `a`: the host's waits while a push of the host is held (R252), any other runs at once. `read`
is the length of a read, `data` what a write carries. -/
def State.inHostOrder (s : State) (who : Initiator) (a : Nat) (read : Option Nat) (data : List Byte) (run : State → State) :
    State :=
  match who with
  | .pf fn => if s.hostHeld then s.postpone { fn := fn, dst := .at a, read := read, data := data } else run s
  | _ => run s

/-! ### Records -/

/-- A completion token (R256). -/
def completionBytes (deadline : W64) (ctx status kind : Nat) (late : Bool) (eng : Option Nat) (seq : BitVec 16) :
    List Byte :=
  leBytes 8 deadline.toNat ++ leBytes 2 ctx ++ leBytes 1 status ++ leBytes 1 (kind + 8 * b2n late) ++
    leBytes 1 (match eng with | some g => g | none => 128) ++ leBytes 1 0 ++ leBytes 2 seq.toNat

/-- Has the group's scheduling axis reached a deadline (R43, R264)? -/
def State.reached (s : State) (group : Nat) (p : W64) : Bool := !posAhead p (s.axis (s.grp group).ax).pos

/-- The bytes of the completion of a token. -/
def State.completion (s : State) (t : Token) (status kind : Nat) (late : Bool) (eng : Option Nat) : List Byte :=
  completionBytes t.deadline t.ctx status kind late eng (s.ctx t.ctx).seq

/-- A completion that hardware makes for a token (R256): pushed to the context's completion queue, and held where that
is full. -/
def State.completeHw (s : State) (t : Token) (kind : Nat) (late : Bool) (eng : Option Nat) (who : Holder) : State :=
  let bs := s.completion t 0 kind late eng
  let c := s.ctx t.ctx
  let s := s.modCtx t.ctx fun c => { c with seq := c.seq + 1 }
  match c.compq with
  | none => s
  | some q =>
    match s.qPush q bs with
    | (.full, s') => s'.hold who q bs
    | (_, s') => s'

/-- A trace record (R268). -/
def traceBytes (pos dl : W64) (ctx : Nat) (eng : Option Nat) (type group : Nat) (lost : Bool) (seq : BitVec 16) :
    List Byte :=
  leBytes 8 pos.toNat ++ leBytes 8 dl.toNat ++ leBytes 8 (dl - pos).toNat ++ leBytes 2 ctx ++
    leBytes 1 (match eng with | some g => g | none => 128) ++ leBytes 1 type ++ leBytes 1 group ++
    leBytes 1 (b2n lost) ++ leBytes 2 seq.toNat

/-- An observed dispatch event writes its trace record to the holder's EVENT queue (R268): dropped and counted where the queue
is full or is the holder's no longer. -/
def State.trace (s : State) (group : Nat) (t : Token) (eng : Option Nat) (type : Nat) : State :=
  let o := s.tdu.obs
  if o.mode = 1 ∧ inMask o.groups.toNat group then
    let pos := (s.axis (s.grp group).ax).pos
    if (s.queue o.queue).kind ≠ .event ∨ (s.queue o.queue).owner ≠ o.owner then
      { s with tdu.obs.gap := true, tdu.obs.lost := satInc o.lost }
    else match s.qPush o.queue (traceBytes pos t.deadline t.ctx eng type group o.gap o.seq) with
    | (.ok, s') => { s' with tdu.obs.gap := false, tdu.obs.seq := o.seq + 1 }
    | (_, s') => { s' with tdu.obs.gap := true, tdu.obs.lost := satInc o.lost }
  else s

/-- A record to a MESSAGE queue of owner `o`; false where it is dropped: no such queue of the owner, or no room. -/
def State.pushMessage (s : State) (o : Owner) (n : Nat) (bs : List Byte) : Bool × State :=
  let q := s.queue n
  if q.kind = .message ∧ q.owner = o then
    match s.qPush n bs with
    | (.ok, s') => (true, s')
    | (_, s') => (false, s')
  else (false, s)

/-! ### Contract records (R296) -/

/-- EVENT codes of R296 for the state a contract enters. -/
def conEvent : ConState → Nat
  | .suspended => 1
  | .admitted => 2
  | .demoted => 3
  | .revoked => 4

/-- A contract state change writes a record to its NOTIFY queue; a record that is dropped raises FSRC 201 (R296). -/
def State.conNotify (s : State) (c : Nat) (k : Contract) (cause router : Nat) : State :=
  match k.notify with
  | none => s
  | some q =>
    let bs := leBytes 2 c ++ leBytes 1 (conEvent k.st) ++ leBytes 1 cause ++ leBytes 2 router ++ leBytes 2 0 ++
      leBytes 8 s.localPos.toNat
    let r := s.pushMessage k.owner q bs
    if r.1 then r.2 else r.2.raise 201 [k.owner]

/-- Contract `c` enters a state, with its cause and the instant of revalidation where that is fixed. -/
def State.conSet (s : State) (c : Nat) (k : Contract) (st : ConState) (cause router : Nat) (reval : Option Nat) : State :=
  let k' := { k with st := st, cause := cause, revalAt := reval }
  (s.setCon c (some k')).conNotify c k' cause router

/-- All contracts, by number. -/
def State.contracts (s : State) : List (Nat × Contract) :=
  s.noc.contract.filterMap fun e => match e.2 with | some k => some (e.1, k) | none => none

/-- Every admitted contract that `p` names becomes SUSPENDED (R296); one already suspended keeps the later cause and
loses a revalidation already timed. -/
def State.suspendWhere (s : State) (p : Nat → Contract → Bool) (cause router : Nat) (reval : Option Nat) : State :=
  s.contracts.foldl (fun s e =>
    if p e.1 e.2 then
      if e.2.st = .admitted then s.conSet e.1 e.2 .suspended cause router reval
      else if e.2.st = .suspended then s.setCon e.1 (some { e.2 with cause := cause, revalAt := reval })
      else s
    else s) s

/-- Suspended contracts that `p` names are to be revalidated at an instant (R288). -/
def State.revalWhere (s : State) (p : Nat → Contract → Bool) (t : Nat) : State :=
  s.contracts.foldl (fun s e =>
    if p e.1 e.2 ∧ e.2.st = .suspended then s.setCon e.1 (some { e.2 with revalAt := some t }) else s) s

/-- Does a flow start or end at a block (R288)? A DRAM region's flows end at each of its ports, a ring peer's at either
ring port. -/
def State.flowAt (s : State) (f : Flow) (b : Block) : Bool :=
  (match f.src with
    | some n => blockRouter b == n
    | none => (match b with | .kit k => inMask f.kits.toNat k.val | _ => false)) ||
  (match f.dst with
    | .ni n => blockRouter b == n
    | .region r => (match b with | .dport k => inMask (s.region r).ports.toNat k.val | _ => false)
    | .peer _ => (match b with | .ring _ => true | _ => false))

/-- Does a contract have a flow at a block? -/
def State.conAt (s : State) (k : Contract) (b : Block) : Bool := k.flows.any fun f => s.flowAt f b

/-- Contracts follow a port that has frozen (R340), and are revalidated where a request woke it (R343). -/
def State.settle (s : State) : State :=
  let at_ (k : Nat) : Nat → Contract → Bool := fun _ c => s.conAt c (.dport (Fin.ofNat 8 k))
  let s := s.dram.froze.foldl (fun (t : State) (k : Nat) => t.suspendWhere (at_ k) 3 (dportRouter k) none)
    { s with dram.froze := [] }
  s.dram.woke.foldl (fun (t : State) (k : Nat) => t.revalWhere (at_ k) t.now) { s with dram.woke := [] }

end Sys2Proof.Machine
end

