-- ==== Sys2Proof/Machine/Operands.lean ====
section
/-!
DEFINITION. Machine/Operands.lean: the operands of a mailbox command, read from its copied command buffer at the
offsets its chapter gives (R400), and its answer: STATUS, DETAIL and payload written to the response buffer, with
notification (R403, R409). One shared operation, `serve`, runs every mailbox command.
-/
namespace Sys2Proof.Machine

/-- The outcome of one step. -/
abbrev Out := Host.Outcome State Fault Refusal

/-- STATUS codes of R411. -/
inductive Code where
  | ok
  | busy
  | refusedResources
  | refusedBound
  | absentUnit
  | notOwner
  | wrongState
  | authFailed
  | ovlBadFrame
  | ovlBadImage
  | axisDiscontinuous
  | longRunning
  deriving DecidableEq, Repr

def Code.num : Code → Nat
  | .ok => 0
  | .busy => 1
  | .refusedResources => 2
  | .refusedBound => 3
  | .absentUnit => 4
  | .notOwner => 5
  | .wrongState => 6
  | .authFailed => 7
  | .ovlBadFrame => 8
  | .ovlBadImage => 9
  | .axisDiscontinuous => 10
  | .longRunning => 11

/-! ### Operand fields -/

/-- A command field of `n` bytes at an offset of the command buffer (R400). -/
def Running.fld (r : Running) (off n : Nat) : Nat := rdLE r.buf off n
def Running.u8 (r : Running) (off : Nat) : Nat := rdLE r.buf off 1
def Running.u16 (r : Running) (off : Nat) : Nat := rdLE r.buf off 2
def Running.u32 (r : Running) (off : Nat) : Nat := rdLE r.buf off 4
def Running.u64 (r : Running) (off : Nat) : Nat := rdLE r.buf off 8
def Running.bytes (r : Running) (off n : Nat) : List Byte := rdBytes r.buf off n
def Running.bit (r : Running) (off i : Nat) : Bool := bitOf (rdLE r.buf off 4) i

/-- A response payload of fields given as (offset from the start of the response, bytes, value). -/
def pay (len : Nat) (fs : List (Nat × Nat × Nat)) : List Byte :=
  rdBytes (fs.foldl (fun (m : Mem) f => wrBytes m f.1 (leBytes f.2.1 f.2.2)) []) 16 (len - 16)

/-! ### Answers -/

/-- What a command's meaning gives: its final STATUS, DETAIL and payload, or the acceptance of a long command. -/
inductive Ans where
  | reply (c : Code) (detail : Nat) (payload : List Byte) (s : State)
  | accepted (s : State)

def Ans.state : Ans → State
  | .reply _ _ _ s => s
  | .accepted s => s

/-- A final response with a payload. -/
def ok (s : State) (payload : List Byte := []) : Ans := .reply .ok 0 payload s

/-- A final response of another status, with no effect; its payload fields read zero (R400). -/
def no (c : Code) (s : State) : Ans := .reply c 0 [] s

/-- The 16-byte response header of R400, then the payload. -/
def responseBytes (c : Code) (detail : Nat) (interim : Bool) (tag : W32) (payload : List Byte) : List Byte :=
  leBytes 2 c.num ++ leBytes 2 (b2n interim + 256 * detail) ++ leBytes 4 (16 + payload.length) ++
    leBytes 4 tag.toNat ++ leBytes 4 0 ++ payload

/-- The function whose vectors mailbox `m` sends, where VEN has an effect (R409). -/
def State.boxFn (s : State) (m : Mb) : Option (Fin 2) :=
  if m.val = 10 then some 1 else if (s.box m).owner = s.pfOwner 0 then some 0 else none

/-- The MSI-X vector of a notification (R409), with VEN set; PF1 has 32, and a number beyond them sends none (DESIGN CHOICE,
log 129). -/
def State.notifyVector (s : State) (m : Mb) : State :=
  let n := (s.box m).notify.toNat
  if bitOf n 30 then (match s.boxFn m with
    | some fn => if fn = 1 ∧ 32 ≤ bitsOf n 19 11 then s else s.msix fn (bitsOf n 19 11)
    | none => s) else s

/-- The queue record of a notification (R409), with QEN set: one that is dropped sets NLOST and raises FSRC 41. -/
def State.notifyRecord (s : State) (m : Mb) (c : Code) (interim : Bool) (r : Running) : State :=
  let b := s.box m
  let n := b.notify.toNat
  if bitOf n 18 then
    let rec_ := leBytes 2 c.num ++ leBytes 1 m.val ++ leBytes 1 (b2n interim) ++ leBytes 4 r.tag.toNat ++
      leBytes 2 r.cseq.toNat ++ leBytes 6 0
    let p := s.pushMessage b.owner (bitsOf n 0 18) rec_
    if p.1 then p.2 else (p.2.modBox m fun b => { b with nlost := true }).raise 41 [b.owner]
  else s

/-- The notification of R409. -/
def State.notifyBox (s : State) (m : Mb) (c : Code) (interim : Bool) (r : Running) : State :=
  if r.notifyOff then s else (s.notifyVector m).notifyRecord m c interim r

/-- The final response of the command that mailbox `m` runs (R403), discarded where the token was redrawn (R407). -/
def State.respond (s : State) (m : Mb) (r : Running) (c : Code) (detail : Nat) (payload : List Byte) : State :=
  if r.discard then s.modBox m fun b => { b with run := none }
  else
    let s := s.modBox m fun b =>
      { b with
        resp := wrBytes b.resp 0 (responseBytes c detail false r.tag payload)
        rseq := b.rseq + 1
        st := .complete
        interim := false
        run := none }
    s.notifyBox m c false r

/-- A payload of at least the layout's length (R400): padded with zeros. -/
def padTo (n : Nat) (bs : List Byte) : List Byte := bs ++ List.replicate (n - bs.length) 0#8

/-- The mailbox whose command is executed next (R410): the first in order of doorbells that no earlier long
command keeps busy (R405). None while the management cores recover (R452). -/
def State.turn (s : State) : Option Mb :=
  if s.flt.lockstep then none else s.mbx.order.find? fun m => match (s.box m).run with | some r => !r.long | none => true

/-- The command of mailbox `m` that is being executed: copied, with opcode `op`, of the form that `sel` picks, and its
turn come (R401, R410). -/
def State.serving (s : State) (m : Mb) (op : Nat) (sel : Running → Bool) : Option Running :=
  match (s.box m).run with
  | some r => if r.op = op ∧ sel r ∧ s.turn = some m then some r else none
  | none => none

/-- Take mailbox `m` out of the order of execution. -/
def State.took (s : State) (m : Mb) : State := { s with mbx.order := s.mbx.order.erase m }

/-- Run the command that mailbox `m` is executing: the meaning `f` gives an answer, which becomes the response. Without
such a command nothing happens. `len` is the length of the response's layout, or its least where that varies (R400). -/
def State.serve (s : State) (m : Mb) (op : Nat) (sel : Running → Bool) (len : Nat)
    (f : Running → State → Ans) : State :=
  match s.serving m op sel with
  | none => s
  | some r =>
    match f r (s.took m) with
    | .reply c d p s' => s'.respond m r c d (padTo (len - 16) p)
    | .accepted s' => s'.modBox m fun b => { b with run := b.run.map fun r => { r with long := true } }

/-- A long command's work ends (R405): its final response is made by LONG_COMMAND_FINAL_RESPONSE. -/
def State.finish (s : State) (m : Mb) (c : Code) (payload : List Byte := []) (detail : Nat := 0) : State :=
  s.modBox m fun b =>
    match b.run with
    | some r => if r.long ∧ r.final = none then { b with run := some { r with final := some (c.num, detail, payload) } } else b
    | none => b

/-- A long command whose work may end as it is accepted: it counts as long from the start. -/
def State.serveLong (s : State) (m : Mb) (op : Nat) (sel : Running → Bool) (len : Nat)
    (f : Running → State → Ans) : State :=
  s.serve m op sel len fun r t => f r (t.modBox m fun b => { b with run := some { r with long := true } })

/-- The owner that issues the commands of mailbox `m` (R396). -/
def State.issuer (s : State) (m : Mb) : Owner := (s.box m).owner

/-- A command that needs the configuration right (R162). -/
def State.withConfig (s : State) (m : Mb) (f : Ans) : Ans := if s.hasConfig (s.issuer m) then f else no .notOwner s

/-- Every command form. -/
def anyForm : Running → Bool := fun _ => true

end Sys2Proof.Machine
end

