-- ==== Sys2Proof/Machine/Flags.lean ====
section
/-!
DEFINITION. Machine/Flags.lean: the engine's arithmetic: the bits of ST (R207), the accumulator conversion (R208),
products (R234) and every result and flag of the accumulator and D-register operations (R235 to R238).
-/
namespace Sys2Proof.Machine

/-! ### ST (R207) -/

def stBit (sr : W24) (i : Nat) : Bool := sr.getLsbD i

def setStBit (sr : W24) (i : Nat) (b : Bool) : W24 := if b then sr ||| (1#24 <<< i) else sr &&& ~~~(1#24 <<< i)

/-- Flags that an operation names: none for a flag it keeps (R236). -/
structure Fl where
  c : Option Bool := none
  v : Option Bool := none
  z : Option Bool := none
  n : Option Bool := none
  deriving DecidableEq, Repr

/-- ST after an operation: the flags named; V set to 1 also sets L (R236). -/
def applyFl (sr : W24) (f : Fl) : W24 :=
  let put (sr : W24) (i : Nat) (b : Option Bool) : W24 := match b with | some b => setStBit sr i b | none => sr
  let sr := put (put (put (put sr 0 f.c) 1 f.v) 2 f.z) 3 f.n
  if f.v = some true then setStBit sr 4 true else sr

/-- The conversion of an accumulator to 24 bits, and whether it saturated (R208). -/
def convert (a : W56) (sr : W24) : W24 × Bool :=
  let v : BitVec 57 := a.signExtend 57 + (if stBit sr 6 then BitVec.ofNat 57 (2 ^ 23) else 0#57)
  let top := v.extractLsb' 47 10
  if stBit sr 7 ∧ top ≠ 0#10 ∧ top ≠ BitVec.allOnes 10 then (if v.msb then 0x800000#24 else 0x7FFFFF#24, true)
  else (v.extractLsb' 24 24, false)

/-! ### Accumulator operations (R234 to R236) -/

/-- The operations of the ALU field of a parallel instruction (R235). -/
inductive AluOp where
  | nop
  | dmpy
  | dmac
  | dmsa
  | mpy2
  | mac2
  | mas2
  | mpy
  | mac
  | macn
  | add
  | sub
  | cmp
  | copy
  | max
  | clr
  | rnd
  | abs
  | neg
  | asr1
  | asl1
  | asr8
  | asl8
  deriving DecidableEq, Repr

/-- A product (R234). -/
def prod (x y : W24) : W56 := x.signExtend 56 * y.signExtend 56 * 2#56

/-- The operand set that SEL selects: the factors of p0 and of p1 (R234). -/
def mulSet (sel : Nat) : (Fin 8 × Fin 8) × (Fin 8 × Fin 8) :=
  match sel with
  | 0 => ((0, 4), (1, 5))
  | 1 => ((0, 4), (0, 5))
  | 2 => ((1, 5), (1, 4))
  | 3 => ((2, 6), (3, 7))
  | 4 => ((2, 6), (2, 7))
  | 5 => ((3, 7), (3, 6))
  | 6 => ((0, 0), (1, 1))
  | _ => ((2, 2), (3, 3))

def prod0 (d : Vector W24 8) (sel : Nat) : W56 := let p := (mulSet sel).1; prod d[p.1] d[p.2]
def prod1 (d : Vector W24 8) (sel : Nat) : W56 := let p := (mulSet sel).2; prod d[p.1] d[p.2]

/-- The pair of accumulators that ACC selects for OP 1 to 3 (R235). -/
def accPair (acc : Nat) : Fin 4 × Fin 4 :=
  match acc with
  | 0 => (0, 1)
  | 1 => (2, 3)
  | 2 => (0, 2)
  | _ => (1, 3)

/-- The source s of OP 10 to 14 (R235). -/
def aluSrc (d : Vector W24 8) (a : Vector W56 4) (sel : Fin 8) : W56 :=
  if sel.val < 4 then a[sel.val % 4] else d[sel].signExtend 56 <<< 24

/-- An exact signed result narrowed to 56 bits, and whether it overflowed. -/
def narrow (z : Int) : W56 × Bool := (BitVec.ofInt 56 z, decide (z < -(2 ^ 55) ∨ 2 ^ 55 ≤ z))

/-- Z and N of a 56-bit result (R236). -/
def znFl (r : W56) : Fl := { z := some (r = 0#56), n := some r.msb }

/-- What an accumulator operation gives: accumulators written, and flags. -/
structure AluRes where
  w : List (Fin 4 × W56)
  f : Fl

/-- One accumulator written with a narrowed exact result: Z, N and V. -/
def aluOne (i : Fin 4) (z : Int) : AluRes :=
  let r := narrow z
  { w := [(i, r.1)], f := { znFl r.1 with v := some r.2 } }

/-- A pair written: Z and N come from the first, V from either (R236). -/
def aluTwo (i : Fin 4 × Fin 4) (z0 z1 : Int) : AluRes :=
  let r0 := narrow z0
  let r1 := narrow z1
  { w := [(i.1, r0.1), (i.2, r1.1)], f := { znFl r0.1 with v := some (r0.2 || r1.2) } }

/-- A shift by `n` left: V where a bit shifted out differs from the result's bit 55 (R235). -/
def aluShl (i : Fin 4) (x : W56) (n : Nat) : AluRes :=
  let r := x <<< n
  let out := x.extractLsb' (56 - n) n
  let same := if r.msb then out = BitVec.allOnes n else out = 0#n
  { w := [(i, r)], f := { znFl r with v := some !(decide same), c := some (x.getLsbD (56 - n)) } }

/-- An arithmetic shift by `n` right; V is not named for it. -/
def aluShr (i : Fin 4) (x : W56) (n : Nat) : AluRes :=
  let r := x.sshiftRight n
  { w := [(i, r)], f := { znFl r with c := some (x.getLsbD (n - 1)) } }

/-- The accumulator operation of a parallel instruction on D, A and the ST in force for conversions (R234, R235). -/
def aluRun (op : AluOp) (acc : Fin 4) (sel : Fin 8) (d : Vector W24 8) (a : Vector W56 4) (cst : W24) : AluRes :=
  let p0 := (prod0 d sel).toInt
  let p1 := (prod1 d sel).toInt
  let pr := accPair acc
  let x := a[acc]
  let s := aluSrc d a sel
  match op with
  | .nop => { w := [], f := {} }
  | .dmpy => aluTwo pr p0 p1
  | .dmac => aluTwo pr (a[pr.1].toInt + p0) (a[pr.2].toInt + p1)
  | .dmsa => aluTwo pr (a[pr.1].toInt - p0) (a[pr.2].toInt + p1)
  | .mpy2 => aluOne acc (p0 + p1)
  | .mac2 => aluOne acc (x.toInt + p0 + p1)
  | .mas2 => aluOne acc (x.toInt + p0 - p1)
  | .mpy => aluOne acc p0
  | .mac => aluOne acc (x.toInt + p0)
  | .macn => aluOne acc (x.toInt - p0)
  | .add =>
    let r := aluOne acc (x.toInt + s.toInt)
    { r with f := { r.f with c := some (decide (2 ^ 56 ≤ x.toNat + s.toNat)) } }
  | .sub =>
    let r := aluOne acc (x.toInt - s.toInt)
    { r with f := { r.f with c := some (decide (x.toNat < s.toNat)) } }
  | .cmp =>
    let r := aluOne acc (x.toInt - s.toInt)
    { w := [], f := { r.f with c := some (decide (x.toNat < s.toNat)) } }
  | .copy => { w := [(acc, s)], f := { znFl s with v := some false } }
  | .max =>
    let c := decide (x.toInt < s.toInt)
    let r := if c then s else x
    { w := [(acc, r)], f := { znFl r with v := some false, c := some c } }
  | .clr => { w := [(acc, 0#56)], f := { znFl 0#56 with v := some false } }
  | .rnd =>
    let r := (convert x cst).1.signExtend 56 <<< 24
    { w := [(acc, r)], f := { znFl r with v := some false } }
  | .abs => aluOne acc x.toInt.natAbs
  | .neg => aluOne acc (-x.toInt)
  | .asr1 => aluShr acc x 1
  | .asl1 => aluShl acc x 1
  | .asr8 => aluShr acc x 8
  | .asl8 => aluShl acc x 8

/-! ### D-register operations (R238) -/

/-- The operations of the DALU format. -/
inductive DOp where
  | add
  | sub
  | cmp
  | and
  | or
  | xor
  | asl
  | asr
  | lsr
  | min
  | max
  | tst
  deriving DecidableEq, Repr

/-- Z, N and V := 0 of a 24-bit result. -/
def dFl (r : W24) : Fl := { z := some (r = 0#24), n := some r.msb, v := some false }

/-- Signed overflow of an exact 24-bit result. -/
def dOvf (z : Int) : Bool := decide (z < -(2 ^ 23) ∨ 2 ^ 23 ≤ z)

/-- A D-register operation: the value written, if any, and the flags. -/
def daluRun (op : DOp) (x s : W24) : Option W24 × Fl :=
  let k := s.toNat % 32
  match op with
  | .add =>
    let r := x + s
    (some r, { dFl r with v := some (dOvf (x.toInt + s.toInt)), c := some (decide (2 ^ 24 ≤ x.toNat + s.toNat)) })
  | .sub =>
    let r := x - s
    (some r, { dFl r with v := some (dOvf (x.toInt - s.toInt)), c := some (decide (x.toNat < s.toNat)) })
  | .cmp =>
    let r := x - s
    (none, { dFl r with v := some (dOvf (x.toInt - s.toInt)), c := some (decide (x.toNat < s.toNat)) })
  | .and => (some (x &&& s), dFl (x &&& s))
  | .or => (some (x ||| s), dFl (x ||| s))
  | .xor => (some (x ^^^ s), dFl (x ^^^ s))
  | .asl =>
    let r := x <<< k
    (some r, { dFl r with c := if k = 0 then none else some (decide (k ≤ 24) && x.getLsbD (24 - k)) })
  | .asr =>
    let r := x.sshiftRight k
    (some r, { dFl r with c := if k = 0 then none else some (if k ≤ 24 then x.getLsbD (k - 1) else x.msb) })
  | .lsr =>
    let r := x >>> k
    (some r, { dFl r with c := if k = 0 then none else some (decide (k ≤ 24) && x.getLsbD (k - 1)) })
  | .min => let r := if s.toInt < x.toInt then s else x; (some r, dFl r)
  | .max => let r := if x.toInt < s.toInt then s else x; (some r, dFl r)
  | .tst => (none, dFl (x &&& s))

/-! ### Conditions (R239) -/

/-- The condition of Jcc; none for the reserved code. -/
def condHolds (cond : Nat) (sr : W24) : Option Bool :=
  let v := stBit sr 1
  let z := stBit sr 2
  let n := stBit sr 3
  match cond with
  | 0 => some true
  | 1 => some z
  | 2 => some !z
  | 3 => some n
  | 4 => some !n
  | 5 => some v
  | 6 => some !v
  | 7 => some (stBit sr 0)
  | 8 => some !(stBit sr 0)
  | 9 => some (n != v)
  | 10 => some (n == v)
  | 11 => some (!z && n == v)
  | 12 => some (z || n != v)
  | 13 => some (stBit sr 5)
  | 14 => some !(stBit sr 5)
  | _ => none

end Sys2Proof.Machine
end

