-- ==== Sys2Proof/Machine/EngMem.lean ====
section
/-!
DEFINITION. Machine/EngMem.lean: engine and kit memories (R203 to R205), the layout of a kit (R38), external accesses to
them, and the engine and kit registers (R225, R226).
-/
namespace Sys2Proof.Machine

/-- First address and stride of the kits (R37). -/
def kitBase : Nat := 0x010010000000
def kitStride : Nat := 0x200000

/-- The place that an offset in a kit names (R38). -/
inductive KitLoc where
  | cell (m : EngMem) (e : Nat) (w : Nat)
  | engReg (e off : Nat)
  | kitReg (off : Nat)
  | hole
  deriving DecidableEq, Repr

def kitLoc (off : Nat) : KitLoc :=
  let e := off / 0x20000
  let r := off % 0x20000
  if off < 0x100000 then
    if r < 0x8000 then .cell .p e (r / 4)
    else if r < 0x10000 then .cell .x e (r % 0x8000 / 4)
    else if r < 0x18000 then .cell .y e (r % 0x8000 / 4)
    else .engReg e (r - 0x18000)
  else if off < 0x140000 then .cell .kit 0 ((off - 0x100000) / 4)
  else if 0x1F0000 ≤ off then .kitReg (off - 0x1F0000)
  else .hole

/-- Key of a word of P, X or Y in the tables of marks. -/
def memKey (m : EngMem) (w : Nat) : Nat :=
  match m with
  | .p => w
  | .x => 8192 + w
  | .y => 16384 + w
  | .kit => w

/-- MEM of ENG_FREC (R225). -/
def memCode : EngMem → Nat
  | .p => 0
  | .x => 1
  | .y => 2
  | .kit => 3

/-- The check-bit state of a word of engine `g`, or of its kit. -/
def State.cellMark (s : State) (m : EngMem) (g w : Nat) : CellState :=
  match m with
  | .kit => tget (s.kitAt (g / 8)).marks .clean w
  | _ => tget (s.engAt g).marks .clean (memKey m w)

def State.setCellMark (s : State) (m : EngMem) (g w : Nat) (c : CellState) : State :=
  match m with
  | .kit => s.modKitAt (g / 8) fun k => { k with marks := tput k.marks .clean w c }
  | _ => s.modEngAt g fun e => { e with marks := tput e.marks .clean (memKey m w) c }

/-- A word as it fills its 32-bit slot. -/
def State.slot (s : State) (m : EngMem) (g w : Nat) : W32 :=
  match m with
  | .p => tget (s.engAt g).p 0#32 w
  | .x => (tget (s.engAt g).x 0#24 w).setWidth 32
  | .y => (tget (s.engAt g).y 0#24 w).setWidth 32
  | .kit => tget (s.kitAt (g / 8)).mem 0#32 w

def State.setSlot (s : State) (m : EngMem) (g w : Nat) (v : W32) : State :=
  match m with
  | .p => s.modEngAt g fun e => { e with p := tput e.p 0#32 w v }
  | .x => s.modEngAt g fun e => { e with x := tput e.x 0#24 w (v.setWidth 24) }
  | .y => s.modEngAt g fun e => { e with y := tput e.y 0#24 w (v.setWidth 24) }
  | .kit => s.modKitAt (g / 8) fun k => { k with mem := tput k.mem 0#32 w v }

/-- A correctable error counted (R205, R223): CE of the memory, and the C0 cause. -/
def State.countCe (s : State) (m : EngMem) (g : Nat) : State :=
  match m with
  | .kit => (s.modKitAt (g / 8) fun k => { k with ce := satInc k.ce }).raiseC (640 + g / 8) 0 [] (srcBlock (640 + g / 8)) 0#32
  | _ =>
    (s.modEngAt g fun e =>
      let i := 8 * memCode m
      let v : Byte := BitVec.ofNat 8 (bitsOf e.ecc.toNat i 8)
      { e with ecc := BitVec.ofNat 24 (setBits e.ecc.toNat i 8 (satInc v).toNat) }).raiseC (512 + g) 0 []
        (srcBlock (512 + g)) 0#32

/-- A correctable word put right: written back, counted, and noted for the remap of R224. -/
def State.putRight (s : State) (m : EngMem) (g w : Nat) : State :=
  let s := (s.setCellMark m g w .clean).countCe m g
  match m with
  | .kit => s.modKitAt (g / 8) fun k => { k with fixed := k.fixed ++ [w] }
  | _ => s.modEngAt g fun e => { e with fixed := e.fixed ++ [memKey m w] }

/-- An external read of one slot (R205). -/
def State.extRead (s : State) (m : EngMem) (g w : Nat) : NocStatus × W32 × State :=
  match s.cellMark m g w with
  | .clean => (.ok, s.slot m g w, s)
  | .correctable => (.ok, s.slot m g w, s.putRight m g w)
  | .poisoned => (.poisoned, s.slot m g w, s)

/-- A word of P that is written while its engine is not stopped: fetches that begin in the 16 cycles after it are unpredictable
(R204, R228). -/
def State.noteP (s : State) (m : EngMem) (g w : Nat) : State :=
  if m = .p ∧ (s.engAt g).st ≠ .stopped ∧ (s.engAt g).st ≠ .off then
    s.modEngAt g fun e => { e with
      pNew := (e.pNew.filter fun (x : BitVec 13 × Nat) => x.1 ≠ BitVec.ofNat 13 w ∧ s.now * 5 / 4 < x.2 + 16) ++
        [(BitVec.ofNat 13 w, s.now * 5 / 4)] }
  else s

/-- An external write of bytes `bs` at byte `lo` of one slot (R205): only a write of the full slot clears poison. -/
def State.extWrite (s : State) (m : EngMem) (g w lo : Nat) (bs : List Byte) : NocStatus × State :=
  let s := s.noteP m g w
  if lo = 0 ∧ bs.length = 4 then (.ok, (s.setSlot m g w (BitVec.ofNat 32 (leNat bs))).setCellMark m g w .clean)
  else
    let s := if s.cellMark m g w = .correctable then s.putRight m g w else s
    let old := leBytes 4 (s.slot m g w).toNat
    let new := old.take lo ++ bs ++ old.drop (lo + bs.length)
    let s' := s.setSlot m g w (BitVec.ofNat 32 (leNat new))
    (if s.cellMark m g w = .poisoned then .poisonedMerge else .ok, s')

/-! ### Registers -/

/-- STATE of ENG_STAT (R225). -/
def State.engCode (s : State) (g : Nat) : Nat :=
  let e := s.engAt g
  if !bitOf s.ckr.pwrUnit.toNat (g / 8) then 0
  else if e.halted then 5
  else if e.fenced then 6
  else match e.st with
    | .off => 0
    | .stopped => 1
    | .running => 2
    | .waiting => 3
    | .task => 4

/-- Is a locked sequence open? A broken one counts as closed (R222). -/
def Eng.lockOpen (e : Eng) : Bool := match e.lock with | some l => !l.broken | none => false

def State.engStat (s : State) (g : Nat) : W32 :=
  let e := s.engAt g
  packW [(0, s.engCode g), (3, b2n e.lockOpen), (4, e.ldepth), (7, b2n (stBit e.sr 8)), (8, e.task.toNat),
    (22, b2n e.urge), (23, b2n e.swi)]

def Eng.pcReg (e : Eng) : W32 := packW [(0, e.pc.toNat), (16, e.ipc.toNat)]

/-- Engine cycles of 0.8 ns that have gone by since the watchdog of engine `g` last counted (R216); none while it is frozen. -/
def State.engLag (s : State) (g : Nat) : Nat :=
  if (s.engAt g).halted then 0 else s.now * 5 / 4 - (s.engAt g).wdogAt

/-- The watchdog of a task counts `n` cycles. -/
def Eng.charge (e : Eng) (n : Nat) : Eng :=
  if e.st = .task then { e with
    wdog := e.wdog - BitVec.ofNat 24 (min n e.wdog.toNat)
    wdogAt := e.wdogAt + n }
  else e

def State.wdogReg (s : State) (g : Nat) : W32 :=
  packW [(0, ((s.engAt g).charge (s.engLag g)).wdog.toNat), (24, b2n (s.engAt g).frozen)]

def Eng.remapReg (e : Eng) : W32 :=
  packW [(0, e.rmtP.length), (4, e.rmtX.length), (8, e.rmtY.length), (16, b2n e.fenced)]

/-- KDMA [3:0] BUSY and [7:4] ERR (R225). -/
def Eng.kdmaReg (e : Eng) : W32 :=
  packW [(0, maskOf (e.chan.toList.map fun c => c.desc.isSome)), (4, maskOf (e.chan.toList.map fun c => c.err)),
    (8, e.kdmaCode.toNat)]

/-- ENG_RMT_g_i (R225). -/
def Eng.rmtReg (e : Eng) (i : Nat) : W32 :=
  let t := if i < 4 then e.rmtP else if i < 8 then e.rmtX else e.rmtY
  match t[i % 4]? with
  | some a => packW [(0, a.toNat), (15, 1)]
  | none => 0#32

/-- The register at an offset of engine `g`'s block (R225); reserved offsets read as zero. -/
def State.engRegRead (s : State) (g off : Nat) : W32 :=
  let e := s.engAt g
  match off with
  | 0x00 => s.engStat g
  | 0x04 => e.pcReg
  | 0x08 => s.wdogReg g
  | 0x10 => e.dln.extractLsb' 0 32
  | 0x14 => e.dln.extractLsb' 32 32
  | 0x18 => e.arg.extractLsb' 0 32
  | 0x1C => (e.arg.extractLsb' 32 16).setWidth 32
  | 0x20 => e.ien.setWidth 32
  | 0x24 => packW [(0, b2n e.swi)]
  | 0x28 => e.frec.setWidth 32
  | 0x2C => e.ecc.setWidth 32
  | 0x30 => e.remapReg
  | 0x70 => e.kdmaReg
  | _ => if 0x40 ≤ off ∧ off < 0x70 ∧ off % 4 = 0 then e.rmtReg ((off - 0x40) / 4) else 0#32

/-- A read of a register of engine `g` by `who`: a read of DLN_LO or ARG_LO captures the other half, which the same initiator's next
read of it returns (R16). The capture is kept under the global address of the low half. -/
def State.engPairRead (s : State) (who : Initiator) (g off : Nat) : W32 × State :=
  let key (o : Nat) : Nat := kitBase + g / 8 * kitStride + g % 8 * 0x20000 + 0x18000 + o
  let mine (o : Nat) : (Initiator × Nat × W32) → Bool := fun e => e.1 = who && e.2.1 = key o
  if off = 0x10 ∨ off = 0x18 then
    (s.engRegRead g off, { s with noc.hiRead :=
      (s.noc.hiRead.filter fun e => !mine off e) ++ [(who, key off, s.engRegRead g (off + 4))] })
  else if off = 0x14 ∨ off = 0x1C then
    match s.noc.hiRead.find? (mine (off - 4)) with
    | some e => (e.2.2, { s with noc.hiRead := s.noc.hiRead.filter fun e => !mine (off - 4) e })
    | none => (s.engRegRead g off, s)
  else (s.engRegRead g off, s)

/-- The engines of a kit. -/
def kitEngines (k : Nat) : List Nat := (List.range 8).map (8 * k + ·)

/-- Does a group hold engines of kit `k` (R202)? -/
def State.kitAssigned (s : State) (k : Nat) : Bool :=
  s.tdu.group.any fun g => g.2.defined && g.2.engines.any fun e => e.val / 8 = k

/-- The register at an offset of kit `k`'s registers (R226). -/
def State.kitRegRead (s : State) (k off : Nat) : W32 :=
  let kt := s.kitAt k
  let es := (kitEngines k).map s.engAt
  match off with
  | 0x00 => packW [(0, maskOf (es.map fun e => e.st = .waiting)), (8, maskOf (es.map fun e => e.fenced)),
      (16, maskOf (es.map fun e => e.halted)), (24, b2n (bitOf s.ckr.pwrUnit.toNat k))]
  | 0x04 => packW [(0, kt.owner.val), (4, b2n (s.kitAssigned k))]
  | 0x08 => BitVec.ofNat 32 (maskOf ((es.map fun e => e.chan.toList.map fun c => c.desc.isSome).flatten))
  | 0x0C => kt.dmaErr
  | 0x10 => packW [(0, kt.ce.toNat), (8, kt.rmt.length)]
  | 0x14 => kt.broken.setWidth 32
  | _ => 0#32

/-! ### Accesses over the network or by kit DMA -/

/-- Is the bank of kit word `w` held by a locked sequence (R221)? -/
def State.kitBankHeld (s : State) (k w : Nat) : Bool := (s.kitAt k).locks.any fun l => l.1 % 16 = w % 16

/-- Is the reader the debug master, whose reads of registers are peeks (R475)? -/
def isDebug : Initiator → Bool
  | .debug _ => true
  | _ => false

/-- A read of an rc register (R13, R14): a debug session's read does not clear. -/
def State.rcRead (s : State) (who : Initiator) (v : W32) (clear : State → State) : State :=
  let s' := { s with readData := leBytes 4 v.toNat }
  if isDebug who then s' else clear s'

/-- The slots of a read, in address order. A read of KIT_LOCK clears it (R226). -/
def State.kitReadSlots (s : State) (who : Initiator) (k : Nat) : List Nat → NocStatus × List Byte × State
  | [] => (.ok, [], s)
  | w :: ws =>
    let r : NocStatus × W32 × State := match kitLoc (4 * w) with
      | .cell m e i => s.extRead m (8 * k + e) i
      | .engReg e off => let r := s.engPairRead who (8 * k + e) off; (.ok, r.1, r.2)
      | .kitReg off =>
        (.ok, s.kitRegRead k off,
          if off = 0x14 ∧ ¬ isDebug who then s.modKitAt k fun t => { t with broken := 0#16 } else s)
      | .hole => (.unmapped, 0#32, s)
    let t := r.2.2.kitReadSlots who k ws
    (if r.1 = .ok then t.1 else r.1, leBytes 4 r.2.1.toNat ++ t.2.1, t.2.2)

/-- A write of the registers that a kit owner may write: ENG_IEN and ENG_SWI (R225). Others drop it with the note of
R22. Ones in reserved bits leave a free value of the defined bits (R228). -/
def State.engRegWrite (s : State) (who : Initiator) (g off : Nat) (v : W32) : State :=
  if ¬ s.passes who (s.kitAt (g / 8)).owner then s.noteOwner who
  else if off = 0x20 then
    let f := if v.toNat < 4 then (v.setWidth 2, s) else s.fresh 2
    f.2.modEngAt g fun e => { e with ien := f.1 }
  else if off = 0x24 then
    let f := if v.toNat < 2 then (v.setWidth 1, s) else s.fresh 1
    if f.1 = 1#1 then f.2.modEngAt g fun e => { e with swi := true } else f.2
  else s.noteOwner who

/-- The slots of a write, in address order, from byte `off` of the kit. -/
def State.kitWriteSlots (s : State) (who : Initiator) (k off : Nat) : List Nat → List Byte → NocStatus × State
  | [], _ => (.ok, s)
  | w :: ws, bs =>
    let lo := off - 4 * w
    let n := min bs.length (4 - lo)
    let r : NocStatus × State := match kitLoc (4 * w) with
      | .cell m e i => s.extWrite m (8 * k + e) i lo (bs.take n)
      | .engReg e o => (.ok, s.engRegWrite who (8 * k + e) o (BitVec.ofNat 32 (leNat (bs.take n))))
      | .kitReg _ => (.ok, s.noteOwner who)
      | .hole => (.unmapped, s)
    let t := r.2.kitWriteSlots who k (4 * w + 4) ws (bs.drop n)
    (if r.1 = .ok then t.1 else r.1, t.2)

/-- May the requester touch the memories in [off, off + n) of kit `k` (R24, R202)? Registers are readable by all. -/
def State.kitMine (s : State) (who : Initiator) (o : Owner) (k off n : Nat) : Bool :=
  who = .belfry || (s.kitAt k).owner = o ||
    (spanOf 4 off n).all fun w => match kitLoc (4 * w) with | .cell _ _ _ => false | _ => true

/-- Does [off, off + n) of a kit touch a hole? -/
def kitHole (off n : Nat) : Bool := (spanOf 4 off n).any fun w => kitLoc (4 * w) == .hole

/-- A read of kit `k` at an offset: the ownership check, the clock gate (R430), then the slots. -/
def State.kitRead (s : State) (who : Initiator) (o : Owner) (k off n : Nat) : NocStatus × List Byte × State :=
  if kitHole off n then (.unmapped, [], s.raiseBy 199 who o)
  else if !s.kitMine who o k off n then (.notOwner, [], s.raiseBy 198 who o)
  else if !bitOf s.ckr.gate0.toNat k then (.ok, leBytes n 0, s)
  else
    let r := s.kitReadSlots who k (spanOf 4 off n)
    (r.1, (r.2.1.drop (off % 4)).take n, r.2.2)

/-- A write of kit `k` at an offset. -/
def State.kitWrite (s : State) (who : Initiator) (o : Owner) (k off : Nat) (bs : List Byte) : NocStatus × State :=
  if kitHole off bs.length then (.unmapped, s.raiseBy 199 who o)
  else if !s.kitMine who o k off bs.length then (.notOwner, s.raiseBy 198 who o)
  else if !bitOf s.ckr.gate0.toNat k then (.ok, s)
  else s.kitWriteSlots who k off (spanOf 4 off bs.length) bs

/-- Does the span touch a kit word whose bank a locked sequence holds, so that the access waits (R221)? -/
def State.kitWaits (s : State) (k off n : Nat) : Bool :=
  (spanOf 4 off n).any fun w => match kitLoc (4 * w) with | .cell .kit _ i => s.kitBankHeld k i | _ => false

/-- Is [a, a + n) inside the range of present kits? -/
def inKits (a n : Nat) : Bool := kitBase ≤ a && a + n ≤ kitBase + 16 * kitStride

/-- The conflict counter of a kit that reaches the vault over the side port (R307, R313). -/
def State.sideTick (s : State) (who : Initiator) (a n : Nat) : State := match who with
  | .engine g => if inVault a n ∧ g.val < 32 then s.confTick (140 + g.val / 8) (spanOf 16 (a - vaultBase) n).length else s
  | _ => s

/-- Accesses to memories that answer at once: vault, DRAM regions, kits. None where the target is another unit, or
where a locked bank or a locked vault word makes the access wait (R221). -/
def State.fastRead (s : State) (who : Initiator) (o : Owner) (a n : Nat) : Option (NocStatus × List Byte × State) :=
  if inKits a n then
    let k := (a - kitBase) / kitStride
    let off := (a - kitBase) % kitStride
    if !s.kitPresent k then some (.absent, [], s)
    else if kitStride < off + n then some (.unmapped, [], s.raiseBy 199 who o)
    else if s.kitWaits k off n then none
    else some (s.kitRead who o k off n)
  else if inVault a n ∨ a < vaultBase then
    let r := (s.sideTick who a n).memRead who o a n
    some (r.1, r.2.1, r.2.2.settle)
  else none

def State.fastWrite (s : State) (who : Initiator) (o : Owner) (a : Nat) (bs : List Byte) : Option (NocStatus × State) :=
  if inKits a bs.length then
    let k := (a - kitBase) / kitStride
    let off := (a - kitBase) % kitStride
    if !s.kitPresent k then some (.absent, s)
    else if kitStride < off + bs.length then some (.unmapped, s.raiseBy 199 who o)
    else if s.kitWaits k off bs.length then none
    else some (s.kitWrite who o k off bs)
  else if inVault a bs.length ∧
      s.vlt.locks.any (fun l => (spanOf 16 (a - vaultBase) bs.length).contains l.1 && l.2.1 != who) then none
  else if inVault a bs.length ∨ a < vaultBase then
    let r := (s.sideTick who a bs.length).memWrite who o a bs
    some (r.1, r.2.settle)
  else none

end Sys2Proof.Machine
end

