-- ==== Sys2Proof/Machine/EngIsa.lean ====
section
/-!
DEFINITION. Machine/EngIsa.lean: the words of the engine instruction set: every format of R231 to R241 decoded, and every
encoding that R229 calls ILLEGAL rejected.
-/
namespace Sys2Proof.Machine

/-- An engine instruction. -/
inductive EOp where
  | par (op : AluOp) (acc : Fin 4) (sel : Fin 8) (m1 m2 : Move)
  | ldi (r : BitVec 7) (imm : BitVec 19)
  | ldih (r : BitVec 7) (imm : BitVec 12)
  | movec (d src : BitVec 7)
  | movem (r : BitVec 7) (store : Bool) (y : Bool) (a : MemAddr)
  | dalu (op : DOp) (dd : Fin 8) (src : DSrc)
  | jcc (cond : BitVec 4) (target : BitVec 13)
  | jsr (dn : Fin 8) (target : BitVec 13)
  | jmpDn (dn : Fin 8)
  | rep (last : BitVec 13)
  | repi (n : BitVec 13) (last : BitVec 13)
  | endl
  | take
  | done (nc : Bool) (status : Byte)
  | rti
  | bkpt
  | stset (mask : BitVec 9)
  | stclr (mask : BitVec 9)
  | kdma (c : Fin 4) (d : BitVec 13)
  | kdmaw (c : Fin 4)
  | pushq (dq : Fin 8) (size : Fin 3) (n : Fin 4) (inc : Bool)
  | popq (dq : Fin 8) (size : Fin 3) (n : Fin 4) (inc : Bool)
  | lock (vault : Bool) (da : Fin 8) (n : Fin 4)
  | unlock (store : Bool) (n : Fin 4)
  deriving DecidableEq, Repr

/-! ### Register codes (R230) -/

/-- Codes that name a register. -/
def regKnown (c : Nat) : Bool := c < 0x3D || (0x40 ≤ c && c < 0x49)

/-- Codes that may be written. -/
def regWritable (c : Nat) : Bool := c < 0x37 || (0x40 ≤ c && c < 0x49)

/-- Destinations of LDIH (R237): D, A.M, A.R, LC, ISTAT. -/
def ldihOk (c : Nat) : Bool := c < 8 || (0x10 ≤ c && c < 0x18) || c = 0x30 || c = 0x36

/-! ### Moves (R232, R233) -/

/-- A move field: none where it is reserved. SPACE and MODE make the move's mode: 4 × SPACE + MODE. -/
def decodeMove (v : Nat) : Option Move :=
  let space := bitsOf v 10 1
  let mode := bitsOf v 8 2
  let nidx := bitsOf v 4 2
  let reg := bitsOf v 0 3
  if v = 0 then some .none
  else if mode = 0 then none
  else if mode ≠ 3 ∧ nidx ≠ 0 then none
  else some (.mv (Fin.ofNat 8 (4 * space + mode)) (Fin.ofNat 4 (bitsOf v 6 2)) (Fin.ofNat 4 nidx)
    (bitOf v 3) (Fin.ofNat 32 reg))

/-- The space of a move in its field: 0 X, 1 Y, 2 X and Y. -/
def moveSpace (first : Bool) (mode : Nat) : Nat := if first then (if mode < 4 then 0 else 2) else (if mode < 4 then 1 else 0)

/-- Is the register field of a move reserved (R232)? -/
def moveRegOk (first : Bool) : Move → Bool
  | .none => true
  | .mv mode _ _ _ reg => moveSpace first mode ≠ 2 || reg.val < 4

/-- The legal combinations of R233: two moves of one direction may not share a memory. -/
def movesOk (m1 m2 : Move) : Bool :=
  moveRegOk true m1 && moveRegOk false m2 &&
  match m1, m2 with
  | .mv o1 _ _ s1 _, .mv o2 _ _ s2 _ => s1 != s2 || (moveSpace true o1 = 0 && moveSpace false o2 = 1)
  | _, _ => true

/-! ### The parallel format (R231, R235) -/

/-- OP and, for OP 15, SEL, name the operation; SEL is then taken as zero. -/
def decodeAlu (op sel : Nat) : AluOp :=
  match op with
  | 0 => .nop
  | 1 => .dmpy
  | 2 => .dmac
  | 3 => .dmsa
  | 4 => .mpy2
  | 5 => .mac2
  | 6 => .mas2
  | 7 => .mpy
  | 8 => .mac
  | 9 => .macn
  | 10 => .add
  | 11 => .sub
  | 12 => .cmp
  | 13 => .copy
  | 14 => .max
  | _ => match sel with
    | 0 => .clr
    | 1 => .rnd
    | 2 => .abs
    | 3 => .neg
    | 4 => .asr1
    | 5 => .asl1
    | 6 => .asr8
    | _ => .asl8

def decodePar (n : Nat) : Option EOp :=
  let op := bitsOf n 27 4
  let acc := bitsOf n 25 2
  let sel := bitsOf n 22 3
  match decodeMove (bitsOf n 11 11), decodeMove (bitsOf n 0 11) with
  | some m1, some m2 =>
    if op = 0 ∧ (acc ≠ 0 ∨ sel ≠ 0) then none
    else if movesOk m1 m2 then
      some (.par (decodeAlu op sel) (Fin.ofNat 4 acc) (Fin.ofNat 8 (if op = 15 then 0 else sel)) m1 m2)
    else none
  | _, _ => none

/-! ### Single formats (R237 to R241) -/

def decodeDalu (n : Nat) : Option EOp :=
  let src : Option DSrc :=
    if bitOf n 18 then (if bitsOf n 15 3 = 0 then some (.imm (BitVec.ofNat 15 n)) else none)
    else if bitsOf n 0 15 = 0 then some (.reg (Fin.ofNat 8 (bitsOf n 15 3))) else none
  let op : Option DOp := match bitsOf n 22 4 with
    | 0 => some .add
    | 1 => some .sub
    | 2 => some .cmp
    | 3 => some .and
    | 4 => some .or
    | 5 => some .xor
    | 6 => some .asl
    | 7 => some .asr
    | 8 => some .lsr
    | 9 => some .min
    | 10 => some .max
    | 11 => some .tst
    | _ => none
  match op, src with
  | some op, some s => some (.dalu op (Fin.ofNat 8 (bitsOf n 19 3)) s)
  | _, _ => none

def decodeMovem (n : Nat) : Option EOp :=
  let r := BitVec.ofNat 7 (bitsOf n 19 7)
  let store := bitOf n 18
  let okReg := if store then regKnown r.toNat else regWritable r.toNat
  if ¬ okReg ∨ bitsOf n 13 3 ≠ 0 then none
  else if bitOf n 16 then
    let mode := bitsOf n 11 2
    let nidx := bitsOf n 7 2
    if mode = 0 ∨ bitsOf n 0 7 ≠ 0 ∨ (mode ≠ 3 ∧ nidx ≠ 0) then none
    else some (.movem r store (bitOf n 17) (.ptr (Fin.ofNat 8 mode) (Fin.ofNat 4 (bitsOf n 9 2)) (Fin.ofNat 4 nidx)))
  else some (.movem r store (bitOf n 17) (.abs (BitVec.ofNat 13 n)))

def decodeSys (n : Nat) : Option EOp :=
  let rest := bitsOf n 0 20
  let dq := Fin.ofNat 8 (bitsOf n 16 3)
  let py := Fin.ofNat 4 (bitsOf n 12 2)
  match bitsOf n 20 6 with
  | 0x00 => if rest = 0 then some .take else none
  | 0x01 => if bitsOf n 9 11 = 0 then some (.done (bitOf n 8) (BitVec.ofNat 8 n)) else none
  | 0x02 => if rest = 0 then some .rti else none
  | 0x03 => if rest = 0 then some .bkpt else none
  | 0x04 => if bitsOf n 9 11 = 0 then some (.stset (BitVec.ofNat 9 n)) else none
  | 0x05 => if bitsOf n 9 11 = 0 then some (.stclr (BitVec.ofNat 9 n)) else none
  | 0x08 => if bitsOf n 15 5 = 0 then some (.kdma (Fin.ofNat 4 (bitsOf n 13 2)) (BitVec.ofNat 13 n)) else none
  | 0x09 =>
    if bitsOf n 15 5 = 0 ∧ bitsOf n 0 13 = 0 then some (.kdmaw (Fin.ofNat 4 (bitsOf n 13 2))) else none
  | 0x0A =>
    if bitOf n 19 ∨ bitsOf n 0 11 ≠ 0 ∨ bitsOf n 14 2 = 3 then none
    else some (.pushq dq (Fin.ofNat 3 (bitsOf n 14 2)) py (bitOf n 11))
  | 0x0B =>
    if bitOf n 19 ∨ bitsOf n 0 11 ≠ 0 ∨ bitsOf n 14 2 = 3 then none
    else some (.popq dq (Fin.ofNat 3 (bitsOf n 14 2)) py (bitOf n 11))
  | 0x0C => if bitsOf n 0 12 ≠ 0 ∨ bitsOf n 14 2 ≠ 0 then none else some (.lock (bitOf n 19) dq py)
  | 0x0D =>
    if bitsOf n 0 11 ≠ 0 ∨ bitsOf n 14 6 ≠ 0 then none
    else some (.unlock (bitOf n 11) py)
  | _ => none

/-- The instruction that a word of P memory spells; none where R229 makes it ILLEGAL. -/
def engDecode (w : W32) : Option EOp :=
  let n := w.toNat
  let r := BitVec.ofNat 7 (bitsOf n 19 7)
  if bitOf n 31 then decodePar n
  else match bitsOf n 26 5 with
    | 0x01 => if regWritable r.toNat then some (.ldi r (BitVec.ofNat 19 n)) else none
    | 0x02 => if ldihOk r.toNat ∧ bitsOf n 12 7 = 0 then some (.ldih r (BitVec.ofNat 12 n)) else none
    | 0x03 =>
      let src := BitVec.ofNat 7 (bitsOf n 12 7)
      if regWritable r.toNat ∧ regKnown src.toNat ∧ bitsOf n 0 12 = 0 then some (.movec r src) else none
    | 0x04 => decodeMovem n
    | 0x05 => decodeDalu n
    | 0x08 =>
      if bitsOf n 13 9 = 0 ∧ bitsOf n 22 4 ≠ 15 then
        some (.jcc (BitVec.ofNat 4 (bitsOf n 22 4)) (BitVec.ofNat 13 n))
      else none
    | 0x09 =>
      if bitsOf n 22 4 = 0 ∧ bitsOf n 13 6 = 0 then
        some (.jsr (Fin.ofNat 8 (bitsOf n 19 3)) (BitVec.ofNat 13 n))
      else none
    | 0x0A => if bitsOf n 22 4 = 0 ∧ bitsOf n 0 19 = 0 then some (.jmpDn (Fin.ofNat 8 (bitsOf n 19 3))) else none
    | 0x0C => if bitsOf n 13 13 = 0 then some (.rep (BitVec.ofNat 13 n)) else none
    | 0x0D => some (.repi (BitVec.ofNat 13 (bitsOf n 13 13)) (BitVec.ofNat 13 n))
    | 0x0E => if bitsOf n 0 26 = 0 then some .endl else none
    | 0x10 => decodeSys n
    | _ => none

/-- Instructions that may not stand in a delay slot (R242) or at LE (R245). -/
def EOp.control : EOp → Bool
  | .jcc _ _ => true
  | .jsr _ _ => true
  | .jmpDn _ => true
  | .rti => true
  | .rep _ => true
  | .repi _ _ => true
  | .endl => true
  | .take => true
  | .done _ _ => true
  | _ => false

/-! ### Words of instructions (R231 to R241) -/

/-- Is a move one that R232 gives an encoding? -/
def moveOk : Move → Bool
  | .none => true
  | .mv mode _ nidx _ reg => mode.val % 4 ≠ 0 && (mode.val % 4 = 3 || nidx.val = 0) && reg.val < 8

/-- Does an operation of the parallel format use SEL (R235)? OP 15 spends SEL on its own number. -/
def AluOp.usesSel : AluOp → Bool
  | .nop => false
  | .clr => false
  | .rnd => false
  | .abs => false
  | .neg => false
  | .asr1 => false
  | .asl1 => false
  | .asr8 => false
  | .asl8 => false
  | _ => true

/-- Is an instruction one that the tables of R229 to R241 give a word? -/
def EOp.wf : EOp → Bool
  | .par op acc sel m1 m2 =>
    moveOk m1 && moveOk m2 && movesOk m1 m2 && (op.usesSel || sel.val = 0) && (op != .nop || acc.val = 0)
  | .ldi r _ => regWritable r.toNat
  | .ldih r _ => ldihOk r.toNat
  | .movec d src => regWritable d.toNat && regKnown src.toNat
  | .movem r store _ a =>
    (if store then regKnown r.toNat else regWritable r.toNat) &&
    (match a with
      | .abs _ => true
      | .ptr mode _ nidx => mode.val < 4 && mode.val ≠ 0 && (mode.val = 3 || nidx.val = 0))
  | .jcc cond _ => cond ≠ 15#4
  | .dalu _ _ _ => true
  | .jsr _ _ => true
  | .jmpDn _ => true
  | .rep _ => true
  | .repi _ _ => true
  | .endl => true
  | .take => true
  | .done _ _ => true
  | .rti => true
  | .bkpt => true
  | .stset _ => true
  | .stclr _ => true
  | .kdma _ _ => true
  | .kdmaw _ => true
  | .pushq _ _ _ _ => true
  | .popq _ _ _ _ => true
  | .lock _ _ _ => true
  | .unlock _ _ => true

/-- The 11-bit field of a move (R232): SPACE, MODE, PTR, NIDX, DIR and REG from bit 10 down. -/
def encodeMove : Move → Nat
  | .none => 0
  | .mv mode p nidx store reg => mode.val * 256 + p.val * 64 + nidx.val * 16 + b2n store * 8 + reg.val

/-- OP of the parallel format (R235), and SEL for OP 15. -/
def aluCode : AluOp → Nat × Option Nat
  | .nop => (0, none)
  | .dmpy => (1, none)
  | .dmac => (2, none)
  | .dmsa => (3, none)
  | .mpy2 => (4, none)
  | .mac2 => (5, none)
  | .mas2 => (6, none)
  | .mpy => (7, none)
  | .mac => (8, none)
  | .macn => (9, none)
  | .add => (10, none)
  | .sub => (11, none)
  | .cmp => (12, none)
  | .copy => (13, none)
  | .max => (14, none)
  | .clr => (15, some 0)
  | .rnd => (15, some 1)
  | .abs => (15, some 2)
  | .neg => (15, some 3)
  | .asr1 => (15, some 4)
  | .asl1 => (15, some 5)
  | .asr8 => (15, some 6)
  | .asl8 => (15, some 7)

/-- OP of the DALU format (R238). -/
def daluCode : DOp → Nat
  | .add => 0
  | .sub => 1
  | .cmp => 2
  | .and => 3
  | .or => 4
  | .xor => 5
  | .asl => 6
  | .asr => 7
  | .lsr => 8
  | .min => 9
  | .max => 10
  | .tst => 11

/-- A word of the single formats: MAJOR in bits 30 to 26 (R231). -/
def single (major rest : Nat) : Nat := major * 67108864 + rest

/-- A SYS word: OP in bits 25 to 20 (R241). -/
def sysWord (op rest : Nat) : Nat := single 0x10 (op * 1048576 + rest)

/-- The number of the word that spells an instruction. -/
def encodeNat : EOp → Nat
  | .par op acc sel m1 m2 =>
    2147483648 + (aluCode op).1 * 134217728 + acc.val * 33554432 +
      (match (aluCode op).2 with | some k => k | none => sel.val) * 4194304 + encodeMove m1 * 2048 + encodeMove m2
  | .ldi r imm => single 0x01 (r.toNat * 524288 + imm.toNat)
  | .ldih r imm => single 0x02 (r.toNat * 524288 + imm.toNat)
  | .movec d src => single 0x03 (d.toNat * 524288 + src.toNat * 4096)
  | .movem r store y a =>
    single 0x04 (r.toNat * 524288 + b2n store * 262144 + b2n y * 131072 +
      (match a with
        | .abs x => x.toNat
        | .ptr mode p nidx => 65536 + mode.val * 2048 + p.val * 512 + nidx.val * 128))
  | .dalu op dd src =>
    single 0x05 (daluCode op * 4194304 + dd.val * 524288 +
      (match src with
        | .imm v => 262144 + v.toNat
        | .reg r => r.val * 32768))
  | .jcc cond target => single 0x08 (cond.toNat * 4194304 + target.toNat)
  | .jsr dn target => single 0x09 (dn.val * 524288 + target.toNat)
  | .jmpDn dn => single 0x0A (dn.val * 524288)
  | .rep last => single 0x0C last.toNat
  | .repi n last => single 0x0D (n.toNat * 8192 + last.toNat)
  | .endl => single 0x0E 0
  | .take => sysWord 0x00 0
  | .done nc status => sysWord 0x01 (b2n nc * 256 + status.toNat)
  | .rti => sysWord 0x02 0
  | .bkpt => sysWord 0x03 0
  | .stset mask => sysWord 0x04 mask.toNat
  | .stclr mask => sysWord 0x05 mask.toNat
  | .kdma c d => sysWord 0x08 (c.val * 8192 + d.toNat)
  | .kdmaw c => sysWord 0x09 (c.val * 8192)
  | .pushq dq size n inc => sysWord 0x0A (dq.val * 65536 + size.val * 16384 + n.val * 4096 + b2n inc * 2048)
  | .popq dq size n inc => sysWord 0x0B (dq.val * 65536 + size.val * 16384 + n.val * 4096 + b2n inc * 2048)
  | .lock vault da n => sysWord 0x0C (b2n vault * 524288 + da.val * 65536 + n.val * 4096)
  | .unlock store n => sysWord 0x0D (n.val * 4096 + b2n store * 2048)

/-- The word of P memory that spells an instruction (R229 to R241). -/
def engEncode (op : EOp) : W32 := BitVec.ofNat 32 (encodeNat op)

end Sys2Proof.Machine
end

