-- ==== Sys2Proof/Machine/EngCore.lean ====
section
/-!
DEFINITION. Machine/EngCore.lean: what every engine instruction shares: the registers with the views that R243 leaves
exposed, address forming (R209), FAULT entry (R212), debug comparators (R471, R472), loop edges (R245) and the end of an
instruction.
-/
namespace Sys2Proof.Machine

/-! ### Registers (R206, R230, R243) -/

/-- The value that stands in the register named by a code, in its own width. -/
def Eng.reg (e : Eng) (c : Nat) : Nat :=
  if c < 0x08 then (e.d[c % 8]).toNat
  else if c < 0x0C then (e.a[c % 4]).toNat
  else if c < 0x10 then bitsOf (e.a[c % 4]).toNat 48 8
  else if c < 0x14 then bitsOf (e.a[c % 4]).toNat 24 24
  else if c < 0x18 then bitsOf (e.a[c % 4]).toNat 0 24
  else if c < 0x1C then (e.px[c % 4]).toNat
  else if c < 0x20 then (e.py[c % 4]).toNat
  else if c < 0x24 then (e.nx[c % 4]).toNat
  else if c < 0x28 then (e.ny[c % 4]).toNat
  else if c < 0x2C then (e.mx[c % 4]).toNat
  else if c < 0x30 then (e.my[c % 4]).toNat
  else if c = 0x30 then e.loop.lc.toNat
  else if c = 0x31 then e.loop.ls.toNat
  else if c = 0x32 then e.loop.le.toNat
  else if c = 0x33 then e.ldepth
  else if c = 0x34 then e.sr.toNat
  else if c = 0x35 then e.ipc.toNat
  else if c = 0x36 then e.istat.toNat
  else if c = 0x37 then e.task.toNat
  else if c = 0x38 then bitsOf e.dln.toNat 0 24
  else if c = 0x39 then bitsOf e.dln.toNat 24 24
  else if c = 0x3A then bitsOf e.dln.toNat 48 16
  else if c = 0x3B then bitsOf e.arg.toNat 0 24
  else if c = 0x3C then bitsOf e.arg.toNat 24 24
  else
    let j := (c - 0x40) / 3 % 3
    let l := e.lstk[j]'(Nat.mod_lt _ (by decide))
    if (c - 0x40) % 3 = 0 then l.lc.toNat else if (c - 0x40) % 3 = 1 then l.ls.toNat else l.le.toNat

/-- The value as instructions see it that must not yet see the latest LDI, LDIH, MOVEC or MOVEM write (R243). -/
def Eng.view (e : Eng) (c : Nat) : Nat :=
  match e.late.find? (fun l => l.1 == c) with
  | some l => l.2
  | none => e.reg c

/-- Sign extension of a `w`-bit number to 24 bits. -/
def sext24 (w v : Nat) : W24 := if bitOf v (w - 1) then BitVec.ofNat 24 (2 ^ 24 - 2 ^ w + v % 2 ^ w) else BitVec.ofNat 24 v

/-- A register read as a source (R230): accumulators as they stood two instructions before (R243), An converted, and
whether that saturated. -/
def Eng.src (e : Eng) (c : Nat) : W24 × Bool :=
  if 0x08 ≤ c ∧ c < 0x0C then convert (e.a1[c % 4]) e.sr1
  else if 0x0C ≤ c ∧ c < 0x10 then (sext24 8 (bitsOf (e.a1[c % 4]).toNat 48 8), false)
  else if 0x10 ≤ c ∧ c < 0x14 then (BitVec.ofNat 24 (bitsOf (e.a1[c % 4]).toNat 24 24), false)
  else if 0x14 ≤ c ∧ c < 0x18 then (BitVec.ofNat 24 (bitsOf (e.a1[c % 4]).toNat 0 24), false)
  else if 0x20 ≤ c ∧ c < 0x28 then (sext24 13 (e.reg c), false)
  else (BitVec.ofNat 24 (e.reg c), false)

/-- A register written as a destination (R230). -/
def Eng.put (e : Eng) (c : Nat) (v : W24) : Eng :=
  let n := v.toNat
  let i := c % 4
  let v13 : BitVec 13 := v.setWidth 13
  let setA (k w x : Nat) : Eng :=
    { e with a := e.a.set! i (BitVec.ofNat 56 (setBits (e.a[c % 4]).toNat k w x)) }
  if c < 0x08 then { e with d := e.d.set! c v }
  else if c < 0x0C then { e with a := e.a.set! i (v.signExtend 56 <<< 24) }
  else if c < 0x10 then setA 48 8 n
  else if c < 0x14 then setA 24 24 n
  else if c < 0x18 then setA 0 24 n
  else if c < 0x1C then { e with px := e.px.set! i v13 }
  else if c < 0x20 then { e with py := e.py.set! i v13 }
  else if c < 0x24 then { e with nx := e.nx.set! i v13 }
  else if c < 0x28 then { e with ny := e.ny.set! i v13 }
  else if c < 0x2C then { e with mx := e.mx.set! i v13 }
  else if c < 0x30 then { e with my := e.my.set! i v13 }
  else if c = 0x30 then { e with loop := { e.loop with lc := v } }
  else if c = 0x31 then { e with loop := { e.loop with ls := v13 } }
  else if c = 0x32 then { e with loop := { e.loop with le := v13 } }
  else if c = 0x33 then { e with ldepth := n }
  else if c = 0x34 then { e with sr := v &&& 0x1FF#24 }
  else if c = 0x35 then { e with ipc := v13 }
  else if c = 0x36 then { e with istat := v }
  else if 0x40 ≤ c ∧ c < 0x49 then
    let j := (c - 0x40) / 3
    let l := e.lstk[j % 3]'(Nat.mod_lt _ (by decide))
    let l := if (c - 0x40) % 3 = 0 then { l with lc := v } else if (c - 0x40) % 3 = 1 then { l with ls := v13 }
      else { l with le := v13 }
    { e with lstk := e.lstk.set! j l }
  else e

/-! ### Address forming (R209) -/

/-- The pointer after an offset, under its modulo register. -/
def ptrAdvance (p off m : BitVec 13) : BitVec 13 :=
  if m = 0#13 then p + off
  else
    let l : Int := m.toNat
    let b := p.toNat - p.toNat % 2 ^ clog2 m.toNat
    BitVec.ofInt 13 (b + ((p.toNat : Int) - b + off.toInt) % l)

/-- The pointers as address forming sees them. -/
def Eng.ptrView (e : Eng) (y : Bool) (i : Fin 4) : BitVec 13 :=
  BitVec.ofNat 13 (e.view ((if y then 0x1C else 0x18) + i.val))
def Eng.offView (e : Eng) (y : Bool) (i : Fin 4) : BitVec 13 :=
  BitVec.ofNat 13 (e.view ((if y then 0x24 else 0x20) + i.val))
def Eng.modView (e : Eng) (y : Bool) (i : Fin 4) : BitVec 13 :=
  BitVec.ofNat 13 (e.view ((if y then 0x2C else 0x28) + i.val))

/-- The address that a pointer operand forms and the pointer after it: MODE 1 keeps it, 2 adds 1, 3 adds an offset
register, twice under KL-03 (R232, R511). -/
def Eng.formAddr (e : Eng) (y : Bool) (mode : Nat) (p n : Fin 4) (twice : Bool) : BitVec 13 × BitVec 13 :=
  let a := e.ptrView y p
  let m := e.modView y p
  let off := e.offView y n
  (a, if mode = 1 then a else if mode = 2 then ptrAdvance a 1#13 m
    else if twice then ptrAdvance (ptrAdvance a off m) off m else ptrAdvance a off m)

def Eng.setPtr (e : Eng) (y : Bool) (p : Fin 4) (v : BitVec 13) : Eng :=
  if y then { e with py := e.py.set p.val v } else { e with px := e.px.set p.val v }

/-- A pointer at the end of an instruction that advanced it: a late LDI-class write of it stands (R243). -/
def Eng.advPtr (e : Eng) (y : Bool) (p : Fin 4) (mode : Nat) (v : BitVec 13) : Eng :=
  if mode = 1 then e else e.setPtr y p v

/-! ### Faults of an engine (R212, R223) -/

/-- Causes of R223. -/
def causeClass (cause : Nat) : Nat := if cause = 2 then 1 else if cause = 5 then 2 else 3

/-- ENG_FREC records the fault, and FSRC 512 + g is raised to the kit owner. -/
def State.engReport (s : State) (g cause mem addr : Nat) : State :=
  let s := s.modEngAt g fun e =>
    { e with frec := BitVec.ofNat 19 (cause + 16 * mem + 64 * (addr % 8192)) }
  s.raiseC (512 + g) (causeClass cause) [(s.kitAt (g / 8)).owner] (srcBlock (512 + g)) ((s.engAt g).frec.setWidth 32)

/-- The pipeline views as an entry barrier leaves them (R244). -/
def Eng.barrier (e : Eng) : Eng := { e with a1 := e.a, sr1 := e.sr, sr2 := e.sr, late := [], slot := none }

/-- Entry to a vector (R212): the PC saved, ST saved, IE cleared. -/
def Eng.enter (e : Eng) (vector : Nat) (saved : BitVec 13) : Eng :=
  let e := { e with ipc := saved, istat := e.sr, sr := setStBit e.sr 8 false, pc := BitVec.ofNat 13 vector }
  let e := e.barrier
  { e with st := if e.st = .waiting then .running else e.st }

/-- FAULT (R212): the faulting instruction has no effect and its address is saved. A fault inside a FAULT handler is a
DOUBLE fault, which DOUBLE_FAULT handles. -/
def State.engFault (s : State) (g cause mem addr : Nat) : State :=
  if (s.engAt g).fdepth ≠ 0 then s.modEngAt g fun e => { e with double := true }
  else (s.engReport g cause mem addr).modEngAt g fun e => { e.enter 4 e.pc with fdepth := 1 }

/-- A fault whose record names the PC. -/
def State.engFaultPc (s : State) (g cause : Nat) : State := s.engFault g cause 0 (s.engAt g).pc.toNat

/-! ### Debug comparators (R471 to R473) -/

/-- An access that data comparators see: space (0 X, 1 Y, 2 NoC), write, address, data. -/
structure Acc where
  space : Nat
  write : Bool
  addr : Nat
  data : Option W24 := none

/-- CTL_c. -/
def EngDbg.ctlAt (b : EngDbg) (c : Nat) : Nat := (b.ctl[c % 8]).toNat

/-- Does data comparator `c` match an access (R471)? -/
def Eng.accHit (e : Eng) (c : Nat) (a : Acc) : Bool :=
  let k := e.dbg.ctlAt c
  if c < 6 then
    let lo := (e.dbg.dal[c % 2]).toNat
    let hi := (e.dbg.dah[c % 2]).toNat
    a.space = bitsOf k 3 2 && (bitsOf k 1 2 = 2 || a.write = decide (bitsOf k 1 2 = 1)) &&
      (if a.space = 2 then decide (lo ≤ a.addr ∧ a.addr ≤ hi)
       else decide (lo % 8192 ≤ a.addr ∧ a.addr ≤ hi % 8192))
  else
    a.space ≠ 2 && (match a.data with | some x => (x ^^^ e.dbg.dv[c % 2]) &&& e.dbg.dvm[c % 2] = 0#24 | none => false)

/-- The own match of comparator `c` (R471). -/
def Eng.ownMatch (e : Eng) (accs : List Acc) (c : Nat) : Bool :=
  let k := e.dbg.ctlAt c
  bitOf k 0 && (!bitOf k 5 || e.task.toNat = bitsOf k 6 14) &&
  (if c < 4 then
    let r := (e.dbg.ia[c % 4]).toNat
    decide (bitsOf r 0 13 ≤ e.pc.toNat ∧ e.pc.toNat ≤ bitsOf r 16 13)
  else accs.any (e.accHit c))

/-- Does comparator `c` fire (R472)? `n` bounds the chain of AND links. -/
def Eng.fires (e : Eng) (accs : List Acc) : Nat → Nat → Bool
  | 0, _ => false
  | n + 1, c =>
    let k := e.dbg.ctlAt c
    e.ownMatch accs c &&
    (match bitsOf k 23 2 with
      | 0 => true
      | 1 => e.fires accs n (bitsOf k 20 3)
      | 2 => e.dbg.armed.getLsbD c
      | _ => false)

/-- The comparators that fire in an instruction, among those `p` names. -/
def Eng.fired (e : Eng) (accs : List Acc) (p : Nat → Bool) : List Nat :=
  (List.range 8).filter fun c => p c && e.fires accs 8 c

/-- The firings note themselves in HIT, and arm the SEQ comparators that follow them (R472). -/
def EngDbg.note (b : EngDbg) (cs : List Nat) : EngDbg :=
  let bits := BitVec.ofNat 8 (maskOf ((List.range 8).map fun c => cs.contains c))
  let isSeq (c : Nat) : Bool := bitsOf (b.ctlAt c) 23 2 = 2
  let arm := maskOf ((List.range 8).map fun c =>
    if isSeq c then (cs.contains (bitsOf (b.ctlAt c) 20 3)) || (b.armed.getLsbD c && !cs.contains c) else false)
  { b with hit := b.hit ||| bits, armed := BitVec.ofNat 8 arm }

/-- A halt takes hold (R468): the watchdog is frozen, and a stalled instruction runs again from its start. A LOCK or UNLOCK whose
request is on its way gives back what its answer may grant (R221). -/
def State.engHaltNow (s : State) (g : Nat) : State :=
  let s := { s with qcu.held := s.qcu.held.filter fun h => decide (h.who ≠ Holder.engine (Fin.ofNat 128 g)) }
  let n := s.engLag g
  s.modEngAt g fun e => { e.charge n with halted := true, haltReq := false, steps := 0, frozen := true, stall := none }

/-- HALT of R468: at once where no delay slot and no locked sequence is open, else at the next boundary that allows
it. -/
def State.engHalt (s : State) (g : Nat) : State :=
  let e := s.engAt g
  if e.halted then s
  else if e.slot = none ∧ ¬ e.lockOpen then s.engHaltNow g
  else s.modEngAt g fun e => { e with haltReq := true }

/-- The trace record of R473 for a firing, pushed to the EVENT queue of the session that holds the comparators. -/
def State.engTrace (s : State) (g : Nat) (pc : BitVec 13) (comp : Nat) (a : Option Acc) : State :=
  match (s.engAt g).dbg.session with
  | none => s
  | some i =>
    let ss := s.sess i
    match ss.queue with
    | none => s
    | some q =>
      if ss.live ∧ ss.level = 2 ∧ (s.queue q).kind = .event ∧ (s.queue q).owner = ss.owner then
        let bs := leBytes 8 s.localPos.toNat ++ leBytes 2 pc.toNat ++ leBytes 2 (s.engAt g).task.toNat ++
          leBytes 1 comp ++ leBytes 1 g ++ leBytes 2 0 ++ leBytes 8 (match a with | some a => a.addr | none => 0) ++
          leBytes 4 (match a with | some a => (match a.data with | some d => d.toNat | none => 0) | none => 0) ++
          leBytes 4 ss.seq.toNat
        match s.qPush q bs with
        | (.ok, s') => s'.modSess i fun t => { t with seq := t.seq + 1 }
        | (_, s') => s'
      else s

/-- Engines that a session halts, which its end resumes (R464). -/
def State.sessHalts (s : State) (i : Option (Fin 4)) (gs : List Nat) : State :=
  match i with
  | none => s
  | some i =>
    s.modSess i fun t => { t with engines := (t.engines ++ gs.map (fun g => Fin.ofNat 128 g)).eraseDups }

/-- The ACTION codes of R472, at an instruction at `pc`. -/
def State.engAction (s : State) (g : Nat) (pc : BitVec 13) (act comp : Nat) (a : Option Acc) : State :=
  match act with
  | 1 => (s.sessHalts (s.engAt g).dbg.session [g]).engHalt g
  | 2 => s.modEngAt g fun e => { e with dbgInt := true }
  | 3 => (kitEngines (g / 8)).foldl State.engHalt (s.sessHalts (s.engAt g).dbg.session (kitEngines (g / 8)))
  | 4 => s.engTrace g pc comp a
  | _ => s

/-- Act on the comparators that fired in the instruction at `pc`. -/
def State.engFire (s : State) (g : Nat) (pc : BitVec 13) (accs : List Acc) (cs : List Nat) : State :=
  if cs = [] then s
  else
    let e := s.engAt g
    (cs.foldl (fun s c =>
      s.engAction g pc (bitsOf (e.dbg.ctlAt c) 25 3) c (if c < 4 then none else accs.find? (e.accHit c))) s).modEngAt g
        fun e => { e with dbg := e.dbg.note cs }

/-! ### Running an instruction -/

/-- May engine `g` execute an instruction: running or in a task, not halted, and nothing pending before it? -/
def State.engReady (s : State) (g : Nat) : Bool :=
  let e := s.engAt g
  s.engOn g && (decide (e.st = EngState.running) || decide (e.st = EngState.task)) && !e.halted && !e.fenced && !e.double && e.stall.isNone &&
  !(decide (e.st = EngState.task) && decide (e.wdog.toNat ≤ s.engLag g))

/-- The word at the PC. -/
def Eng.word (e : Eng) : W32 := tget e.p 0#32 e.pc.toNat

/-- The word that engine `g` fetches at its PC: a free value within 16 cycles of an external write of it (R204, R228). -/
def State.engWord (s : State) (g : Nat) : W32 :=
  let e := s.engAt g
  if e.pNew.any fun (x : BitVec 13 × Nat) => x.1 = e.pc && decide (s.now * 5 / 4 < x.2 + 16) then
    Config.wild 32 s.freeCount e.pc.toNat
  else e.word

/-- Is the address of the instruction the active LE (R245)? -/
def Eng.atLe (e : Eng) : Bool := decide (0 < e.view 0x33) && decide (e.view 0x32 = e.pc.toNat)

/-- Is the instruction forbidden where it stands: in a delay slot (R242) or at LE (R245)? -/
def Eng.misplaced (e : Eng) (op : EOp) : Bool :=
  (e.slot.isSome && op.control) || (e.atLe && (op.control || e.slot.isSome))

/-- Illegal for a reason of the engine's state: TAKE in a loop or in a task (R214), DONE outside a task or with a lock
(R241), LOCK and UNLOCK out of sequence (R221, R241), ENDL without a loop (R240), a REP whose END lies wrong (R245),
LDEPTH written with more than 4 (R230). -/
def Eng.illegalHere (e : Eng) (op : EOp) : Bool :=
  let badEnd (last : BitVec 13) : Bool :=
    decide (last.toNat ≤ e.pc.toNat) || (decide (0 < e.view 0x33) && decide (e.view 0x32 ≤ last.toNat))
  match op with
  | .take => decide (e.ldepth ≠ 0) || decide (e.st = EngState.task)
  | .done _ _ => decide (e.st ≠ EngState.task) || e.lockOpen
  | .lock _ _ _ => e.lockOpen
  | .unlock _ _ => e.lock.isNone
  | .endl => decide (e.view 0x33 = 0)
  | .rep l => badEnd l
  | .repi _ l => badEnd l
  | .ldi r imm => r.toNat = 0x33 && decide (4 < (imm.signExtend 24).toNat)
  | .movec d src => d.toNat = 0x33 && decide (4 < (e.src src.toNat).1.toNat)
  | _ => false

/-- What an instruction leaves to the end of instructions: the engine after its own effect, where it goes next if it
does not simply go on, registers it wrote late, the accesses it made, and its cycles. -/
structure Ret where
  jump : Option (BitVec 13) := none
  slot : Option Slot := none
  late : List (Nat × Nat) := []
  accs : List Acc := []
  cycles : Nat := 1

/-- Entry `j` of the loop stack as loop entries and ends see it (R243). -/
def Eng.lstkView (e : Eng) (j : Nat) : Loop :=
  { lc := BitVec.ofNat 24 (e.view (0x40 + 3 * j)), ls := BitVec.ofNat 13 (e.view (0x41 + 3 * j)),
    le := BitVec.ofNat 13 (e.view (0x42 + 3 * j)) }

/-- The loop-end check at the instruction fetched from LE (R245), on the loop registers as they were seen: the engine
with the loop advanced and, where it loops back, the next PC. -/
def Eng.endCheck (e0 e : Eng) : Eng × Option (BitVec 13) :=
  if e0.atLe then
    let lc := e0.view 0x30
    if 1 < lc then
      ({ e with loop := { e.loop with lc := BitVec.ofNat 24 (lc - 1) } }, some (BitVec.ofNat 13 (e0.view 0x31)))
    else
      let dep := e0.view 0x33 - 1
      if 0 < dep then
        ({ e with ldepth := dep, loop := e0.lstkView 0, lstk := #v[e0.lstkView 1, e0.lstkView 2, e.lstk[2]], once := false }, none)
      else ({ e with ldepth := 0, loop := { e.loop with lc := 0#24 }, once := false }, none)
  else (e, none)

/-- The end of an instruction that has taken effect: `e0` is the engine before it. The end check, the delay slot, the
next PC, the views of R243, the watchdog, a STEP or a deferred halt. -/
def Eng.retire (e0 e : Eng) (r : Ret) : Eng :=
  let c := e0.endCheck e
  -- A loop register that the instruction itself writes keeps what it wrote.
  let e := r.late.foldl (fun (x : Eng) (l : Nat × Nat) =>
    if (0x30 ≤ l.1 ∧ l.1 ≤ 0x33) ∨ 0x40 ≤ l.1 then x.put l.1 (BitVec.ofNat 24 (e.reg l.1)) else x) c.1
  let seq : BitVec 13 := match r.jump with
    | some p => p
    | none => match c.2 with | some p => p | none => e0.pc + 1
  let e := { e with
    a1 := e0.a
    sr1 := e0.sr
    sr2 := e0.sr1
    late := r.late
    slot := r.slot
    pc := seq
    dbg := if e.dbg.iaAt = some e0.pc then { e.dbg with iaAt := none } else e.dbg }
  let e := match e0.slot with
    | none => e
    | some (.branch none) => e
    | some (.branch (some t)) => { e with pc := t }
    | some (.rti pc st) => { e with pc := pc, sr := st &&& 0x1FF#24, fdepth := e.fdepth - 1 }.barrier
  let e := if e0.st = EngState.task then e.charge r.cycles else e
  let k := if e.steps = 0 then 0 else if e.steps = 1 ∧ e.slot.isSome then 1 else e.steps - 1
  let stop := (decide (e.steps ≠ 0) && decide (k = 0)) || (e.haltReq && e.slot.isNone && !e.lockOpen)
  if stop then { e with steps := 0, halted := true, haltReq := false, frozen := true } else { e with steps := k }

/-- The instruction has taken effect: retire it, with the cycles that the engine stood before it (R216), and let the comparators
act on it. -/
def State.engRetire (s : State) (g : Nat) (e0 : Eng) (r : Ret) : State :=
  let e1 := { s.engAt g with pc := e0.pc, task := e0.task }
  let cs := if e0.dbg.ctl.toList.all (fun k => !k.getLsbD 0) then []
    else e1.fired r.accs (fun c => decide (4 ≤ c) || bitsOf (e1.dbg.ctlAt c) 23 2 = 1)
  let n := s.engLag g
  (s.modEngAt g fun e => (e0.retire e r).charge n).engFire g e0.pc r.accs cs

/-- Run one instruction of engine `g`: where the word at the PC spells `op`, the instruction faults, or `f` gives its
effect. An IA comparator acts before it (R471). Otherwise nothing happens. -/
def State.engRun (s : State) (g : Nat) (op : EOp) (f : Eng → State → State) : State :=
  let e := s.engAt g
  if ¬ s.engReady g ∨ engDecode (s.engWord g) ≠ some op then s
  else
    match tget e.marks .clean e.pc.toNat with
    | .poisoned => s.engFault g 2 0 e.pc.toNat
    | _ =>
      if e.misplaced op ∨ e.illegalHere op then s.engFaultPc g 1
      else
        let cs := if e.dbg.iaAt = some e.pc then []
          else e.fired [] (fun c => decide (c < 4) && bitsOf (e.dbg.ctlAt c) 23 2 ≠ 1)
        if cs = [] then f e s
        else
          let s := (s.modEngAt g fun e => { e with dbg := { e.dbg with iaAt := some e.pc } }).engFire g e.pc [] cs
          let e' := s.engAt g
          if e'.halted ∨ (e'.dbgInt ∧ stBit e'.sr2 8 ∧ e'.slot = none ∧ ¬ e'.lockOpen) then s else f e' s

end Sys2Proof.Machine
end

