-- ==== Sys2Proof/Machine/EngAlu.lean ====
section
/-!
DEFINITION. Machine/EngAlu.lean: the parallel instructions: two moves beside an accumulator operation (R231 to R236).
Every source is read before any destination is written.
-/
namespace Sys2Proof.Machine

/-- What one move does: its memories, address, pointer, direction and register field. -/
structure MvPlan where
  space : Nat
  addr : BitVec 13
  next : BitVec 13
  y : Bool
  ptr : Fin 4
  mode : Nat
  store : Bool
  reg : Nat

/-- The address and post-modify of a move (R209, R232). In the instruction at LE of a block entered with count 1 an
offset is applied twice (KL-03). -/
def Eng.plan (e : Eng) (first : Bool) (m : Move) : Option MvPlan :=
  match m with
  | .none => none
  | .mv mode p n store reg =>
    let space := moveSpace first mode
    let y := decide (space = 1)
    let r := e.formAddr y (mode.val % 4) p n (e.atLe && e.once)
    some { space := space, addr := r.1, next := r.2, y := y, ptr := p, mode := mode.val % 4, store := store, reg := reg }

/-- The memories of a plan: X, Y or both. -/
def MvPlan.mems (p : MvPlan) : List EngMem := if p.space = 0 then [.x] else if p.space = 1 then [.y] else [.x, .y]

def Eng.memWord (e : Eng) (m : EngMem) (a : BitVec 13) : W24 :=
  match m with
  | .x => tget e.x 0#24 a.toNat
  | _ => tget e.y 0#24 a.toNat

def Eng.setMemWord (e : Eng) (m : EngMem) (a : BitVec 13) (v : W24) : Eng :=
  match m with
  | .x => { e with x := tput e.x 0#24 a.toNat v, marks := tput e.marks .clean (memKey .x a.toNat) .clean }
  | _ => { e with y := tput e.y 0#24 a.toNat v, marks := tput e.marks .clean (memKey .y a.toNat) .clean }

/-- Is a word that the engine reads uncorrectable (R205)? -/
def Eng.bad (e : Eng) (m : EngMem) (a : BitVec 13) : Bool := tget e.marks .clean (memKey m a.toNat) = .poisoned

/-- The first uncorrectable word that a load reads. -/
def Eng.badLoad (e : Eng) (p : Option MvPlan) : Option (EngMem × BitVec 13) :=
  match p with
  | none => none
  | some p => if p.store then none else (p.mems.find? fun m => e.bad m p.addr).map fun m => (m, p.addr)

/-- The registers of a load with the words they receive. -/
def Eng.loads (e : Eng) (p : Option MvPlan) : List (Nat × W24) :=
  match p with
  | none => []
  | some p =>
    if p.store then []
    else if p.space = 2 then [(2 * p.reg, e.memWord .x p.addr), (2 * p.reg + 1, e.memWord .y p.addr)]
    else [(p.reg, e.memWord (if p.space = 0 then .x else .y) p.addr)]

/-- The words that a store writes, and whether a conversion saturated: D as before the instruction, accumulators as
they stood two instructions before (R243). -/
def Eng.stores (e : Eng) (p : Option MvPlan) : List (EngMem × BitVec 13 × W24) × Bool :=
  match p with
  | none => ([], false)
  | some p =>
    if ¬ p.store then ([], false)
    else if p.space = 2 then
      ([(.x, p.addr, e.d[(2 * p.reg) % 8]), (.y, p.addr, e.d[(2 * p.reg + 1) % 8])], false)
    else
      let m : EngMem := if p.space = 0 then .x else .y
      if p.reg < 4 then ([(m, p.addr, e.d[p.reg % 8])], false)
      else
        let c := convert (e.a1[p.reg % 4]) e.sr1
        ([(m, p.addr, c.1)], c.2)

/-- The accesses of a plan, for the comparators. -/
def Eng.planAccs (e : Eng) (p : Option MvPlan) : List Acc :=
  let ld : List Acc := match p with
    | none => []
    | some p => if p.store then [] else
        p.mems.map fun m => { space := if m = .x then 0 else 1, write := false, addr := p.addr.toNat, data := some (e.memWord m p.addr) }
  let st : List Acc := (e.stores p).1.map fun w =>
    { space := if w.1 = .x then 0 else 1, write := true, addr := w.2.1.toNat, data := some w.2.2 }
  ld ++ st

/-- The pointer of a plan after the instruction. -/
def Eng.bump (e : Eng) (p : Option MvPlan) : Eng :=
  match p with
  | none => e
  | some p => e.advPtr p.y p.ptr p.mode p.next

/-- The engine after a parallel instruction. -/
def Eng.parStep (e : Eng) (op : AluOp) (acc : Fin 4) (sel : Fin 8) (m1 m2 : Move) : Eng :=
  let p1 := e.plan true m1
  let p2 := e.plan false m2
  let r := aluRun op acc sel e.d e.a e.sr1
  let sat := (e.stores p1).2 || (e.stores p2).2 || (decide (op = .rnd) && (convert (e.a[acc]) e.sr1).2)
  let sr := applyFl e.sr r.f
  let w := (e.stores p1).1 ++ (e.stores p2).1
  let l := e.loads p1 ++ e.loads p2
  let e := w.foldl (fun (x : Eng) s => x.setMemWord s.1 s.2.1 s.2.2) e
  let e := { e with
    a := r.w.foldl (fun (a : Vector W56 4) (x : Fin 4 × W56) => a.set x.1.val x.2) e.a
    d := l.foldl (fun (d : Vector W24 8) (x : Nat × W24) => d.set! x.1 x.2) e.d
    sr := if sat then setStBit sr 4 true else sr }
  (e.bump p1).bump p2

/-- A parallel instruction of engine `g`: FAULT UE where a load reads an uncorrectable word (R205), else its effect. -/
def State.engPar (s : State) (g : EngineId) (op : AluOp) (acc : Fin 4) (sel : Fin 8) (m1 m2 : Move) : State :=
  s.engRun g (.par op acc sel m1 m2) fun e s =>
    match e.badLoad (e.plan true m1), e.badLoad (e.plan false m2) with
    | some b, _ => s.engFault g 2 (memCode b.1) b.2.toNat
    | none, some b => s.engFault g 2 (memCode b.1) b.2.toNat
    | none, none =>
      (s.modEngAt g fun x => x.parStep op acc sel m1 m2).engRetire g e
        { accs := e.planAccs (e.plan true m1) ++ e.planAccs (e.plan false m2) }

/-- NOP: the moves alone (R235 OP 0). -/
def execNop (g : EngineId) (m1 m2 : Move) (s : State) : Out := .next (s.engPar g .nop 0 0 m1 m2)
/-- DMPY: aa := p0, ab := p1 (R235 OP 1). -/
def execDmpy (g : EngineId) (acc : Fin 4) (sel : Fin 8) (m1 m2 : Move) (s : State) : Out :=
  .next (s.engPar g .dmpy acc sel m1 m2)
/-- DMAC: aa + p0, ab + p1 (R235 OP 2). -/
def execDmac (g : EngineId) (acc : Fin 4) (sel : Fin 8) (m1 m2 : Move) (s : State) : Out :=
  .next (s.engPar g .dmac acc sel m1 m2)
/-- DMSA: aa − p0, ab + p1 (R235 OP 3). -/
def execDmsa (g : EngineId) (acc : Fin 4) (sel : Fin 8) (m1 m2 : Move) (s : State) : Out :=
  .next (s.engPar g .dmsa acc sel m1 m2)
/-- MPY2: p0 + p1 (R235 OP 4). -/
def execMpy2 (g : EngineId) (acc : Fin 4) (sel : Fin 8) (m1 m2 : Move) (s : State) : Out :=
  .next (s.engPar g .mpy2 acc sel m1 m2)
/-- MAC2: an + p0 + p1 (R235 OP 5). -/
def execMac2 (g : EngineId) (acc : Fin 4) (sel : Fin 8) (m1 m2 : Move) (s : State) : Out :=
  .next (s.engPar g .mac2 acc sel m1 m2)
/-- MAS2: an + p0 − p1 (R235 OP 6). -/
def execMas2 (g : EngineId) (acc : Fin 4) (sel : Fin 8) (m1 m2 : Move) (s : State) : Out :=
  .next (s.engPar g .mas2 acc sel m1 m2)
/-- MPY: p0 (R235 OP 7). -/
def execMpy (g : EngineId) (acc : Fin 4) (sel : Fin 8) (m1 m2 : Move) (s : State) : Out :=
  .next (s.engPar g .mpy acc sel m1 m2)
/-- MAC: an + p0 (R235 OP 8). -/
def execMac (g : EngineId) (acc : Fin 4) (sel : Fin 8) (m1 m2 : Move) (s : State) : Out :=
  .next (s.engPar g .mac acc sel m1 m2)
/-- MACN: an − p0 (R235 OP 9). -/
def execMacn (g : EngineId) (acc : Fin 4) (sel : Fin 8) (m1 m2 : Move) (s : State) : Out :=
  .next (s.engPar g .macn acc sel m1 m2)
/-- ADD: an + s (R235 OP 10). -/
def execAluAdd (g : EngineId) (acc : Fin 4) (sel : Fin 8) (m1 m2 : Move) (s : State) : Out :=
  .next (s.engPar g .add acc sel m1 m2)
/-- SUB: an − s (R235 OP 11). -/
def execAluSub (g : EngineId) (acc : Fin 4) (sel : Fin 8) (m1 m2 : Move) (s : State) : Out :=
  .next (s.engPar g .sub acc sel m1 m2)
/-- CMP: the flags of an − s (R235 OP 12). -/
def execAluCmp (g : EngineId) (acc : Fin 4) (sel : Fin 8) (m1 m2 : Move) (s : State) : Out :=
  .next (s.engPar g .cmp acc sel m1 m2)
/-- COPY: an := s (R235 OP 13). -/
def execCopy (g : EngineId) (acc : Fin 4) (sel : Fin 8) (m1 m2 : Move) (s : State) : Out :=
  .next (s.engPar g .copy acc sel m1 m2)
/-- MAX: the signed maximum (R235 OP 14). -/
def execAluMax (g : EngineId) (acc : Fin 4) (sel : Fin 8) (m1 m2 : Move) (s : State) : Out :=
  .next (s.engPar g .max acc sel m1 m2)
/-- CLR: an := 0 (R235 OP 15). -/
def execClr (g : EngineId) (acc : Fin 4) (m1 m2 : Move) (s : State) : Out := .next (s.engPar g .clr acc 0 m1 m2)
/-- RND: an rounded by the conversion of R208 (R235 OP 15). -/
def execRnd (g : EngineId) (acc : Fin 4) (m1 m2 : Move) (s : State) : Out := .next (s.engPar g .rnd acc 0 m1 m2)
/-- ABS (R235 OP 15). -/
def execAbs (g : EngineId) (acc : Fin 4) (m1 m2 : Move) (s : State) : Out := .next (s.engPar g .abs acc 0 m1 m2)
/-- NEG (R235 OP 15). -/
def execNeg (g : EngineId) (acc : Fin 4) (m1 m2 : Move) (s : State) : Out := .next (s.engPar g .neg acc 0 m1 m2)
/-- ASR #1 (R235 OP 15). -/
def execAsr1 (g : EngineId) (acc : Fin 4) (m1 m2 : Move) (s : State) : Out := .next (s.engPar g .asr1 acc 0 m1 m2)
/-- ASL #1 (R235 OP 15). -/
def execAsl1 (g : EngineId) (acc : Fin 4) (m1 m2 : Move) (s : State) : Out := .next (s.engPar g .asl1 acc 0 m1 m2)
/-- ASR #8 (R235 OP 15). -/
def execAsr8 (g : EngineId) (acc : Fin 4) (m1 m2 : Move) (s : State) : Out := .next (s.engPar g .asr8 acc 0 m1 m2)
/-- ASL #8 (R235 OP 15). -/
def execAsl8 (g : EngineId) (acc : Fin 4) (m1 m2 : Move) (s : State) : Out := .next (s.engPar g .asl8 acc 0 m1 m2)

/-! ### D-register operations (R238) -/

/-- A DALU instruction of engine `g`. -/
def State.engDalu (s : State) (g : EngineId) (op : DOp) (dd : Fin 8) (src : DSrc) : State :=
  s.engRun g (.dalu op dd src) fun e s =>
    let v := match src with | .reg r => e.d[r] | .imm i => i.signExtend 24
    let r := daluRun op e.d[dd] v
    (s.modEngAt g fun x =>
      { x with d := (match r.1 with | some w => x.d.set dd w | none => x.d), sr := applyFl x.sr r.2 }).engRetire g e {}

/-- ADD s,Dd (R238 OP 0). -/
def execDaluAdd (g : EngineId) (dd : Fin 8) (src : DSrc) (s : State) : Out := .next (s.engDalu g .add dd src)
/-- SUB s,Dd (R238 OP 1). -/
def execDaluSub (g : EngineId) (dd : Fin 8) (src : DSrc) (s : State) : Out := .next (s.engDalu g .sub dd src)
/-- CMP s,Dd (R238 OP 2). -/
def execDaluCmp (g : EngineId) (dd : Fin 8) (src : DSrc) (s : State) : Out := .next (s.engDalu g .cmp dd src)
/-- AND s,Dd (R238 OP 3). -/
def execDaluAnd (g : EngineId) (dd : Fin 8) (src : DSrc) (s : State) : Out := .next (s.engDalu g .and dd src)
/-- OR s,Dd (R238 OP 4). -/
def execDaluOr (g : EngineId) (dd : Fin 8) (src : DSrc) (s : State) : Out := .next (s.engDalu g .or dd src)
/-- XOR s,Dd (R238 OP 5). -/
def execDaluXor (g : EngineId) (dd : Fin 8) (src : DSrc) (s : State) : Out := .next (s.engDalu g .xor dd src)
/-- ASL s,Dd (R238 OP 6). -/
def execDaluAsl (g : EngineId) (dd : Fin 8) (src : DSrc) (s : State) : Out := .next (s.engDalu g .asl dd src)
/-- ASR s,Dd (R238 OP 7). -/
def execDaluAsr (g : EngineId) (dd : Fin 8) (src : DSrc) (s : State) : Out := .next (s.engDalu g .asr dd src)
/-- LSR s,Dd (R238 OP 8). -/
def execDaluLsr (g : EngineId) (dd : Fin 8) (src : DSrc) (s : State) : Out := .next (s.engDalu g .lsr dd src)
/-- MIN s,Dd (R238 OP 9). -/
def execDaluMin (g : EngineId) (dd : Fin 8) (src : DSrc) (s : State) : Out := .next (s.engDalu g .min dd src)
/-- MAX s,Dd (R238 OP 10). -/
def execDaluMax (g : EngineId) (dd : Fin 8) (src : DSrc) (s : State) : Out := .next (s.engDalu g .max dd src)
/-- TST s,Dd (R238 OP 11). -/
def execTst (g : EngineId) (dd : Fin 8) (src : DSrc) (s : State) : Out := .next (s.engDalu g .tst dd src)

end Sys2Proof.Machine
end

