-- ==== Sys2Proof/Machine/EngMove.lean ====
section
/-!
DEFINITION. Machine/EngMove.lean: LDI, LDIH, MOVEC, MOVEM (R237), STSET and STCLR (R241), branches (R239, R240, R242),
block repeats (R210, R245), RTI (R212) and the ILLEGAL encodings (R229).
-/
namespace Sys2Proof.Machine

/-- The late view that a write of register `c` leaves (R243): pointers, offsets, moduli, loop registers, IPC, ISTAT. -/
def Eng.lateOf (e : Eng) (c : Nat) : List (Nat × Nat) :=
  if (0x18 ≤ c ∧ c < 0x34) ∨ c = 0x35 ∨ c = 0x36 ∨ 0x40 ≤ c then [(c, e.reg c)] else []

/-- LDI: the sign-extended immediate (R237). -/
def State.engLdi (s : State) (g : EngineId) (r : BitVec 7) (imm : BitVec 19) : State :=
  s.engRun g (.ldi r imm) fun e s =>
    (s.modEngAt g fun x => x.put r.toNat (imm.signExtend 24)).engRetire g e { late := e.lateOf r.toNat }

def execLdi (g : EngineId) (r : BitVec 7) (imm : BitVec 19) (s : State) : Out := .next (s.engLdi g r imm)

/-- LDIH: bits [23:12] of a 24-bit register replaced (R237). -/
def State.engLdih (s : State) (g : EngineId) (r : BitVec 7) (imm : BitVec 12) : State :=
  s.engRun g (.ldih r imm) fun e s =>
    (s.modEngAt g fun x => x.put r.toNat (imm ++ BitVec.ofNat 12 (e.reg r.toNat))).engRetire g e
      { late := e.lateOf r.toNat }

def execLdih (g : EngineId) (r : BitVec 7) (imm : BitVec 12) (s : State) : Out := .next (s.engLdih g r imm)

/-- ST.L set where a conversion saturated (R208). -/
def Eng.satL (e : Eng) (b : Bool) : Eng := if b then { e with sr := setStBit e.sr 4 true } else e

/-- MOVEC: a register moved to a register (R230, R237). -/
def State.engMovec (s : State) (g : EngineId) (d src : BitVec 7) : State :=
  s.engRun g (.movec d src) fun e s =>
    let v := e.src src.toNat
    (s.modEngAt g fun x => (x.satL v.2).put d.toNat v.1).engRetire g e { late := e.lateOf d.toNat }

def execMovec (g : EngineId) (d src : BitVec 7) (s : State) : Out := .next (s.engMovec g d src)

/-- The address of a MOVEM and the engine with its pointer advanced (R209, R236). -/
def Eng.movemAddr (e : Eng) (y : Bool) (a : MemAddr) : BitVec 13 × Eng :=
  match a with
  | .abs a => (a, e)
  | .ptr mode p n =>
    let r := e.formAddr y mode p n (e.atLe && e.once)
    (r.1, e.advPtr y p mode r.2)

/-- MOVEM: a register stored to, or loaded from, X or Y (R237). -/
def State.engMovem (s : State) (g : EngineId) (r : BitVec 7) (store y : Bool) (a : MemAddr) : State :=
  s.engRun g (.movem r store y a) fun e s =>
    let m : EngMem := if y then .y else .x
    let t := e.movemAddr y a
    let acc (v : W24) : List Acc := [{ space := b2n y, write := store, addr := t.1.toNat, data := some v }]
    if store then
      let v := e.src r.toNat
      (s.modEngAt g fun x => ((x.movemAddr y a).2.setMemWord m t.1 v.1).satL v.2).engRetire g e { accs := acc v.1 }
    else
      let v := e.memWord m t.1
      if e.bad m t.1 then s.engFault g 2 (memCode m) t.1.toNat
      else if r.toNat = 0x33 ∧ 4 < v.toNat then s.engFaultPc g 1
      else
        (s.modEngAt g fun x => (x.movemAddr y a).2.put r.toNat v).engRetire g e
          { late := t.2.lateOf r.toNat, accs := acc v }

def execMovem (g : EngineId) (r : BitVec 7) (store y : Bool) (a : MemAddr) (s : State) : Out :=
  .next (s.engMovem g r store y a)

/-! ### ST -/

/-- STSET: st[8:0] or m (R241). -/
def State.engStset (s : State) (g : EngineId) (m : BitVec 9) : State :=
  s.engRun g (.stset m) fun e s =>
    (s.modEngAt g fun x => { x with sr := x.sr ||| m.setWidth 24 }).engRetire g e {}

def execStset (g : EngineId) (mask : BitVec 9) (s : State) : Out := .next (s.engStset g mask)

/-- STCLR: st[8:0] and not m (R241). -/
def State.engStclr (s : State) (g : EngineId) (m : BitVec 9) : State :=
  s.engRun g (.stclr m) fun e s =>
    (s.modEngAt g fun x => { x with sr := x.sr &&& ~~~(m.setWidth 24) }).engRetire g e {}

def execStclr (g : EngineId) (mask : BitVec 9) (s : State) : Out := .next (s.engStclr g mask)

/-! ### Branches: the target takes effect after the delay slot (R240, R242) -/

/-- Jcc on the flags as they stood two instructions before (R239, R243). -/
def State.engJcc (s : State) (g : EngineId) (cond : BitVec 4) (target : BitVec 13) : State :=
  s.engRun g (.jcc cond target) fun e s =>
    s.engRetire g e { slot := some (.branch (if condHolds cond.toNat e.sr1 = some true then some target else none)) }

def execJcc (g : EngineId) (cond : BitVec 4) (target : BitVec 13) (s : State) : Out := .next (s.engJcc g cond target)

/-- JSR: dn := the address of the delay slot + 1. -/
def State.engJsr (s : State) (g : EngineId) (dn : Fin 8) (target : BitVec 13) : State :=
  s.engRun g (.jsr dn target) fun e s =>
    (s.modEngAt g fun x => { x with d := x.d.set dn ((e.pc + 2).setWidth 24) }).engRetire g e
      { slot := some (.branch (some target)) }

def execJsr (g : EngineId) (dn : Fin 8) (target : BitVec 13) (s : State) : Out := .next (s.engJsr g dn target)

/-- JMP (Dn). -/
def State.engJmpDn (s : State) (g : EngineId) (dn : Fin 8) : State :=
  s.engRun g (.jmpDn dn) fun e s => s.engRetire g e { slot := some (.branch (some ((e.d[dn]).setWidth 13))) }

def execJmpDn (g : EngineId) (dn : Fin 8) (s : State) : Out := .next (s.engJmpDn g dn)

/-- RTI: pc := ipc and st := istat after the delay slot (R212, R241). -/
def State.engRti (s : State) (g : EngineId) : State :=
  s.engRun g .rti fun e s =>
    s.engRetire g e { slot := some (.rti (BitVec.ofNat 13 (e.view 0x35)) (BitVec.ofNat 24 (e.view 0x36))) }

def execRti (g : EngineId) (s : State) : Out := .next (s.engRti g)

/-! ### Block repeats (R245) -/

/-- The entry of a block repeat with count `c` and end `last`, on the loop registers as they were seen. -/
def State.engRep (s : State) (g : EngineId) (e : Eng) (c : Nat) (last : BitVec 13) : State :=
  if c = 0 then s.engRetire g e { jump := some (last + 1), cycles := 2 }
  else if e.view 0x33 = 4 then s.engFaultPc g 4
  else
    (s.modEngAt g fun x =>
      { x with
        lstk := if 0 < e.view 0x33 then
            #v[{ lc := BitVec.ofNat 24 (e.view 0x30), ls := BitVec.ofNat 13 (e.view 0x31), le := BitVec.ofNat 13 (e.view 0x32) },
               e.lstkView 0, e.lstkView 1]
          else x.lstk
        loop := { lc := BitVec.ofNat 24 c, ls := e.pc + 1, le := last }
        ldepth := e.view 0x33 + 1
        once := decide (c = 1) }).engRetire g e { cycles := 2 }

/-- REP: the count in LC. -/
def execRep (g : EngineId) (last : BitVec 13) (s : State) : Out :=
  .next (s.engRun g (.rep last) fun e s => s.engRep g e (e.view 0x30) last)

/-- REPI: LC := n, then as REP. -/
def execRepi (g : EngineId) (n last : BitVec 13) (s : State) : Out :=
  .next (s.engRun g (.repi n last) fun e s =>
    if n = 0#13 then (s.modEngAt g fun x => { x with loop := { x.loop with lc := 0#24 } }).engRep g e 0 last
    else s.engRep g e n.toNat last)

/-- ENDL: the pop of the end check without a jump (R240, R245). -/
def execEndl (g : EngineId) (s : State) : Out :=
  .next (s.engRun g .endl fun e s =>
    let dep := e.view 0x33 - 1
    (s.modEngAt g fun x =>
      if 0 < dep then
        { x with
          ldepth := dep
          loop := e.lstkView 0
          lstk := #v[e.lstkView 1, e.lstkView 2, x.lstk[2]]
          once := false }
      else { x with ldepth := 0, loop := { x.loop with lc := 0#24 }, once := false }).engRetire g e {})

/-! ### ILLEGAL (R229, R242, R245) -/

/-- The word at the PC spells no instruction, or one that is forbidden where it stands: FAULT ILLEGAL. -/
def State.engIllegal (s : State) (g : EngineId) : State :=
  let e := s.engAt g
  if ¬ s.engReady g then s
  else if e.bad .p e.pc then s.engFault g 2 0 e.pc.toNat
  else match engDecode (s.engWord g) with
    | none => s.engFaultPc g 1
    | some op => if e.misplaced op ∨ e.illegalHere op then s.engFaultPc g 1 else s

def execIllegalInstruction (g : EngineId) (s : State) : Out := .next (s.engIllegal g)

/-- BKPT (R241, R472): the action of DBG_ENGCTL.BKPT_ACT, with HIT bit 7; a NOP where that is 0. -/
def execBkpt (g : EngineId) (s : State) : Out :=
  .next (s.engRun g .bkpt fun e s =>
    let s := s.engRetire g e {}
    if e.dbg.bkptAct = 0 then s
    else
      let s := s.modEngAt g fun x => { x with dbg := { x.dbg with hit := x.dbg.hit ||| 0x80#8 } }
      s.engAction g e.pc e.dbg.bkptAct 7 none)

end Sys2Proof.Machine
end

