-- ==== Sys2Proof/Machine/Route.lean ====
section
/-!
DEFINITION. Machine/Route.lean: the global address map (R37) as request routing: the router that answers an address (R274,
R275), the contract flow that a request travels on (R291, R296), and what a contracted flow refuses.
-/
namespace Sys2Proof.Machine

/-! ### Address ranges (R37) -/

def fabricBase : Nat := 0x010040000000
def fabricTop : Nat := 0x0100A0000000
def hostBase : Nat := 0x020000000000
def ringBase : Nat := 0x030000000000
def doorbellBase : Nat := 0x040010000000
def doorbellTop : Nat := 0x040011000000
def strikeBase : Nat := 0x040020000000
def strikeTop : Nat := 0x040020200000

/-- Does [a, a + n) lie in [lo, hi)? -/
def within (a n lo hi : Nat) : Bool := lo ≤ a && a + n ≤ hi

/-- The place that a request addresses. -/
inductive Place where
  | dram (region : Nat)
  | vault
  | kit (k off : Nat)
  | fabric (sec off : Nat)
  | host
  | ring (q off : Nat)
  | ctl (off : Nat)
  | doorbell (q off : Nat)
  | strike (slot off : Nat)
  | hole
  deriving DecidableEq, Repr

/-- The place of [a, a + n): a hole where it does not lie in one piece of the map (R37, R39). -/
def State.place (s : State) (a n : Nat) : Place :=
  if a < vaultBase then
    (match s.regionAt a with
    | some g => if a + n ≤ (s.region g).base + (s.region g).size then .dram g else .hole
    | none => .hole)
  else if inVault a n then .vault
  else if inKits a n then
    let off := (a - kitBase) % kitStride
    if off + n ≤ kitStride then .kit ((a - kitBase) / kitStride) off else .hole
  else if within a n fabricBase fabricTop then
    let off := (a - fabricBase) % 0x1000000
    if off + n ≤ 0x1000000 then .fabric ((a - fabricBase) / 0x1000000) off else .hole
  else if within a n hostBase ringBase then .host
  else if within a n ringBase 0x040000000000 then
    let off := (a - ringBase) % 2 ^ 36
    if off + n ≤ 2 ^ 36 then .ring ((a - ringBase) / 2 ^ 36) off else .hole
  else if within a n 0x040000000000 0x040001500000 then .ctl (a - 0x040000000000)
  else if within a n doorbellBase doorbellTop then .doorbell ((a - doorbellBase) / 64) ((a - doorbellBase) % 64)
  else if within a n strikeBase strikeTop then .strike ((a - strikeBase) / 32) ((a - strikeBase) % 32)
  else .hole

/-- The router of a control-space slot (R274). -/
def slotRouter (off : Nat) : Nat :=
  match off / 0x100000 with
  | 3 => 126
  | 4 => 126
  | 6 => 132
  | 7 => 133
  | 9 => 5
  | 0xA => if off % 0x100000 < 0x80000 then dportRouter (off % 0x100000 / 0x10000) else 134
  | 0xD => 131
  | 0xE => laneRouter (off % 0x100 / 0x20)
  | 0xF => laneRouter (off % 0x200 / 0x40)
  | 0x10 => laneRouter (2 + off % 0x200 / 0x100)
  | 0x11 => if off % 0x200 / 0x100 = 0 then 0 else 13
  | _ => 134

/-- The port over which a ring peer is reached: the one with the smaller H (R382). -/
def State.ringPortOf (s : State) (q : Nat) : Nat :=
  let a := tget (s.ring 0).path {} q
  let b := tget (s.ring 1).path {} q
  if b.reach && (!a.reach || b.h < a.h) then 1 else 0

/-- The router that answers [a, a + n): for an uncontracted vault request the port that its start address names; none for
a hole. -/
def State.targetRouter (s : State) (a n : Nat) : Option Nat :=
  match s.place a n with
  | .dram g => some (dportRouter (regionMap (s.region g) a).1)
  | .vault => some (5 + a / 64 % 4)
  | .kit k _ => some (kitRouter k)
  | .fabric sec _ => some (sectorRouter sec)
  | .host => some 131
  | .ring q _ => some (if s.ringPortOf q = 0 then 0 else 13)
  | .ctl off => some (slotRouter off)
  | .doorbell _ _ => some 132
  | .strike _ _ => some 126
  | .hole => none

/-! ### Flows (R291, R296) -/

/-- Is router `n` a source of a flow? -/
def Flow.startsAt (f : Flow) (n : Nat) : Bool :=
  match f.src with
  | some m => m = n
  | none => (maskList 16 f.kits.toNat).any fun k => kitRouter k = n

/-- The contract, and within it the flow, that flow number `k` names at source router `n`. -/
def State.flowOf (s : State) (n k : Nat) : Option (Nat × Contract × Flow) :=
  s.contracts.findSome? fun c =>
    if c.2.st = .revoked then none
    else (c.2.flows.find? fun f => f.num == k && f.startsAt n).map fun f => (c.1, c.2, f)

/-- Does [a, a + n) lie in the declared destination of a flow? -/
def State.flowReaches (s : State) (f : Flow) (a n : Nat) : Bool :=
  match f.dst, s.place a n with
  | .ni _, .vault => (match f.dst with | .ni m => 5 ≤ m && m ≤ 8 | _ => false)
  | .ni m, _ => decide (s.targetRouter a n = some m)
  | .region r, .dram g => decide (g = r)
  | .peer q, .ring p _ => decide (p = q)
  | _, _ => false

/-- Does a contracted flow refuse a request (R291)? -/
def State.flowRefuses (s : State) (f : Flow) (write : Bool) (a n : Nat) : Bool :=
  f.write != write || decide (f.max < n) || !s.flowReaches f a n

/-- The largest request that router `n`'s initiator makes on a flow: 512 bytes, or MAX of a contracted flow (R276, R291). -/
def State.flowMax (s : State) (n flow : Nat) : Nat :=
  match s.flowOf n flow with | some c => c.2.2.max | none => 512

end Sys2Proof.Machine
end

