-- ==== Sys2Proof/Machine/EngTask.lean ====
section
/-!
DEFINITION. Machine/EngTask.lean: tasks (R214 to R217), kit DMA (R218, R219), queues (R220), locked sequences (R221,
R222), interrupts (R211, R212) and the write-back of corrected words (R205).
-/
namespace Sys2Proof.Machine

/-! ### Locked sequences released -/

/-- The word of an engine's open sequence is released by its bank. -/
def State.engUnlock (s : State) (g : EngineId) : State :=
  let s := s.modKitAt (g / 8) fun k => { k with locks := k.locks.filter fun l => decide (l.2.1 ≠ g) }
  { s with vlt.locks := s.vlt.locks.filter fun l => decide (l.2.1 ≠ Initiator.engine g) }

/-- Does the bank still hold the word of engine `g`'s sequence (R222)? -/
def State.engHolds (s : State) (g : EngineId) : Bool :=
  (s.kitAt (g / 8)).locks.any (fun l => l.2.1 = g) || s.vlt.locks.any fun l => l.2.1 = Initiator.engine g

/-! ### TAKE, and the end of a task -/

/-- TAKE: its address is recorded and the engine waits (R214). -/
def State.engTake (s : State) (g : EngineId) : State :=
  s.engRun g .take fun e s =>
    let s := s.engRetire g e { jump := some e.pc }
    s.modEngAt g fun x => { x with st := .waiting, takePc := e.pc }

def execTake (g : EngineId) (s : State) : Out := .next (s.engTake g)

/-- DONE starts the completion; DONE_COMPLETION ends it (R215). -/
def State.engDone (s : State) (g : EngineId) (nc : Bool) (status : Byte) : State :=
  s.engRun g (.done nc status) fun _ s => s.modEngAt g fun x => { x with stall := some (.done nc status) }

def execDone (g : EngineId) (nc : Bool) (status : Byte) (s : State) : Out := .next (s.engDone g nc status)

/-- The engine's task has ended: busy time since the counters were cleared (R269), the token given up, fencing that waited for the end (R224). -/
def State.taskEnd (s : State) (g : EngineId) : State :=
  let s := match tget s.tdu.running none g.val with
    | some (t, t0) =>
      if s.tdu.obs.mode = 2 ∧ inMask s.tdu.obs.groups.toNat (s.ctx t.ctx).group then
        let n := s.now - max t0 s.tdu.obs.start
        { s with tdu.obs.busy := tput s.tdu.obs.busy 0 g.val (tget s.tdu.obs.busy 0 g.val + n) }
      else s
    | none => s
  let s := { s with tdu.running := tput s.tdu.running none g.val none }
  s.modEngAt g fun x =>
    { x with
      task := 0#14
      wdog := 0#24
      st := .running
      pc := x.takePc
      ldepth := 0
      fenced := x.fenced || x.fencing
      fencing := false }

/-- Has every channel ended and every request of the engine been answered (R215)? -/
def State.engQuiet (s : State) (g : EngineId) : Bool :=
  (s.engAt g).chan.toList.all (fun c => c.desc.isNone) &&
  s.noc.req.all fun e => match e.2 with | some r => decide (r.who ≠ Initiator.engine g) | none => true

/-- DONE_COMPLETION (R215, R256): once nothing of the engine is outstanding and the queue has room, the completion token
is pushed and the engine returns to TAKEPC. A storage error drops the token with FAULT BUS (R248). -/
def State.engDoneEnd (s : State) (g : EngineId) : State :=
  match (s.engAt g).stall, tget s.tdu.running none g.val with
  | some (.done nc status), some (t, _) =>
    if (s.engAt g).halted ∨ ¬ s.engQuiet g then s
    else
      let c := s.ctx t.ctx
      let finish (s : State) : State :=
        let s := s.trace c.group t (some g.val) 3
        (s.taskEnd g).modEngAt g fun x => { x.barrier with stall := none }
      match c.compq with
      | some q =>
        if nc then finish s
        else
          let late := t.missed || s.reached c.group t.deadline
          match s.qPush q (s.completion t status.toNat 0 late (some g.val)) with
          | (.full, _) => s
          | (.ok, s') => finish (s'.modCtx t.ctx fun c => { c with seq := c.seq + 1 })
          | (.err _, s') => (s'.modEngAt g fun x => { x with stall := none }).engFaultPc g 3
      | none => finish s
  | _, _ => s

def execDoneCompletion (g : EngineId) (s : State) : Out := .next (s.engDoneEnd g)

/-- The engine's task is stopped (R217): KIND and cause of the completion and the fault. -/
def State.engStop (s : State) (g : EngineId) (kind cause : Nat) : State :=
  let s := { s with qcu.held := s.qcu.held.filter fun h => decide (h.who ≠ Holder.engine g) }
  let s := s.engUnlock g
  let s := match tget s.tdu.running none g.val with
    | some (t, _) =>
      let grp := (s.ctx t.ctx).group
      let s := s.completeHw t kind (t.missed || s.reached grp t.deadline) (some g.val) (.done g)
      s.trace grp t (some g.val) 4
    | none => s
  let s := s.engReport g cause 0 (s.engAt g).pc.toNat
  (s.taskEnd g).modEngAt g fun x =>
    { ({ x with sr := 0x40#24 } : Eng).barrier with
      stall := none
      lock := none
      fdepth := 0
      double := false
      once := false
      chan := x.chan.map fun c => if c.desc.isSome then { c with cut := true } else c }

/-- TASK_WATCHDOG_EXPIRY (R216, R217): the count of a running task has run out, through the cycles of its instructions
or those that have gone by since, in which an instruction stalls or waits. -/
def State.engExpire (s : State) (g : EngineId) : State :=
  let e := s.engAt g
  if s.engOn g ∧ e.st = .task ∧ ¬ e.halted ∧ e.wdog.toNat ≤ s.engLag g then s.engStop g 1 5 else s

def execTaskWatchdogExpiry (g : EngineId) (s : State) : Out := .next (s.engExpire g)

/-- DOUBLE_FAULT (R212, R217): a fault inside a FAULT handler stops the task, or outside a task the engine. -/
def State.engDouble (s : State) (g : EngineId) : State :=
  let e := s.engAt g
  if ¬ e.double then s
  else if e.st = .task then s.engStop g 2 6
  else
    ((s.engReport g 6 0 e.pc.toNat).engUnlock g).modEngAt g fun x =>
      { x with st := .stopped, double := false, fdepth := 0, lock := none, slot := none }

def execDoubleFault (g : EngineId) (s : State) : Out := .next (s.engDouble g)

/-! ### Requests of a kit (R218, R221, R277) -/

/-- The largest request of a kit on a flow. -/
def State.kitMax (s : State) (k flow : Nat) : Nat := s.flowMax (kitRouter k) flow

/-- A request of engine `g` enters its kit's network interface. -/
def State.kitReq (s : State) (g : EngineId) (op : NocOp) (flow a n : Nat) (bs : List Byte) (sink : Sink) : Nat × State :=
  let id := s.noc.nextReq
  let r : Req := { op := op, src := kitRouter (g / 8), dst := 0, flow := flow, owner := s.ownerOf (.engine g),
                   who := .engine g, addr := a, len := n, data := bs, sink := sink, since := s.now }
  (id, { s.setReq id (some r) with noc.nextReq := id + 1 })

/-- Does the side port serve kit `k` at [a, a + n): a dual-port address from kits 0 to 3 (R307)? -/
def sidePort (k a n : Nat) : Bool := k < 4 && vaultBase ≤ a && a + n ≤ vaultBase + 0x200000

/-- Does kit `k` reach [a, a + n) without the network: its own memories (R219), or the side port? -/
def kitDirect (k flow a n : Nat) : Bool :=
  flow = 0 && (within a n (kitBase + k * kitStride) (kitBase + (k + 1) * kitStride) || sidePort k a n)

/-- A read that does not use the network; none while a locked sequence holds its bank. -/
def State.directRead (s : State) (g : EngineId) (a n : Nat) : Option (NocStatus × List Byte × State) :=
  s.fastRead (.engine g) (s.ownerOf (.engine g)) a n

/-- A write that does not use the network; none while a locked sequence holds its bank or word. -/
def State.directWrite (s : State) (g : EngineId) (a : Nat) (bs : List Byte) : Option (NocStatus × State) :=
  s.fastWrite (.engine g) (s.ownerOf (.engine g)) a bs

/-! ### The start of a task (R214) -/

/-- Bytes of the argument block of a token. -/
def State.argBytes (s : State) (t : Token) : Nat := 4 * min (s.ctx t.ctx).argSize 128

/-- The argument block of the token that engine `g` holds: nothing to copy, the data where the kit reaches its source itself,
or what its requests have brought. -/
def State.argRead (s : State) (g : EngineId) (t : Token) : Option (NocStatus × List Byte × State) :=
  let n := s.argBytes t
  if n = 0 then some (.ok, [], s)
  else match (s.engAt g).argData with
    | some r => some (r.1, r.2, s)
    | none => if (s.engAt g).argReq.isSome then none else s.directRead g t.arg.toNat n

/-- The next request of an argument copy. -/
def State.argNext (s : State) (g : EngineId) (t : Token) (got : List Byte) : State :=
  let c := s.ctx t.ctx
  let n := min (s.argBytes t - got.length) (s.kitMax (g.val / 8) c.pflow)
  let r := s.kitReq g .read c.pflow (t.arg.toNat + got.length) n [] (.arg g)
  r.2.modEngAt g fun e => { e with argReq := some r.1, argGot := got }

/-- The response of an argument copy's request. -/
def State.argDeliver (s : State) (g : EngineId) (id : Nat) (st : NocStatus) (bs : List Byte) : State :=
  match tget s.tdu.running none g.val with
  | none => s
  | some (t, _) =>
    if (s.engAt g).argReq ≠ some id then s
    else if st ≠ .ok then s.modEngAt g fun e => { e with argData := some (st, []) }
    else
      let got := (s.engAt g).argGot ++ bs
      if got.length < s.argBytes t then s.argNext g t got
      else s.modEngAt g fun e => { e with argData := some (.ok, got) }

/-- The words of an argument block stored in Y from 0x1F80 up: the low 24 bits of each slot. -/
def Eng.argStore (e : Eng) (bs : List Byte) : Eng :=
  (List.range (bs.length / 4)).foldl
    (fun (x : Eng) i => x.setMemWord .y (BitVec.ofNat 13 (0x1F80 + i)) (BitVec.ofNat 24 (leNat ((bs.drop (4 * i)).take 3)))) e

/-- A token waits on engine `g` for its task to start. -/
def State.engHeld (s : State) (g : EngineId) : Option Token :=
  if (s.engAt g).st = .waiting ∧ ¬ (s.engAt g).halted then (tget s.tdu.running none g.val).map (·.1) else none

/-- TASK_START (R214): the arguments in Y, then TASK, DLN, ARG, the watchdog and the entry point. -/
def State.engStart (s : State) (g : EngineId) : State :=
  match s.engHeld g with
  | none => s
  | some t =>
    match s.argRead g t with
    | some (.ok, bs, s') =>
      let c := s.ctx t.ctx
      s'.modEngAt g fun x =>
        { x.argStore bs with
          task := BitVec.ofNat 14 t.ctx
          dln := t.deadline
          arg := t.arg
          wdog := BitVec.ofNat 24 c.budget
          wdogAt := s'.now * 5 / 4
          pc := c.entry
          st := .task
          argReq := none
          argGot := []
          argData := none }
    | _ => s

def execTaskStart (g : EngineId) (s : State) : Out := .next (s.engStart g)

/-- ARG_FAULT (R214, R223): an error response or poisoned data; the token completes ARG_FAULT and the engine stays
WAITING. -/
def State.engArgFault (s : State) (g : EngineId) : State :=
  match s.engHeld g with
  | none => s
  | some t =>
    match s.argRead g t with
    | none => s
    | some (.ok, _, _) => s
    | some (_, _, s') =>
      let grp := (s'.ctx t.ctx).group
      let s' := s'.completeHw t 3 (t.missed || s'.reached grp t.deadline) (some g.val) (.done g)
      let s' := (s'.trace grp t (some g.val) 8).engReport g 7 0 0
      let s' := { s' with tdu.running := tput s'.tdu.running none g.val none }
      s'.modEngAt g fun x =>
        { x with argReq := none, argGot := [], argData := none, fenced := x.fenced || x.fencing, fencing := false }

def execArgFault (g : EngineId) (s : State) : Out := .next (s.engArgFault g)

/-! ### Kit DMA (R218, R219) -/

/-- A descriptor at a Y address: none where a word of it is uncorrectable. -/
def Eng.descAt (e : Eng) (a : BitVec 13) : Option Desc :=
  let w (i : Nat) : Nat := (e.memWord .y (a + BitVec.ofNat 13 i)).toNat
  if (List.range 8).any fun i => e.bad .y (a + BitVec.ofNat 13 i) then none
  else some {
    src := BitVec.ofNat 48 (w 0 + 2 ^ 24 * w 1)
    dst := BitVec.ofNat 48 (w 2 + 2 ^ 24 * w 3)
    len := w 4
    flow := bitsOf (w 5) 0 4
    format := bitsOf (w 5) 4 2
    dstSel := bitsOf (w 5) 6 2
    srcSel := bitsOf (w 5) 8 2
    next := BitVec.ofNat 13 (w 6) }

/-- Are reserved bits of a descriptor set, or its FORMAT reserved, which R228 leaves unpredictable? -/
def Eng.descReserved (e : Eng) (a : BitVec 13) : Bool :=
  let w (i : Nat) : Nat := (e.memWord .y (a + BitVec.ofNat 13 i)).toNat
  decide (bitsOf (w 5) 4 2 = 3 ∨ bitsOf (w 5) 10 14 ≠ 0 ∨ bitsOf (w 6) 13 11 ≠ 0 ∨ w 7 ≠ 0)

def Eng.setChan (e : Eng) (c : Fin 4) (f : Chan → Chan) : Eng := { e with chan := e.chan.set c (f e.chan[c]) }

/-- A descriptor with every field free: what reserved bits set to one leave (R228). -/
def State.freeDesc (s : State) : Desc × State :=
  let v := (Config.freeBits 256 s.freeCount).toNat
  ({ src := BitVec.ofNat 48 v, dst := BitVec.ofNat 48 (v / 2 ^ 48), len := bitsOf v 96 24, flow := bitsOf v 120 4
     format := bitsOf v 124 2 % 3, dstSel := bitsOf v 126 2, srcSel := bitsOf v 128 2, next := BitVec.ofNat 13 (bitsOf v 130 13) },
   { s with freeCount := s.freeCount + 1 })

/-- The descriptor that a channel starts with at Y:d, and none where a word of it is uncorrectable. -/
def State.descFrom (s : State) (g : EngineId) (d : BitVec 13) : Option (Desc × State) :=
  let e := s.engAt g
  (e.descAt d).map fun x => if e.descReserved d then s.freeDesc else (x, s)

/-- KDMA: channel `c` starts with the descriptor at Y:d, or the engine waits while it is busy (R218). -/
def execKdma (g : EngineId) (c : Fin 4) (d : BitVec 13) (s : State) : Out :=
  .next (s.engRun g (.kdma c d) fun e s =>
    if (e.chan[c]).desc.isSome then s
    else match s.descFrom g d with
      | none => s.engFault g 2 2 d.toNat
      | some (x, s) =>
        let accs : List Acc :=
          (if x.srcSel = 0 then [{ space := 2, write := false, addr := x.src.toNat }] else []) ++
          (if x.dstSel = 0 then [{ space := 2, write := true, addr := x.dst.toNat }] else [])
        (s.modEngAt g fun y => y.setChan c fun _ => { desc := some x }).engRetire g e { accs := accs })

/-- KDMAW: waits until channel `c` is idle; FAULT BUS where it ended in error (R218). -/
def execKdmaw (g : EngineId) (c : Fin 4) (s : State) : Out :=
  .next (s.engRun g (.kdmaw c) fun e s =>
    if (e.chan[c]).desc.isSome then s
    else if (e.chan[c]).err then s.engFaultPc g 3
    else s.engRetire g e {})

/-- Is FLOW bound at kit `k` for owner `o` by a contract (R291)? -/
def State.kitFlow (s : State) (k flow : Nat) (o : Owner) : Bool :=
  match s.flowOf (kitRouter k) flow with
  | some c => c.2.1.owner = o
  | none => false

/-- What is wrong with a descriptor before it moves anything: ALIGN, FLOW, LOCAL (R219). -/
def State.descCheck (s : State) (g : EngineId) (d : Desc) : Option Nat :=
  let words (b : Nat) : Nat := (b + 3) / 4
  let dstBytes := if d.format = 1 then d.len / 3 * 4 else if d.format = 2 then d.len / 4 * 3 else d.len
  if d.len = 0 ∨ d.len % 4 ≠ 0 ∨ (d.format = 1 ∧ d.len % 12 ≠ 0) ∨ (d.srcSel = 0 ∧ d.src.toNat % 4 ≠ 0) ∨
      (d.dstSel = 0 ∧ d.dst.toNat % 4 ≠ 0) then some 2
  else if d.flow ≠ 0 ∧ ¬ s.kitFlow (g / 8) d.flow (s.ownerOf (.engine g)) then some 3
  else if (d.srcSel ≠ 0 ∧ 8192 < d.src.toNat % 8192 + words d.len) ∨
      (d.dstSel ≠ 0 ∧ 8192 < d.dst.toNat % 8192 + words dstBytes) then some 4
  else none

/-- The memory that DSTSEL or SRCSEL names. -/
def selMem (sel : Nat) : EngMem := if sel = 1 then .x else if sel = 2 then .y else .p

/-- The kit offset of a word of one of engine `g`'s own memories (R38). -/
def localOff (g sel w : Nat) : Nat :=
  g % 8 * 0x20000 + (if sel = 1 then 0x8000 else if sel = 2 then 0x10000 else 0) + 4 * (w % 8192)

/-- Three bytes sign-extended to a slot, for UNPACK24. -/
def unpack24 : List Byte → List Byte
  | a :: b :: c :: bs => a :: b :: c :: (if c.msb then 0xFF#8 else 0#8) :: unpack24 bs
  | _ => []

/-- The low three bytes of each slot, for PACK24. -/
def pack24 : List Byte → List Byte
  | a :: b :: c :: _ :: bs => a :: b :: c :: pack24 bs
  | _ => []

def reformat (format : Nat) (bs : List Byte) : List Byte :=
  if format = 1 then unpack24 bs else if format = 2 then pack24 bs else bs

/-- A channel ends in error (R219, R223): ERR, CODE, KIT_DMA_ERR, and FSRC 640 + k to the kit owner. -/
def State.kdmaError (s : State) (g : EngineId) (c : Fin 4) (code : Nat) (st : Option NocStatus) : State :=
  if ((s.engAt g).chan[c]).cut then s.modEngAt g fun e => e.setChan c fun _ => {}
  else
    let s := s.modEngAt g fun e =>
      { (e.setChan c fun _ => { err := true, status := st }) with kdmaCode := BitVec.ofNat 4 code }
    let k := g.val / 8
    let s := s.modKitAt k fun kt =>
      let n : BitVec 16 := BitVec.ofNat 16 (bitsOf kt.dmaErr.toNat 16 16)
      { kt with dmaErr := packW [(0, g.val % 8), (4, c.val), (8, code), (16, (satInc n).toNat)] }
    s.raiseC (640 + k) 3 [(s.kitAt k).owner] (srcBlock (640 + k)) (s.kitAt k).dmaErr

/-- The descriptor of channel `c` has moved its data: the chain continues or ends (R219). -/
def State.kdmaNext (s : State) (g : EngineId) (c : Fin 4) (d : Desc) : State :=
  let ch := (s.engAt g).chan[c]
  if ch.cut ∨ d.next = 0#13 then s.modEngAt g fun e => e.setChan c fun _ => {}
  else match s.descFrom g d.next with
    | some (x, s) => s.modEngAt g fun e => e.setChan c fun _ => { desc := some x }
    | none => s.kdmaError g c 5 none

/-- The next read request of a descriptor whose first `got` bytes have come (R277). -/
def State.kdmaFetch (s : State) (g : EngineId) (c : Fin 4) (d : Desc) (got : List Byte) : State :=
  let n := min (d.len - got.length) (s.kitMax (g.val / 8) d.flow)
  let r := s.kitReq g .read d.flow (d.src.toNat + got.length) n [] (.kdma g c)
  r.2.modEngAt g fun e => e.setChan c fun x => { x with got := got, req := some r.1 }

/-- The next write request of a descriptor whose data is `bs` and of which `put` bytes have been written. -/
def State.kdmaStore (s : State) (g : EngineId) (c : Fin 4) (d : Desc) (bs : List Byte) (put : Nat) : State :=
  let part := (bs.drop put).take (s.kitMax (g.val / 8) d.flow)
  let r := s.kitReq g .write d.flow (d.dst.toNat + put) part.length part (.kdma g c)
  r.2.modEngAt g fun e => e.setChan c fun x => { x with data := some bs, put := put + part.length, req := some r.1 }

/-- The destination write of a descriptor, whose data has been read. -/
def State.kdmaWrite (s : State) (g : EngineId) (c : Fin 4) (d : Desc) (bs : List Byte) : State :=
  let k := g.val / 8
  let finish (r : NocStatus × State) : State := if r.1 = .ok then r.2.kdmaNext g c d else r.2.kdmaError g c 1 (some r.1)
  if d.dstSel ≠ 0 then
    finish (s.kitWriteSlots (.engine g) k (localOff g d.dstSel d.dst.toNat)
      (spanOf 4 (localOff g d.dstSel d.dst.toNat) bs.length) bs)
  else if kitDirect k d.flow d.dst.toNat bs.length then
    match s.directWrite g d.dst.toNat bs with
    | some r => finish r
    | none => s.modEngAt g fun e => e.setChan c fun x => { x with data := some bs }
  else s.kdmaStore g c d bs 0

/-- KDMA_DESCRIPTOR_COMPLETE (R219): the present descriptor of channel `c` is carried out, as far as its source and
destination answer: all of its source is read before its destination is written, and its writes are complete before the next
descriptor begins. -/
def State.kdmaStep (s : State) (g : EngineId) (c : Fin 4) : State :=
  let ch := (s.engAt g).chan[c]
  let k := g.val / 8
  match ch.desc with
  | none => s
  | some d =>
    match s.descCheck g d with
    | some code => s.kdmaError g c code none
    | none =>
      match ch.status with
      | some st => s.kdmaError g c 1 (some st)
      | none =>
        if ch.done then s.kdmaNext g c d
        else if ch.req.isSome then s
        else match ch.data with
          | some bs => s.kdmaWrite g c d bs
          | none =>
            let into (r : NocStatus × List Byte × State) : State :=
              if r.1 = .ok then r.2.2.kdmaWrite g c d (reformat d.format (r.2.1.take d.len)) else r.2.2.kdmaError g c 1 (some r.1)
            if d.srcSel ≠ 0 then into (s.kitReadSlots (.engine g) k (spanOf 4 (localOff g d.srcSel d.src.toNat) d.len))
            else if kitDirect k d.flow d.src.toNat d.len then
              match s.directRead g d.src.toNat d.len with
              | some r => into r
              | none => s
            else s.kdmaFetch g c d []

def execKdmaDescriptorComplete (g : EngineId) (c : Fin 4) (s : State) : Out := .next (s.kdmaStep g c)

/-- The response of a descriptor's request reaches its channel (R218), which makes the next one. -/
def State.kdmaDeliver (s : State) (g : EngineId) (c : Fin 4) (id : Nat) (st : NocStatus) (bs : List Byte) : State :=
  let ch := (s.engAt g).chan[c]
  match ch.desc with
  | none => s
  | some d =>
    if ch.req ≠ some id then s
    else
      let s := s.modEngAt g fun e => e.setChan c fun x => { x with req := none, status := if st = .ok then none else some st }
      if st ≠ .ok then s
      else match ch.data with
        | none =>
          if (ch.got ++ bs).length < d.len then s.kdmaFetch g c d (ch.got ++ bs)
          else s.modEngAt g fun e => e.setChan c fun x => { x with got := [], data := some (reformat d.format (ch.got ++ bs)) }
        | some all =>
          if ch.put < all.length then s.kdmaStore g c d all ch.put
          else s.modEngAt g fun e => e.setChan c fun x => { x with done := true }

/-! ### Queues (R220, R241) -/

/-- Bytes of a SIZE code. -/
def sizeBytes (size : Fin 3) : Nat := 16 * 2 ^ size.val

/-- The Y addresses of a transfer of `n` words from PYn, consecutive and wrapping. -/
def Eng.yAddrs (e : Eng) (p : Fin 4) (n : Nat) : List (BitVec 13) :=
  (List.range n).map fun i => e.ptrView true p + BitVec.ofNat 13 i

/-- PYn advanced as by `k` post-increments (R241). -/
def Eng.yAdvance (e : Eng) (p : Fin 4) (k : Nat) : BitVec 13 :=
  (List.range k).foldl (fun a _ => ptrAdvance a 1#13 (e.modView true p)) (e.ptrView true p)

/-- The end of a PUSHQ that has been accepted. -/
def State.pushqEnd (s : State) (g : EngineId) (e : Eng) (q : Nat) (size : Fin 3) (n : Fin 4) (inc : Bool) : State :=
  let k := sizeBytes size / 4
  let v := e.yAdvance n k
  let s := s.modEngAt g fun x =>
    let x := { x with stall := none }
    if inc then { x with py := x.py.set n v } else x
  s.engRetire g e { cycles := 4 + k, accs := [{ space := 2, write := true, addr := (s.queue q).entry (s.queue q).pidx }] }

/-- PUSHQ (R220, R241): one entry from consecutive Y words. A full queue stalls the engine; an error response is FAULT
BUS. -/
def State.engPushq (s : State) (g : EngineId) (dq : Fin 8) (size : Fin 3) (n : Fin 4) (inc : Bool) : State :=
  s.engRun g (.pushq dq size n inc) fun e s =>
    let q := (e.d[dq]).toNat % 2 ^ 18
    let as := e.yAddrs n (sizeBytes size / 4)
    match as.find? fun a => e.bad .y a with
    | some a => s.engFault g 2 2 a.toNat
    | none =>
      let bs := (as.map fun a => leBytes 4 (e.memWord .y a).toNat).flatten
      if ¬ s.qSoftPush (s.ownerOf (.engine g)) q bs.length then (s.noteOwner (.engine g)).engFaultPc g 3
      else match s.qPush q bs with
        | (.ok, s') => s'.pushqEnd g e q size n inc
        | (.full, s') => (s'.hold (.engine g) q bs).modEngAt g fun x => { x with stall := some .pushq }
        | (.err _, s') => s'.engFaultPc g 3

def execPushq (g : EngineId) (dq : Fin 8) (size : Fin 3) (n : Fin 4) (inc : Bool) (s : State) : Out :=
  .next (s.engPushq g dq size n inc)

/-- A stalled PUSHQ whose entry has been accepted, or refused by its storage (R248, R251). -/
def State.pushqResume (s : State) (g : EngineId) (okay : Bool) : State :=
  let e := s.engAt g
  match engDecode e.word with
  | some (.pushq dq size n inc) =>
    if e.stall ≠ some .pushq then s
    else if okay then s.pushqEnd g e ((e.d[dq]).toNat % 2 ^ 18) size n inc
    else (s.modEngAt g fun x => { x with stall := none }).engFaultPc g 3
  | _ => s

/-- POPQ (R220, R241): the head entry into consecutive Y words; an empty queue sets Z. -/
def State.engPopq (s : State) (g : EngineId) (dq : Fin 8) (size : Fin 3) (n : Fin 4) (inc : Bool) : State :=
  s.engRun g (.popq dq size n inc) fun e s =>
    let q := (e.d[dq]).toNat % 2 ^ 18
    let k := sizeBytes size / 4
    if ¬ s.qSoftPop (s.ownerOf (.engine g)) q ∨ (s.queue q).bytes ≠ sizeBytes size then
      (s.noteOwner (.engine g)).engFaultPc g 3
    else
      let acc : Acc := { space := 2, write := false, addr := (s.queue q).entry (s.queue q).cidx }
      let r := s.qPop q
      if r.1 = .empty then
        (r.2.2.modEngAt g fun x => { x with sr := setStBit x.sr 2 true }).engRetire g e { cycles := 6 }
      else if r.1 ≠ .ok then r.2.2.engFaultPc g 3
      else
        let ws := (e.yAddrs n k).zipIdx.map fun p => (p.1, BitVec.ofNat 24 (leNat ((r.2.1.drop (4 * p.2)).take 3)))
        (r.2.2.modEngAt g fun x =>
          let x := ws.foldl (fun (x : Eng) (w : BitVec 13 × W24) => x.setMemWord .y w.1 w.2) x
          let x := { x with sr := setStBit x.sr 2 false }
          if inc then { x with py := x.py.set n (e.yAdvance n k) } else x).engRetire g e { cycles := 6 + k, accs := [acc] }

def execPopq (g : EngineId) (dq : Fin 8) (size : Fin 3) (n : Fin 4) (inc : Bool) (s : State) : Out :=
  .next (s.engPopq g dq size n inc)

/-! ### LOCK and UNLOCK (R221, R222, R241) -/

/-- Words of 24 bits from a byte string, the layout of LOCK in Y: `k` words. -/
def yWords (k v : Nat) : List W24 := (List.range k).map fun i => BitVec.ofNat 24 (v / 2 ^ (24 * i))

/-- The address of the word that a sequence is on, for the comparators. -/
def lockAddr (g : Nat) (vault : Bool) (w : Nat) : Nat :=
  if vault then vaultBase + 16 * w else kitBase + g / 8 * kitStride + 0x100000 + 4 * w

/-- The word of a LOCK has been returned: it goes to Y, and the sequence is open (R241). -/
def State.lockEnd (s : State) (g : EngineId) (e : Eng) (vault : Bool) (w : Nat) (n : Fin 4) (cnt v : Nat) : State :=
  let s := s.modEngAt g fun x =>
    let x := ((e.yAddrs n cnt).zip (yWords cnt v)).foldl
      (fun (x : Eng) (p : BitVec 13 × W24) => x.setMemWord .y p.1 p.2) x
    { x with stall := none, lock := some { vault := vault, word := w, broken := false, since := s.now } }
  s.engRetire g e { cycles := 3, accs := [{ space := 2, write := false, addr := lockAddr g vault w }] }

/-- A grant of a vault word to an engine: the word, and its status (R221). -/
def State.vaultGrant (s : State) (g : EngineId) (o : Owner) (w : Nat) : NocStatus × List Byte × State :=
  let r := s.vaultRead (.engine g) o (16 * w) 16
  if r.1 = .ok then (.ok, r.2.1, { r.2.2 with vlt.locks := r.2.2.vlt.locks ++ [(w, Initiator.engine g, s.now)] }) else r

/-- LOCK: the sequence opens on a kit or vault word, which is returned in Y. A word or bank that another sequence holds makes
it wait. Kits 0 to 3 reach dual-port words through the side port; any other vault word takes a request (R276, R307). -/
def State.engLock (s : State) (g : EngineId) (vault : Bool) (da : Fin 8) (n : Fin 4) : State :=
  s.engRun g (.lock vault da n) fun e s =>
    let k := g.val / 8
    let w := if vault then (e.d[da]).toNat % 2 ^ 21 else (e.d[da]).toNat % 2 ^ 16
    if vault then
      if ¬ sidePort k (vaultBase + 16 * w) 16 then
        let r := s.kitReq g .lock 0 (vaultBase + 16 * w) 16 [] (.lock g)
        r.2.modEngAt g fun x => { x with stall := some (.lock r.1) }
      else if s.vlt.locks.any fun l => l.1 = w then s
      else
        let r := s.vaultGrant g (s.ownerOf (.engine g)) w
        if r.1 = .ok then r.2.2.lockEnd g e true w n 6 (leNat r.2.1) else r.2.2.engFaultPc g 3
    else if (s.kitAt k).owner ≠ s.ownerOf (.engine g) then (s.noteOwner (.engine g)).engFaultPc g 3
    else if s.kitBankHeld k w then s
    else
      let r := s.extRead .kit g w
      if r.1 = .ok then
        (r.2.2.modKitAt k fun t => { t with locks := t.locks ++ [(w, g, s.now)] }).lockEnd g e false w n 2 r.2.1.toNat
      else r.2.2.engFault g 2 3 w

def execLock (g : EngineId) (vault : Bool) (da : Fin 8) (n : Fin 4) (s : State) : Out :=
  .next (s.engLock g vault da n)

/-- KIT_LOCK.BROKEN counts a break (R222, R226). -/
def State.countBreak (s : State) (g : EngineId) : State := s.modKitAt (g.val / 8) fun k => { k with broken := satInc k.broken }

/-- The end of an UNLOCK: the sequence closes, and LBRK says whether it stored nothing because it was broken (R222). -/
def State.unlockEnd (s : State) (g : EngineId) (e : Eng) (lbrk : Bool) (accs : List Acc) : State :=
  let s := (s.engUnlock g).modEngAt g fun x => { x with stall := none, lock := none, sr := setStBit x.sr 5 lbrk }
  s.engRetire g e { cycles := 2, accs := accs }

/-- The close of a sequence on a vault word at its bank: false where the bank has released the word (R222). -/
def State.vaultClose (s : State) (g : EngineId) (o : Owner) (w : Nat) (data : List Byte) : NocStatus × Bool × State :=
  if ¬ s.vlt.locks.any fun l => l.1 = w ∧ l.2.1 = Initiator.engine g then (.ok, false, s)
  else
    let r := if data = [] then (.ok, s) else s.vaultWrite (.engine g) o (16 * w) data
    (r.1, true, r.2.engUnlock g)

/-- The open time of a sequence in engine cycles (R222). -/
def State.openTime (s : State) (l : LockSeq) : Nat := (s.now - l.since) * 5 / 4

/-- UNLOCK: an unbroken sequence stores if asked and clears LBRK; a broken one, or one whose bank has released the word,
stores nothing and sets LBRK. Of a sequence that was open for more than 16 cycles it is free which (R228). -/
def State.engUnlockInstr (s : State) (g : EngineId) (store : Bool) (n : Fin 4) : State :=
  s.engRun g (.unlock store n) fun e s =>
    match e.lock with
    | none => s
    | some l =>
      let late := if 16 < s.openTime l then s.fresh 1 else (0#1, s)
      let s := late.2
      let k := g.val / 8
      if l.broken ∨ late.1 = 1#1 then s.unlockEnd g e true []
      else
        let as := if store then e.yAddrs n (if l.vault then 6 else 2) else []
        match as.find? fun a => e.bad .y a with
        | some a => s.engFault g 2 2 a.toNat
        | none =>
          let v := as.zipIdx.foldl (fun (v : Nat) (p : BitVec 13 × Nat) => v + (e.memWord .y p.1).toNat * 2 ^ (24 * p.2)) 0
          let accs : List Acc := if store then [{ space := 2, write := true, addr := lockAddr g l.vault l.word }] else []
          let data := if store then leBytes 16 v else []
          if ¬ l.vault then
            if ¬ s.engHolds g then (s.countBreak g).unlockEnd g e true []
            else ((if store then (s.extWrite .kit g l.word 0 (leBytes 4 v)).2 else s)).unlockEnd g e false accs
          else if sidePort k (vaultBase + 16 * l.word) 16 then
            let r := s.vaultClose g (s.ownerOf (.engine g)) l.word data
            if ¬ r.2.1 then (r.2.2.countBreak g).unlockEnd g e true []
            else if r.1 = .ok then r.2.2.unlockEnd g e false accs
            else (r.2.2.modEngAt g fun x => { x with lock := none }).engFaultPc g 3
          else
            let r := s.kitReq g .unlock 0 (vaultBase + 16 * l.word) 16 data (.lock g)
            r.2.modEngAt g fun x => { x with stall := some (.unlock r.1 l.word), lock := none }

/-- The response of a LOCK or UNLOCK request (R221). One that its engine no longer waits for releases what it was granted. -/
def State.lockDeliver (s : State) (g : EngineId) (id : Nat) (st : NocStatus) (bs : List Byte) : State :=
  let e := s.engAt g
  let refused (s : State) : State := (s.modEngAt g fun x => { x with stall := none }).engFaultPc g 3
  match e.stall, engDecode e.word with
  | some (.lock i), some (.lock true da n) =>
    if i ≠ id then s.engUnlock g
    else if st = .ok then s.lockEnd g { e with stall := none } true ((e.d[da]).toNat % 2 ^ 21) n 6 (leNat bs)
    else refused s
  | some (.unlock i w), some (.unlock store _) =>
    if i ≠ id then s.engUnlock g
    else if st ≠ .ok then refused s
    else if bs = [1#8] then (s.countBreak g).unlockEnd g { e with stall := none } true []
    else s.unlockEnd g { e with stall := none } false (if store then [{ space := 2, write := true, addr := lockAddr g true w }] else [])
  | _, _ => s.engUnlock g

def execUnlock (g : EngineId) (store : Bool) (n : Fin 4) (s : State) : Out := .next (s.engUnlockInstr g store n)

/-- LOCK_BREAK (R222): the open time has reached 256 engine cycles of 0.8 ns. Halts that waited are taken. -/
def State.engLockBreak (s : State) (g : EngineId) : State :=
  let e := s.engAt g
  match e.lock with
  | none => s
  | some l =>
    if l.broken ∨ (s.now - l.since) * 5 < 256 * 4 then s
    else
      let s := ((s.engUnlock g).countBreak g).modEngAt g fun x => { x with lock := some { l with broken := true } }
      if e.haltReq ∧ e.slot = none then s.engHaltNow g else s

def execLockBreak (g : EngineId) (s : State) : Out := .next (s.engLockBreak g)

/-- BANK_LOCK_RELEASE (R222): the bank's own limit, 320 engine cycles after the grant for kit memory and 2 µs for the
vault. -/
def State.bankRelease (s : State) (g : EngineId) : State :=
  let s := s.modKitAt (g.val / 8) fun k =>
    { k with locks := k.locks.filter fun l => !(decide (l.2.1 = g) && decide (320 * 4 ≤ (s.now - l.2.2) * 5)) }
  { s with vlt.locks := s.vlt.locks.filter fun l =>
      !(decide (l.2.1 = Initiator.engine g) && decide (2000 ≤ s.now - l.2.2)) }

def execBankLockRelease (g : EngineId) (s : State) : Out := .next (s.bankRelease g)

/-! ### Interrupts (R211, R212) -/

/-- Is a vector pending and enabled? -/
def Eng.wants (e : Eng) : IntVector → Bool
  | .debug => e.dbgInt
  | .urge => e.urge && e.ien.getLsbD 0
  | .software => e.swi && e.ien.getLsbD 1

/-- Vectors of higher priority (R211). -/
def higher : IntVector → List IntVector
  | .debug => []
  | .urge => [.debug]
  | .software => [.debug, .urge]

def vectorAddr : IntVector → Nat
  | .debug => 8
  | .urge => 12
  | .software => 16

/-- A boundary at which engine `g` accepts maskable interrupts (R212): no delay slot, no open sequence, IE as it stood
before the two latest instructions, or as it stands while the engine waits in TAKE. -/
def State.intBoundary (s : State) (g : EngineId) : Bool :=
  let e := s.engAt g
  s.engOn g && !e.halted && !e.fenced && !e.double && e.stall.isNone && e.slot.isNone && !e.lockOpen &&
  (decide (e.steps = 0) || e.dbg.stepInt) &&
  (match e.st with
    | .running => stBit e.sr2 8
    | .task => stBit e.sr2 8
    | .waiting => stBit e.sr 8 && (tget s.tdu.running none g.val).isNone
    | _ => false)

/-- INTERRUPT_ACCEPT (R212): IPC and ISTAT saved, IE cleared, PC at the vector; the pending bit clears. -/
def State.engInterrupt (s : State) (g : EngineId) (v : IntVector) : State :=
  let e := s.engAt g
  if ¬ s.intBoundary g ∨ ¬ e.wants v ∨ (higher v).any e.wants then s
  else s.modEngAt g fun x =>
    let x := { x.enter (vectorAddr v) x.pc with fdepth := if x.fdepth = 0 then 0 else x.fdepth + 1 }
    match v with
    | .debug => { x with dbgInt := false }
    | .urge => { x with urge := false }
    | .software => { x with swi := false }

def execInterruptAccept (g : EngineId) (v : IntVector) (s : State) : Out := .next (s.engInterrupt g v)

/-- ENG_SWI_SET (R211, R225): a write of 1 to ENG_SWI.SET by the kit owner raises SOFTWARE. -/
def execEngSwiSet (who : Initiator) (g : EngineId) (v : BitVec 32) (s : State) : Out :=
  .next (s.inHostOrder who (kitBase + g.val / 8 * kitStride + g.val % 8 * 0x20000 + 0x18024) none (leBytes 4 v.toNat) fun s =>
    if s.engOn g then s.engRegWrite who g.val 0x24 v else s)

/-- KIT_LOCK_READ (R226): the count of broken locks, cleared by the read; a debug read is a peek (R475). -/
def execKitLockRead (who : Initiator) (k : KitId) (s : State) : Out :=
  .next (s.inHostOrder who (kitBase + k.val * kitStride + 0x1F0014) (some 4) [] fun s =>
    if s.kitOn k then s.rcRead who ((s.kitAt k).broken.setWidth 32) fun s => s.modKitAt k fun t => { t with broken := 0#16 }
    else { s with readData := leBytes 4 0 })

/-- ECC_WRITEBACK (R205): a corrected word of engine or kit memory is written back in an idle cycle and counted. -/
def execEccWriteback (g : EngineId) (mem : EngMem) (addr : BitVec 16) (s : State) : Out :=
  .next (if s.engOn g ∧ (mem = .kit ∨ addr.toNat < 8192) ∧ s.cellMark mem g addr.toNat ≠ .poisoned then
    s.putRight mem g addr.toNat else s)

end Sys2Proof.Machine
end

