-- ==== Sys2Proof/Machine/Tdu.lean ====
section
/-!
DEFINITION. Machine/Tdu.lean: queues and task dispatch: the doorbell page and the pop window (R249, R250), token release,
handover and misses (R259 to R264), the admission test (R265, R266), observation (R267 to R269), the registers (R270,
R271) and commands of family 0x05xx (R272), engine commands (R227) and the remap of R224.
-/
namespace Sys2Proof.Machine

/-! ### Doorbell page and pop window -/

/-- The write of a doorbell page as a request of the network, on flow 0 of the initiator's network interface. -/
def State.pushReq (s : State) (who : Initiator) (n : Nat) (bs : List Byte) (stage : ReqStage) : Req :=
  { op := .write, src := initRouter who, dst := 132, flow := 0, owner := s.ownerOf who, who := who, addr := doorbellBase + 64 * n
    len := bs.length, data := bs, stage := stage, since := s.now }

/-- Does an earlier request hold back a new one of flow 0 at an initiator's network interface (R251, R283, R284)? -/
def State.flowHeld (s : State) (who : Initiator) : Bool :=
  s.noc.req.any fun (e : Nat × Option Req) => match e.2 with
    | some r => r.src == initRouter who && (r.op == .fence || (r.flow == 0 && decide (r.stage = .waiting ∨ r.stage = .retry)))
    | none => false

/-- A push of the network: one that must wait, for room or behind a request of its flow, stays in its network interface (R251). -/
def State.netPush (s : State) (who : Initiator) (n : Nat) (bs : List Byte) : State :=
  let id := s.noc.nextReq
  let wait (st : ReqStage) : State := { s.setReq id (some (s.pushReq who n bs st)) with noc.nextReq := id + 1 }
  if s.flowHeld who then wait .waiting
  else if ¬ s.qSoftPush (s.ownerOf who) n bs.length then s.doorbellDrop who
  else match s.qPush n bs with
    | (.full, _) => (wait .retry).hold (.ni id) n bs
    | (_, s') => s'

/-- A write of `bs` to the PUSH offset of queue `n` by `who` (R249, R251): accepted, held while the queue is full, or
dropped. A host push waits in the receive buffer, and one that its storage refuses is a dropped write (R248). -/
def State.doorbellPush (s : State) (who : Initiator) (n : Nat) (bs : List Byte) : State :=
  match who with
  | .pf _ =>
    if ¬ s.qSoftPush (s.ownerOf who) n bs.length then s.doorbellDrop who
    else (match s.qPush n bs with
      | (.ok, s') => s'
      | (.full, s') => s'.hold (.initiator who) n bs
      | (.err _, s') => { s' with pce.errDrop := satInc s'.pce.errDrop })
  | _ => s.netPush who n bs

def execDoorbellPush (who : Initiator) (q : QueueId) (data : List Byte) (s : State) : Out :=
  .next (s.inHostOrder who (doorbellBase + 64 * q.val) none data fun s => s.doorbellPush who q.val data)

/-- CONSUME (R249): CIDX advances by 1 to the count; 0 does nothing and more than the count empties the queue, both with
the note of FSRC 656. -/
def State.consume (s : State) (who : Initiator) (n v : Nat) : State :=
  if ¬ s.qSoftPop (s.ownerOf who) n ∨ v = 0 then s.doorbellDrop who
  else
    let q := s.queue n
    if q.count < v then (s.setQueue n { q with cidx := q.pidx }).raiseBy 656 who (s.ownerOf who)
    else s.setQueue n { q with cidx := q.adv q.cidx v }

def execConsume (who : Initiator) (q : QueueId) (n : BitVec 32) (s : State) : Out :=
  .next (s.inHostOrder who (doorbellBase + 64 * q.val + 0x38) none (leBytes 4 n.toNat) fun s => s.consume who q.val n.toNat)

/-- What the pop window holds for an initiator: the reset values for one that has popped nothing (DEDUCED, log 121). -/
def PopWin.captured (w : PopWin) (who : Initiator) : PopCap :=
  match w.caps.find? fun e => e.1 = who with | some e => e.2 | none => {}

def PopWin.capture (w : PopWin) (who : Initiator) (c : PopCap) : PopWin :=
  { w with caps := (w.caps.filter fun e => e.1 ≠ who) ++ [(who, { c with words := padTo 64 c.words })] }

/-- A pop window read that `who` has made: the captured words and status, the count after it, and the first word returned. -/
def State.popDone (s : State) (who : Initiator) (o : Owner) (st : NocStatus) (bs : List Byte) (count : Nat) : State :=
  { s.modWin o.val (fun w =>
      { w.capture who { words := bs, valid := decide (st = .ok), err := decide (st ≠ .ok ∧ st ≠ .empty), count := count } with
        count := count }) with
    readData := (padTo 4 bs).take 4 }

/-- A read of QCU_POP_o_0 (R250): pops the head of the selected queue, captures the entry and POPSTAT, and returns the
first word. A refused or failed pop removes nothing. A debug read peeks: nothing is popped, and COUNT stays that of the last
real pop (R475, KL-08). -/
def State.popWindow (s : State) (who : Initiator) (o : Owner) : State :=
  if ¬ s.passes who o then { s with readData := leBytes 4 0 }
  else
    let n := (s.win o.val).sel
    let stale := (s.win o.val).count
    if ¬ s.qSoftPop o n then
      (if isDebug who then s
        else (s.modWin o.val fun w => { w with dbdrop := satInc w.dbdrop }).raiseBy 656 who o).popDone who o .notOwner [] stale
    else if isDebug who then let r := s.qHead n; r.2.2.popDone who o r.1 r.2.1 stale
    else let r := s.qPop n; r.2.2.popDone who o r.1 r.2.1 (r.2.2.queue n).count

def execPopWindowPop (who : Initiator) (o : Owner) (s : State) : Out :=
  .next (s.inHostOrder who (ctlBase + 0x601040 + 0x100 * o.val) (some 4) [] fun s => s.popWindow who o)

/-- QCU_HOSTDROP (R270): read and cleared. -/
def execQcuHostdropRead (who : Initiator) (s : State) : Out :=
  .next (s.inHostOrder who (ctlBase + 0x600008) (some 4) [] fun s =>
    s.rcRead who s.qcu.hostDrop fun s => { s with qcu.hostDrop := 0#32 })

/-- QCU_DBDROP_o (R270): read and cleared by owner o; zero to others. -/
def execQcuDbdropRead (who : Initiator) (o : Owner) (s : State) : Out :=
  .next (s.inHostOrder who (ctlBase + 0x60100C + 0x100 * o.val) (some 4) [] fun s =>
    if ¬ s.passes who o then { s with readData := leBytes 4 0 }
    else s.rcRead who (s.win o.val).dbdrop fun s => s.modWin o.val fun w => { w with dbdrop := 0#32 })

/-- TDU_GRP_MISS_n (R271): read and cleared. -/
def execTduGrpMissRead (who : Initiator) (n : GroupId) (s : State) : Out :=
  .next (s.inHostOrder who (ctlBase + 0x700014 + 0x40 * n.val) (some 4) [] fun s =>
    s.rcRead who (s.grp n.val).misses fun s => s.modGrp n.val fun g => { g with misses := 0#32 })

/-- QUEUE_PUSH_ACCEPT (R248, R254): a push that reaches the QCU finds room and is accepted; software reaches MESSAGE and
TASK queues, hardware any (R246). -/
def execQueuePushAccept (who : Initiator) (q : QueueId) (data : List Byte) (s : State) : Out :=
  let mine : Bool := match who with
    | .unit o => (s.queue q.val).owner = o
    | _ => s.qSoftPush (s.ownerOf who) q.val data.length
  .next (if mine then (match s.qPush q.val data with | (.ok, s') => s' | (.err _, s') => s' | (.full, _) => s) else s)

/-! ### Tokens and the ready store -/

/-- Engines of a group, lowest first. -/
def State.grpEngines (s : State) (n : Nat) : List EngineId :=
  (List.finRange 128).filter fun g => (s.grp n).engines.contains g

/-- Is engine `g` eligible (R261)? -/
def State.engEligible (s : State) (g : EngineId) : Bool :=
  let e := s.engAt g
  s.engOn g && decide (e.st = EngState.waiting) && !e.halted && !e.fenced && (tget s.tdu.running none g.val).isNone

/-- Tokens of a group in the ready store. -/
def State.grpTokens (s : State) (n : Nat) : List Token := s.tdu.ready.filter fun t => (s.ctx t.ctx).group = n

/-- Sum of RESERVE over all contexts (R260). -/
def State.reserved (s : State) : Nat := s.tdu.ctx.foldl (fun n c => n + if c.2.valid then c.2.reserve else 0) 0

/-- Has the ready store room for one more token of a context (R259, R260)? It never holds more than 65,536: tokens of contexts
that lost their reservation still fill their places. -/
def State.readyRoom (s : State) (c : Nat) : Bool :=
  decide (s.tdu.ready.length < 65536) &&
    (if (s.ctx c).admitted then decide ((s.tdu.ready.filter fun t => t.ctx = c).length < (s.ctx c).reserve)
    else decide ((s.tdu.ready.filter fun t => !(s.ctx t.ctx).admitted).length < 65536 - s.reserved))

/-- URGE (R263): where no engine of the group is eligible, the engine in TASK with URGE_EN whose DLN is latest and later
than the token's deadline. A halted engine receives none (R468). -/
def State.urge (s : State) (n : Nat) (t : Token) : State :=
  if (s.grpEngines n).any s.engEligible then s
  else
    let pos := (s.axis (s.grp n).ax).pos
    let key (d : W64) : Int := (d - pos).toInt
    let cand := (s.grpEngines n).filter fun (g : EngineId) =>
      let e := s.engAt g
      decide (e.st = EngState.task) && e.ien.getLsbD 0 && !e.halted && decide (key t.deadline < key e.dln)
    match cand.foldl (fun (b : Option EngineId) (g : EngineId) => match b with
        | none => some g
        | some h => if key (s.engAt h).dln ≤ key (s.engAt g).dln then some g else some h) none with
    | none => s
    | some g => (s.modEngAt g fun e => { e with urge := true }).trace n t (some g.val) 6

/-- TOKEN_RELEASE (R259, R263): the head token of a TASK queue passes the release guard into the ready store. A disabled
scheduling axis releases nothing (R54). -/
def State.tokenRelease (s : State) (n : Nat) : State :=
  let q := s.queue n
  let c := s.ctx q.context
  if ¬ (q.kind = .task ∧ q.en ∧ c.valid ∧ q.count ≠ 0) ∨ (s.axis (s.grp c.group).ax).st = .disabled then s
  else
    let h := s.qHead n
    if h.1 ≠ .ok then s
    else
      let rel : W64 := BitVec.ofNat 64 (leNat (h.2.1.take 8))
      let w := leNat ((h.2.1.drop 14).take 2)
      let arg0 := leNat ((h.2.1.drop 8).take 6)
      let moved := c.lastValid && posAhead (c.last + c.period) rel
      let eff := if moved then c.last + c.period else rel
      if ¬ s.reached c.group eff ∨ ¬ s.readyRoom q.context then s
      else
        let t : Token := {
          ctx := q.context
          release := eff
          deadline := eff + c.deadline
          arg := if bitOf w 15 then c.argBase + BitVec.ofNat 48 arg0 else BitVec.ofNat 48 arg0
          arrival := s.tdu.arrivals
          missed := false
          since := s.now }
        let s := h.2.2.setQueue n { q with cidx := q.adv q.cidx 1 }
        let s := s.setCtx q.context
          { c with last := eff, lastValid := true, reladj := if moved then satInc c.reladj else c.reladj }
        let s := { s with tdu.ready := s.tdu.ready ++ [t], tdu.arrivals := s.tdu.arrivals + 1 }
        (s.trace c.group t none 1).urge c.group t

def execTokenRelease (q : QueueId) (s : State) : Out := .next (s.tokenRelease q.val)

/-- The order of R261: class, key, context, arrival. -/
def State.tokenBefore (s : State) (n : Nat) (a b : Token) : Bool :=
  let pos := (s.axis (s.grp n).ax).pos
  let cls (t : Token) : Nat := if (s.ctx t.ctx).admitted then 0 else 1
  let key (t : Token) : Int := (t.deadline - pos).toInt
  if cls a ≠ cls b then cls a < cls b
  else if key a ≠ key b then key a < key b
  else if a.ctx ≠ b.ctx then a.ctx < b.ctx
  else a.arrival < b.arrival

/-- The selected token of a group. -/
def State.selected (s : State) (n : Nat) : Option Token :=
  (s.grpTokens n).foldl (fun (b : Option Token) t => match b with
    | none => some t
    | some u => if s.tokenBefore n t u then some t else some u) none

/-- The bin of a release-to-handover wait (R269). -/
def waitBin (ns : Nat) : Nat := if ns < 32 then 0 else min 15 (Nat.log2 ns - 4)

/-- TOKEN_HANDOVER (R261, R214): the selected token goes to the lowest eligible engine, and its argument copy starts: a
source that the kit does not reach itself receives requests on the prefetch flow. -/
def State.tokenHandover (s : State) (n : Nat) : State :=
  match (s.grpEngines n).find? s.engEligible, s.selected n with
  | some g, some t =>
    let c := s.ctx t.ctx
    let s := { s with
      tdu.ready := s.tdu.ready.filter fun u => u.arrival ≠ t.arrival
      tdu.running := tput s.tdu.running none g.val (some (t, s.now)) }
    let s := if s.tdu.obs.mode = 2 ∧ inMask s.tdu.obs.groups.toNat n then
        let k := 16 * n + waitBin (s.now - t.since)
        { s with tdu.obs.hist := tput s.tdu.obs.hist 0 k (tget s.tdu.obs.hist 0 k + 1) }
      else s
    let s := s.trace n t (some g.val) 2
    let s : State := s.modEngAt g fun e => { e with argReq := none, argGot := [], argData := none }
    if s.argBytes t = 0 ∨ kitDirect (g.val / 8) c.pflow t.arg.toNat (s.argBytes t) then s else s.argNext g t []
  | _, _ => s

def execTokenHandover (n : GroupId) (s : State) : Out := .next (s.tokenHandover n.val)

/-- DEADLINE_MISS (R264): the axis has reached the deadline of the token with that arrival number, in the ready store,
running, or left by a kit reset, which completes it (R432). -/
def State.deadlineMiss (s : State) (tok : Nat) : State :=
  let note (s : State) (t : Token) (eng : Option Nat) : State :=
    let c := s.ctx t.ctx
    let s := s.setCtx t.ctx { c with misses := satInc c.misses }
    let s := s.modGrp c.group fun g => { g with misses := satInc g.misses }
    (s.raise (672 + c.group) [c.owner]).trace c.group t eng 5
  match s.tdu.ready.find? fun t => t.arrival = tok && !t.missed with
  | some t =>
    let c := s.ctx t.ctx
    if ¬ s.reached c.group t.deadline then s
    else
      let s := note s t none
      if c.missDrop then
        let s := { s with tdu.ready := s.tdu.ready.filter fun u => u.arrival ≠ tok }
        (s.completeHw t 4 true none .tdu).trace c.group t none 7
      else { s with tdu.ready := s.tdu.ready.map fun u => if u.arrival = tok then { u with missed := true } else u }
  | none =>
    match s.tdu.running.find? fun e => match e.2 with | some (t, _) => t.arrival = tok && !t.missed | none => false with
    | some (g, some (t, t0)) =>
      if ¬ s.reached (s.ctx t.ctx).group t.deadline then s
      else
        let s := note s t (some g)
        { s with tdu.running := tput s.tdu.running none g (some ({ t with missed := true }, t0)) }
    | _ =>
      match s.tdu.orphan.find? fun (e : Token × Nat) => e.1.arrival = tok with
      | some (t, g) =>
        if ¬ s.reached (s.ctx t.ctx).group t.deadline then s
        else
          let s := note { s with tdu.orphan := s.tdu.orphan.erase (t, g) } t (some g)
          (s.completeHw t 4 true (some g) .tdu).trace (s.ctx t.ctx).group t (some g) 7
      | none => s

def execDeadlineMiss (tok : Nat) (s : State) : Out := .next (s.deadlineMiss tok)

/-! ### The admission test of engine groups (R265, R266) -/

/-- The kits of a group's engines. -/
def State.grpKits (s : State) (n : Nat) : BitVec 16 :=
  BitVec.ofNat 16 (maskOf ((List.range 16).map fun k => (s.grp n).engines.any fun g => g.val / 8 = k))

/-- b_pf of a context (R265): the bound of the read flow with its PFLOW number and its group's kit set in an admitted
contract of its owner. -/
def State.prefetch (s : State) (c : Ctx) : Option Nat :=
  if c.argSize = 0 then some 0
  else (s.contracts.findSome? fun k =>
    if k.2.owner = c.owner ∧ (k.2.st = .admitted ∨ (c.admitted ∧ k.2.st = .suspended)) then
      (k.2.flows.find? fun f => f.num = c.pflow && !f.write && f.src.isNone && f.kits == s.grpKits c.group).map (·.bound)
    else none)

/-- RATE_MAX of the group's axis in units of 2^-16 per ns. -/
def State.grpRate (s : State) (n : Nat) : Rat := ((s.axis (s.grp n).ax).cfg.rateMax.toNat : Rat) / 65536

/-- c, t_min and d_min of a context in ns; none where one is undefined. -/
def State.ctxFig (s : State) (c : Ctx) : Option (Rat × Rat × Rat) :=
  let rate := s.grpRate c.group
  match s.prefetch c with
  | none => none
  | some b =>
    if rate = 0 then none
    else some ((c.budget : Rat) * 4 / 5 + 80 + b, (c.period.toNat : Rat) / rate, (c.deadline.toNat : Rat) / rate)

/-- m: the engines of a group that are not fenced. -/
def State.grpLive (s : State) (n : Nat) : Nat :=
  ((s.grpEngines n).filter fun (g : EngineId) => !(s.engAt g).fenced && !(s.engAt g).fencing).length

/-- Streams and delta of a context (R265); none where it cannot meet its deadline. -/
def streams (f : Rat × Rat × Rat) : Option (Nat × Rat) :=
  let r := (f.1 / f.2.1).ceil.toNat
  let d' := min f.2.2 (r * f.2.1)
  if f.1 ≤ f.2.2 ∧ 0 < d' ∧ f.1 / d' ≤ 1 then some (r, f.1 / d') else none

def sumRat (l : List Rat) : Rat := l.foldl (· + ·) 0
def maxRat (l : List Rat) : Rat := l.foldl max 0

/-- All values of a list of options, or none. -/
def allSome {α : Type} : List (Option α) → Option (List α)
  | [] => some []
  | none :: _ => none
  | some a :: l => (allSome l).map (a :: ·)

/-- Contexts of a group. -/
def State.grpCtxs (s : State) (n : Nat) : List Ctx :=
  (s.tdu.ctx.filter fun c => c.2.valid && c.2.group = n).map (·.2)

/-- Σδ and the limit of R265 for a group as it stands; none where a figure is undefined or a context cannot meet its
deadline. -/
def State.grpUse (s : State) (n : Nat) : Option (Rat × Rat) :=
  let cs := s.grpCtxs n
  match allSome ((cs.filter (·.admitted)).map s.ctxFig), allSome ((cs.filter (!·.admitted)).map s.ctxFig) with
  | some adm, some rest =>
    match allSome (adm.map streams) with
    | none => none
    | some ss =>
      let m : Rat := s.grpLive n
      let dmax := maxRat (ss.map (·.2))
      let cmax := maxRat ((adm ++ rest).map (·.1))
      let dlow : Rat := match adm with | [] => 1 | f :: fs => fs.foldl (fun x y => min x y.2.2) f.2.2
      some (sumRat (ss.map fun x => (x.1 : Rat) * x.2), m - (m - 1) * dmax - (if adm.isEmpty then 0 else cmax / dlow))
  | _, _ => none

/-- Does the group hold an admitted task set? -/
def State.grpAdmitted (s : State) (n : Nat) : Bool := (s.grpCtxs n).any (·.admitted)

/-- The test of R265 for a group as it stands. -/
def State.grpFits (s : State) (n : Nat) : Bool :=
  match s.grpUse n with | some (u, l) => decide (u ≤ l) | none => false

/-! ### Commands of family 0x05xx (R272) -/

/-- The state entry of R247 as 128 bits. -/
def Queue.entryNat (q : Queue) : Nat :=
  let kind := match q.kind with | .free => 0 | .message => 1 | .task => 2 | .event => 3
  q.base / 4096 + q.sizeExp * 2 ^ 36 + q.esize * 2 ^ 41 + kind * 2 ^ 43 + q.owner.val * 2 ^ 45 + b2n q.note * 2 ^ 49 +
    b2n q.en * 2 ^ 51 + b2n q.notifyEn * 2 ^ 52 + q.vector.toNat * 2 ^ 53 + q.pidx * 2 ^ 64 + q.cidx * 2 ^ 85 +
    q.context * 2 ^ 106

/-- Whose storage [a, a + n) is: none where it leaves the vault or its DRAM region, is unallocated, or is being
cleared. -/
def State.storageOwner (s : State) (a n : Nat) : Option Owner :=
  if inVault a n then
    let ps := spanOf 0x10000 (a - vaultBase) n
    let o := (s.vpage (ps.headD 0)).owner
    if ps.all fun p => (s.vpage p).alloc && !(s.vpage p).clearing then some o else none
  else match s.regionAt a with
    | some r =>
      let g := s.region r
      if g.clearing ∨ g.base + (if g.enc.isSome then mxeData g.size else g.size) < a + n then none else some g.owner
    | none => none

/-- Is all of the storage `o`'s, with the secure attribute where it lies in the secure part (R25)? -/
def State.storageMine (s : State) (o : Owner) (a n : Nat) : Bool :=
  if inVault a n then s.vaultMine (.unit o) o (a - vaultBase) n else true

/-- QUEUE_ALLOC. -/
def queueAlloc (m : Mb) (r : Running) (s : State) : Ans :=
  let o := s.issuer m
  let kind := r.u8 0x10
  let esize := r.u8 0x11
  let sexp := r.u8 0x12
  let bp := r.u8 0x13
  let nt := r.u16 0x14
  let base := r.u64 0x18
  let bytes := 16 * 2 ^ esize * 2 ^ sexp
  if kind = 0 ∨ 3 < kind ∨ 2 < esize ∨ (kind = 2 ∧ esize ≠ 0) ∨ (kind = 3 ∧ esize ≠ 1) ∨ sexp < 4 ∨ 20 < sexp ∨ 1 < bp ∨
      bitsOf nt 11 4 ≠ 0 ∨ base % 4096 ≠ 0 ∨ (bitOf nt 15 ∧ s.pfOwner 0 ≠ o) then no .wrongState s
  else match s.storageOwner base bytes with
    | none => no .wrongState s
    | some so =>
      if so ≠ o ∨ ¬ s.storageMine o base bytes then no .notOwner s
      else if kind = 2 ∧ ¬ inVault base bytes then no .wrongState s
      else if s.qcu.queue.any fun q => q.2.kind != .free && decide (q.2.base < base + bytes) &&
          decide (base < q.2.base + q.2.bytes * q.2.size) then no .wrongState s
      else match firstFree 262144 fun n => decide ((s.queue n).kind = .free) with
        | none => no .refusedResources s
        | some n =>
          let q : Queue := {
            base := base, sizeExp := sexp, esize := esize
            kind := if kind = 1 then .message else if kind = 2 then .task else .event
            owner := o, note := bp = 1, en := true, notifyEn := bitOf nt 15, vector := BitVec.ofNat 11 nt }
          ok (s.setQueue n q) (leBytes 4 n)

def execQueueAlloc (m : Mb) (s : State) : Out := .next (s.serve m 0x0501 anyForm 0x14 (queueAlloc m))

/-- Does a context name queue `n`? -/
def State.queueNamed (s : State) (n : Nat) : Bool :=
  s.tdu.ctx.any fun c => c.2.valid && (c.2.taskq = n || c.2.compq = some n)

/-- A command that names a queue of its issuer: the checks of R272 and R520. -/
def State.withQueue (s : State) (o : Owner) (n : Nat) (f : Queue → Ans) : Ans :=
  if 262144 ≤ n then no .wrongState s
  else
    let q := s.queue n
    if q.kind = .free then no .wrongState s else if q.owner ≠ o then no .notOwner s else f q

/-- Queue `n` is freed: its entries are discarded, and it is observed no more (R267): its place among the watched queues names
none. -/
def State.dropQueue (s : State) (n : Nat) : State :=
  { s.setQueue n {} with tdu.obs.queues := s.tdu.obs.queues.map fun q => if q = n then 262144 else q }

/-- QUEUE_FREE. -/
def queueFree (m : Mb) (r : Running) (s : State) : Ans :=
  s.withQueue (s.issuer m) (r.u32 0x10) fun _ =>
    if s.queueNamed (r.u32 0x10) then no .wrongState s else ok (s.dropQueue (r.u32 0x10))

def execQueueFree (m : Mb) (s : State) : Out := .next (s.serve m 0x0502 anyForm 0x10 (queueFree m))

/-- QUEUE_QUERY. -/
def queueQuery (m : Mb) (r : Running) (s : State) : Ans :=
  s.withQueue (s.issuer m) (r.u32 0x10) fun q => ok s (leBytes 16 q.entryNat ++ leBytes 4 q.count)

def execQueueQuery (m : Mb) (s : State) : Out := .next (s.serve m 0x0503 anyForm 0x24 (queueQuery m))

/-- Engines that a 128-bit mask names. -/
def maskEngines (v : Nat) : List EngineId := (List.finRange 128).filter fun g => inMask v g.val

/-- GROUP_CREATE. An empty mask names no set of engines and is out of range. -/
def groupCreate (m : Mb) (r : Running) (s : State) : Ans :=
  let o := s.issuer m
  let es := maskEngines (r.fld 0x10 16)
  let ax := r.u32 0x20
  if es = [] ∨ 15 < ax then no .wrongState s
  else if es.any fun g => !s.engPresent g then no .absentUnit s
  else if es.any fun g => s.kitAssigned (g.val / 8) && (s.kitAt (g.val / 8)).owner != o then no .notOwner s
  else if (es.any fun g => decide (s.engCode g ≠ 1)) ∨ (s.tdu.group.any fun g => g.2.defined && es.any g.2.engines.contains)
      ∨ (s.axis ax).cfg.bidir ∨ (s.axis ax).st = .disabled then no .wrongState s
  else match firstFree 16 fun n => !(s.grp n).defined with
    | none => no .refusedResources s
    | some n =>
      let s := s.setGrp n { defined := true, engines := es, ax := Fin.ofNat 16 ax, owner := o }
      ok (es.foldl (fun s g => s.modKitAt (g.val / 8) fun k => { k with owner := o }) s) (leBytes 4 n)

def execGroupCreate (m : Mb) (s : State) : Out := .next (s.serve m 0x0510 anyForm 0x14 (groupCreate m))

/-- A command that names a group of its issuer. -/
def State.withGroup (s : State) (o : Owner) (n : Nat) (f : Group → Ans) : Ans :=
  if 16 ≤ n then no .wrongState s
  else
    let g := s.grp n
    if ¬ g.defined then no .wrongState s else if g.owner ≠ o then no .notOwner s else f g

/-- A kit returns to owner 0 with its memories cleared (R202). -/
def State.kitReturn (s : State) (k : Nat) : State :=
  let s := (kitEngines k).foldl (fun s g => s.modEngAt g fun e => { e with p := [], pNew := [], x := [], y := [], marks := [] }) s
  s.modKitAt k fun t => { t with owner := 0, mem := [], marks := [] }

/-- GROUP_DELETE. -/
def groupDelete (m : Mb) (r : Running) (s : State) : Ans :=
  s.withGroup (s.issuer m) (r.u32 0x10) fun g =>
    if s.grpCtxs (r.u32 0x10) ≠ [] ∨ g.engines.any fun e => decide (s.engCode e ≠ 1) then no .wrongState s
    else
      let s := { s.setGrp (r.u32 0x10) {} with
        tdu.obs.groups := BitVec.ofNat 16 (setBits s.tdu.obs.groups.toNat (r.u32 0x10) 1 0) }
      ok (((g.engines.map fun e => e.val / 8).eraseDups).foldl
        (fun s k => if s.kitAssigned k then s else s.kitReturn k) s)

def execGroupDelete (m : Mb) (s : State) : Out := .next (s.serve m 0x0511 anyForm 0x10 (groupDelete m))

/-- CONTEXT_ALLOC. -/
def contextAlloc (m : Mb) (r : Running) (s : State) : Ans :=
  let o := s.issuer m
  let tq := r.u32 0x1C
  let cq := r.u32 0x30
  let none_ := bitOf cq 31
  s.withGroup o (r.u32 0x10) fun _ =>
    let q := s.queue tq
    let c := s.queue (bitsOf cq 0 18)
    if 8191 < r.u32 0x14 ∨ r.u32 0x18 = 0 ∨ 2 ^ 24 ≤ r.u32 0x18 ∨ 262144 ≤ tq ∨ bitsOf cq 18 13 ≠ 0 ∨ r.u64 0x20 = 0 ∨
        r.u64 0x28 = 0 ∨ bitsOf (r.u32 0x34) 1 3 ≠ 0 ∨ bitsOf (r.u32 0x34) 8 24 ≠ 0 ∨ 2 ^ 48 ≤ r.u64 0x38 ∨
        r.u64 0x38 % 4 ≠ 0 ∨ 128 < r.u32 0x40 then no .wrongState s
    else if q.kind = .free ∨ (¬ none_ ∧ c.kind = .free) then no .wrongState s
    else if q.owner ≠ o ∨ (¬ none_ ∧ c.owner ≠ o) then no .notOwner s
    else if q.kind ≠ .task ∨ q.count ≠ 0 ∨ q.context ≠ 0 ∨ (¬ none_ ∧ c.kind ≠ .message) then no .wrongState s
    else match firstFree 16384 fun n => decide (0 < n) && !(s.ctx n).valid with
      | none => no .refusedResources s
      | some n =>
        let x : Ctx := {
          valid := true, missDrop := r.bit 0x34 0, pflow := bitsOf (r.u32 0x34) 4 4
          entry := BitVec.ofNat 13 (r.u32 0x14), group := r.u32 0x10, budget := r.u32 0x18
          period := BitVec.ofNat 64 (r.u64 0x20), deadline := BitVec.ofNat 64 (r.u64 0x28), taskq := tq
          compq := if none_ then none else some (bitsOf cq 0 18), argBase := BitVec.ofNat 48 (r.u64 0x38)
          argSize := r.u32 0x40, owner := o }
        let s' := (s.setCtx n x).setQueue tq { q with context := n }
        if s.grpAdmitted (r.u32 0x10) ∧ ¬ s'.grpFits (r.u32 0x10) then no .refusedBound s
        else ok s' (leBytes 4 n)

def execContextAlloc (m : Mb) (s : State) : Out := .next (s.serve m 0x0520 anyForm 0x14 (contextAlloc m))

/-- A command that names a context of its issuer. -/
def State.withCtx (s : State) (o : Owner) (n : Nat) (f : Ctx → Ans) : Ans :=
  if n = 0 ∨ 16384 ≤ n then no .wrongState s
  else
    let c := s.ctx n
    if ¬ c.valid then no .wrongState s else if c.owner ≠ o then no .notOwner s else f c

/-- Does the ready store or an engine hold a token of context `n`? -/
def State.ctxHeld (s : State) (n : Nat) : Bool :=
  s.tdu.ready.any (fun t => t.ctx = n) || s.tdu.orphan.any (fun (e : Token × Nat) => e.1.ctx = n) || s.tdu.running.any fun e => match e.2 with | some (t, _) => t.ctx = n | none => false

/-- CONTEXT_FREE. -/
def contextFree (m : Mb) (r : Running) (s : State) : Ans :=
  s.withCtx (s.issuer m) (r.u32 0x10) fun c =>
    if c.admitted ∨ (s.queue c.taskq).count ≠ 0 ∨ s.ctxHeld (r.u32 0x10) then no .wrongState s
    else ok ((s.setCtx (r.u32 0x10) {}).modQueue c.taskq fun q => { q with context := 0 })

def execContextFree (m : Mb) (s : State) : Out := .next (s.serve m 0x0521 anyForm 0x10 (contextFree m))

/-- The record of R258. -/
def Ctx.record (c : Ctx) : List Byte :=
  leBytes 2 c.entry.toNat ++ leBytes 1 c.group ++
    leBytes 1 (b2n c.valid + 2 * b2n c.admitted + 4 * b2n c.missDrop + 16 * c.pflow) ++ leBytes 4 c.budget ++
    leBytes 8 c.period.toNat ++ leBytes 8 c.deadline.toNat ++ leBytes 4 c.taskq ++
    leBytes 4 (match c.compq with | some q => q | none => 2 ^ 31) ++ leBytes 6 c.argBase.toNat ++ leBytes 2 c.argSize ++
    leBytes 8 c.last.toNat ++ leBytes 1 c.owner.val ++ leBytes 1 0 ++ leBytes 2 c.reserve ++ leBytes 4 c.reladj.toNat ++
    leBytes 4 c.misses.toNat ++ leBytes 4 0

def execContextQuery (m : Mb) (s : State) : Out :=
  .next (s.serve m 0x0522 anyForm 0x50 fun r s => s.withCtx (s.issuer m) (r.u32 0x10) fun c => ok s c.record)

/-- OBSERVE_MODE (R267, R269): OFF, TRACE or STATS for the issuer's groups and queues; counters and LOST cleared. -/
def observeMode (m : Mb) (r : Running) (s : State) : Ans :=
  let o := s.issuer m
  let mode := r.u32 0x10
  let groups := maskList 16 (r.u32 0x14)
  let cnt := r.u32 0x1C
  let qs := (List.range cnt).map fun i => r.u32 (0x20 + 4 * i)
  let ob := s.tdu.obs
  if 2 < mode ∨ 65535 < r.u32 0x14 ∨ (mode = 2 ∧ 64 < cnt) ∨ (mode = 2 ∧ r.length < 0x20 + 4 * cnt) then no .wrongState s
  else if ob.mode ≠ 0 ∧ (ob.owner ≠ o ∨ (mode ≠ 0 ∧ mode ≠ ob.mode)) then no .wrongState s
  else if mode = 0 then ok { s with tdu.obs := {} }
  else if groups.any fun n => !(s.grp n).defined then no .wrongState s
  else if groups.any fun n => (s.grp n).owner != o then no .notOwner s
  else if mode = 1 then
    s.withQueue o (r.u32 0x18) fun q =>
      if q.kind ≠ .event then no .wrongState s
      else ok { s with tdu.obs :=
        ({ mode := 1, owner := o, groups := BitVec.ofNat 16 (r.u32 0x14), queue := r.u32 0x18 } : Obs) }
  else if qs.any fun n => decide (262144 ≤ n) || decide ((s.queue n).kind = .free) then no .wrongState s
  else if qs.any fun n => (s.queue n).owner != o then no .notOwner s
  else ok { s with tdu.obs :=
    ({ mode := 2, owner := o, groups := BitVec.ofNat 16 (r.u32 0x14), queues := qs, start := s.now } : Obs) }

def execObserveMode (m : Mb) (s : State) : Out := .next (s.serve m 0x0530 anyForm 0x10 (observeMode m))

/-- Engine cycles of a time in ns, in a saturating 32-bit counter. -/
def cyclesOf (ns : Nat) : Nat := min (2 ^ 32 - 1) (ns * 5 / 4)

/-- STATS_READ. -/
def statsRead (m : Mb) (r : Running) (s : State) : Ans :=
  let ob := s.tdu.obs
  let i := r.u32 0x14
  if ob.mode ≠ 2 ∨ ob.owner ≠ s.issuer m then no .wrongState s
  else match r.u32 0x10 with
    | 0 =>
      if 128 ≤ i ∨ ¬ (maskList 16 ob.groups.toNat).any fun n => (s.grp n).engines.any fun g => g.val = i then no .wrongState s
      else ok s (leBytes 8 (cyclesOf (tget ob.busy 0 i)) ++ leBytes 8 (cyclesOf (s.now - ob.start)))
    | 1 => if ob.queues.length ≤ i then no .wrongState s else ok s (leBytes 4 (tget ob.high 0 i))
    | 2 =>
      if 16 ≤ i ∨ ¬ inMask ob.groups.toNat i then no .wrongState s
      else ok s ((List.range 16).map fun b => leBytes 4 (min (2 ^ 32 - 1) (tget ob.hist 0 (16 * i + b)))).flatten
    | _ => no .wrongState s

def execStatsRead (m : Mb) (s : State) : Out := .next (s.serve m 0x0531 anyForm 0x14 (statsRead m))

/-! ### Registers (R270, R271) -/

/-- A QCU register at an offset, as owner `o` reads it (R270). -/
def State.qcuRead (s : State) (who : Initiator) (off : Nat) : W32 :=
  let own := s.ownerOf who
  if off = 0 then BitVec.ofNat 32 ((s.qcu.queue.filter fun q => q.2.kind != .free).length)
  else if off = 4 then
    packW [(0, s.qcu.limit.toNat),
      (16, min 255 ((s.qcu.held.filter fun h => match h.who with | .initiator (.pf _) => true | _ => false).length))]
  else if off = 8 then s.qcu.hostDrop
  else if 0x1000 ≤ off ∧ off < 0x2000 then
    let o := (off - 0x1000) / 0x100
    let w := s.win o
    if who ≠ .belfry ∧ own.val ≠ o then 0#32
    else match off % 0x100 with
      | 0x00 => BitVec.ofNat 32 w.sel
      | 0x04 =>
        let q := s.queue w.sel
        if q.kind = .free ∨ q.kind = .task ∨ q.owner.val ≠ o then 0#32 else BitVec.ofNat 32 q.count
      | 0x08 => let p := w.captured who; packW [(0, b2n p.valid), (1, b2n p.err), (2, p.count)]
      | 0x0C => w.dbdrop
      | x => if 0x40 ≤ x ∧ x < 0x80 ∧ x % 4 = 0 then
          BitVec.ofNat 32 (leNat (((w.captured who).words.drop (x - 0x40)).take 4)) else 0#32
  else 0#32

/-- A figure of R271 × 256, rounded down, 0 when negative. -/
def scaled (x : Rat) (top : Nat) : Nat := if x < 0 then 0 else min top ((x * 256).floor.toNat)

/-- A TDU register (R271). -/
def State.tduRead (s : State) (off : Nat) : W32 :=
  if off < 0x400 then
    let n := off / 0x40
    let g := s.grp n
    let ts := s.grpTokens n
    let pos := (s.axis g.ax).pos
    let head : W64 := (ts.foldl (fun (b : Option W64) t => match b with
      | none => some t.deadline
      | some d => if (t.deadline - pos).toInt < (d - pos).toInt then some t.deadline else some d) none).getD (BitVec.allOnes 64)
    match off % 0x40 with
    | 0x00 => packW [(0, b2n g.defined), (1, g.ax.val), (5, g.owner.val), (16, s.grpLive n)]
    | 0x04 => packW [(0, ts.length), (17, ((s.grpEngines n).filter s.engEligible).length)]
    | 0x08 => head.extractLsb' 0 32
    | 0x0C => head.extractLsb' 32 32
    | 0x10 => match s.grpUse n with
      | some (u, l) => packW [(0, scaled u 32768), (16, scaled l 65535)]
      | none => 0#32
    | 0x14 => g.misses
    | _ => 0#32
  else if off = 0x800 then BitVec.ofNat 32 s.tdu.ready.length
  else if off = 0x804 then BitVec.ofNat 32 s.reserved
  else if off = 0x808 then packW [(0, s.tdu.obs.mode), (2, s.tdu.obs.owner.val), (16, s.tdu.obs.lost.toNat)]
  else 0#32

/-! ### Engine commands (R227) -/

/-- Is an engine in a group that holds admitted task sets? -/
def State.engAdmitted (s : State) (g : EngineId) : Bool :=
  (List.range 16).any fun n => (s.grp n).defined && (s.grp n).engines.contains g && s.grpAdmitted n

/-- The checks that ENG_CONTROL makes on every engine of its mask. -/
def State.engMask (s : State) (o : Owner) (es : List EngineId) (okay : EngineId → Bool) (f : Ans) : Ans :=
  if es.any fun g => !s.engPresent g then no .absentUnit s
  else if es.any fun g => (s.kitAt (g.val / 8)).owner != o then no .notOwner s
  else if es.all okay then f
  else no .wrongState s

/-- An engine started at the START vector with the values of R206. -/
def Eng.started (e : Eng) : Eng :=
  ({ e with
    st := .running
    pc := 0#13
    sr := 0x40#24
    ldepth := 0
    mx := Vector.replicate 4 0#13
    my := Vector.replicate 4 0#13
    task := 0#14
    dln := 0#64
    arg := 0#48
    fdepth := 0
    double := false
    stall := none
    once := false } : Eng).barrier

def execEngControlStart (m : Mb) (s : State) : Out :=
  .next (s.serve m 0x0241 (fun r => r.u32 0x20 = 0) 0x10 fun r s =>
    let es := maskEngines (r.fld 0x10 16)
    s.engMask (s.issuer m) es (fun g => decide (s.engCode g = 1))
      (ok (es.foldl (fun (s : State) (g : EngineId) => s.modEngAt g Eng.started) s)))

/-- The token that engine `g` holds is given up: a task that has not begun leaves nothing behind. -/
def State.dropToken (s : State) (g : EngineId) : State := { s with tdu.running := tput s.tdu.running none g.val none }

/-- STOP: an engine in TASK, also when halted in it, or in a group holding admitted task sets cannot stop. One that waits and whose
token's argument is still being copied stops without the task: the spec does not say what becomes of the token, and here it is
gone (DESIGN CHOICE, log 126). -/
def execEngControlStop (m : Mb) (s : State) : Out :=
  .next (s.serve m 0x0241 (fun r => r.u32 0x20 = 1) 0x10 fun r s =>
    let es := maskEngines (r.fld 0x10 16)
    s.engMask (s.issuer m) es
      (fun g => decide (s.engCode g ≠ 0) && decide ((s.engAt g).st ≠ EngState.task) && !s.engAdmitted g)
      (ok (es.foldl (fun (s : State) (g : EngineId) =>
        ((s.engUnlock g).dropToken g).modEngAt g fun e => { e with
          st := .stopped
          halted := false
          haltReq := false
          frozen := false
          slot := none
          stall := none
          lock := none
          argReq := none
          argGot := []
          argData := none
          fenced := e.fenced || e.fencing
          fencing := false }) s)))

def execEngQuery (m : Mb) (s : State) : Out :=
  .next (s.serve m 0x0242 anyForm 0x2C fun r s =>
    let g := r.u32 0x10
    if 128 ≤ g then no .wrongState s
    else if ¬ s.engPresent g then no .absentUnit s
    else
      let e := s.engAt g
      ok s ((([s.engStat g, e.pcReg, s.wdogReg g, e.frec.setWidth 32, e.ecc.setWidth 32, e.remapReg, e.kdmaReg] : List W32).map
        fun w => leBytes 4 w.toNat).flatten))

/-! ### Remap and fencing (R224) -/

/-- An engine leaves service once its task ends (R224). -/
def State.fenceEng (s : State) (g : EngineId) : State :=
  let held := (tget s.tdu.running none g.val).isSome
  (s.modEngAt g fun e => if held then { e with fencing := true } else { e with fenced := true }).healthCause 2

/-- After a fence Atmon repeats the test of each affected group (R224, R266): where it fails, the contracts of the
group's task sets are suspended with cause ENGINE_FENCED, and revalidated 1 ms later as for a fenced link (R35; DEDUCED, log 126). -/
def State.retest (s : State) (gs : List EngineId) : State :=
  (List.range 16).foldl (fun s n =>
    if (s.grp n).defined ∧ (gs.any fun g => (s.grp n).engines.contains g) ∧ s.grpAdmitted n ∧ ¬ s.grpFits n then
      s.suspendWhere (fun _ k => decide (k.group = n) && !k.ctxs.isEmpty) 5 0xFFFF (some (s.now + 1000000))
    else s) s

/-- ENGINE_REMAP (R224): a word with an uncorrectable error, or with a second correctable one after its write-back, is
copied to a spare, poison preserved. A third entry is a cause of REPLACE_SOON; a fifth word fences. -/
def State.engRemap (s : State) (g : EngineId) (mem : EngMem) (addr : Nat) : State :=
  let k := g.val / 8
  let due : Bool := s.cellMark mem g addr = .poisoned ||
    (match mem with
      | .kit => decide (2 ≤ ((s.kitAt k).fixed.filter fun w => w = addr).length)
      | _ => decide (2 ≤ ((s.engAt g).fixed.filter fun w => w = memKey mem addr).length))
  let used : Nat := match mem with
    | .p => (s.engAt g).rmtP.length
    | .x => (s.engAt g).rmtX.length
    | .y => (s.engAt g).rmtY.length
    | .kit => (s.kitAt k).rmt.length
  let s := if mem = .kit ∧ due ∧ s.cellMark mem g addr = .poisoned then
      s.raiseC (640 + k) 1 [(s.kitAt k).owner] (srcBlock (640 + k)) (packW [(0, (s.kitAt k).ce.toNat), (8, used)]) else s
  if ¬ s.engPresent g ∨ ¬ due then s
  else if used < 4 then
    let a : BitVec 13 := BitVec.ofNat 13 addr
    let s := match mem with
      | .p => s.modEngAt g fun e => { e with rmtP := e.rmtP ++ [a], fixed := e.fixed.filter (· ≠ memKey .p addr) }
      | .x => s.modEngAt g fun e => { e with rmtX := e.rmtX ++ [a], fixed := e.fixed.filter (· ≠ memKey .x addr) }
      | .y => s.modEngAt g fun e => { e with rmtY := e.rmtY ++ [a], fixed := e.fixed.filter (· ≠ memKey .y addr) }
      | .kit => s.modKitAt k fun t => { t with rmt := t.rmt ++ [BitVec.ofNat 16 addr], fixed := t.fixed.filter (· ≠ addr) }
    if used = 2 then s.healthCause 2 else s
  else match mem with
    | .kit =>
      let gs := (List.finRange 128).filter fun e => e.val / 8 = k
      let s := (gs.foldl State.fenceEng s).retest gs
      s.raiseC (640 + k) 1 [(s.kitAt k).owner, 0] (srcBlock (640 + k)) (packW [(0, (s.kitAt k).ce.toNat), (8, used)])
    | _ => (s.fenceEng g).retest [g]

def execEngineRemap (g : EngineId) (mem : EngMem) (addr : BitVec 16) (s : State) : Out :=
  .next (if mem = .kit ∨ addr.toNat < 8192 then s.engRemap g mem addr.toNat else s)

end Sys2Proof.Machine
end

