-- ==== Sys2Proof/Machine/Axis.lean ====
section
/-!
DEFINITION. Machine/Axis.lean: the axis unit: positions and their publication (R43 to R52), source events and the rate
tracker (R47), discontinuities (R53, R54), capture units (R73 to R75) and the axis commands (R79). Instants are in
1/256 ns; positions in 2^-16 of a unit.
-/
namespace Sys2Proof.Machine

/-! ### Sources (R45) -/

/-- A direct source: PTP, CHASSIS, LOCAL, RING. -/
def srcDirect (c : Nat) : Bool := (1 ≤ c && c ≤ 4) || c = 24

/-- An event source: ENCODER, FABRIC, PERIOD. -/
def srcEvent (c : Nat) : Bool := (8 ≤ c && c ≤ 11) || (16 ≤ c && c ≤ 23) || (28 ≤ c && c ≤ 31)

/-- Is axis `n` a time axis? -/
def State.timeAxis (s : State) (n : Nat) : Bool :=
  let a := s.axis n
  (1 ≤ a.cfg.src.toNat && a.cfg.src.toNat ≤ 4) || (a.cfg.src.toNat = 24 && a.ringTimeAxis)

/-- What the addends add to a PTU's time over the next `l` ns, in 2^-32 ns: the one in force, then the latched ones from
their instants on (R93). -/
def addendSpan (now : Nat) (l : Nat) (cur : Nat) : List (Nat × W64 × Bool) → Nat
  | [] => cur * l
  | (t, v, _) :: rest => let d := min l (t - now); cur * d + addendSpan (now + d) (l - d) v.toNat rest

/-- The addend in force at `now`, and whether it is a slew (R93). -/
def Ptu.inForce (p : Ptu) (now : Nat) : W64 × Bool :=
  ((p.latched.filter fun e => decide (e.1 ≤ now)).getLast?.map Prod.snd).getD (p.addend, p.slewOn)

/-- The value of PTU `n` `l` ns from now as a position: (seconds × 10^9 + ns) mod 2^48 with its fraction (R45, R93). -/
def State.ptuPos (s : State) (n l : Nat) : W64 :=
  let p := s.ptuAt n
  BitVec.ofNat 64 (((p.sec.toNat * 10 ^ 9 + p.ns) * 2 ^ 32 + p.frac.toNat + addendSpan s.now l p.addend.toNat p.latched) /
    2 ^ 16)

/-- The CHASSIS count (R45): between edges of the reference it advances with the axis clock, by 10 ns at most, and holds until
the next edge (DESIGN CHOICE, log 119: the spec does not say how it interpolates). -/
def State.chassisPos (s : State) : W64 :=
  ((s.axu.chassisNs + BitVec.ofNat 48 s.axu.chassisSub) ++ 0#16 : BitVec 64)

/-- The value of a direct source `l` ns from now (R45, R46). A RING source's is the peer's position of the latest AXIS cell
and its rate over the cell's AGE and the time since it arrived (R377, R384). -/
def State.directAt (s : State) (n : Nat) (l : Nat) : W64 :=
  let a := s.axis n
  match a.cfg.src.toNat with
  | 1 => s.ptuPos 0 l
  | 2 => s.ptuPos 1 l
  | 3 => s.chassisPos + BitVec.ofNat 64 (l * 2 ^ 16)
  | 4 => s.localPos + BitVec.ofNat 64 (l * 2 ^ 16)
  | _ => a.ringPos + BitVec.ofInt 64 (a.ringRate.toInt * (a.ringAge + 256 * ((s.now : Int) + l - a.ringTime)) / 2 ^ 24)

/-! ### Publication (R46 to R52) -/

/-- The position of an event axis for instant `t`, from the events known (R47, R48), and whether it is extrapolated. -/
def Axis.eventAt (a : Axis) (t : Int) : W64 × Bool :=
  let late := a.events.filter fun e => decide (t < (e.1 : Int))
  let early := a.events.filter fun e => decide ((e.1 : Int) ≤ t)
  match early.head?, late.getLast? with
  | none, _ => (a.pos, true)
  | some ea, some eb =>
    if a.cfg.track then
      let d := (eb.2 - ea.2).toInt
      (ea.2 + BitVec.ofInt 64 (d * (t - ea.1) / ((eb.1 : Int) - ea.1)), false)
    else (ea.2, false)
  | some ea, none =>
    if a.cfg.track then
      let lim : Int := (a.cfg.clamp.toNat : Int) * 2 ^ 16
      let d := a.rate.toInt * (t - ea.1) / (256 * 2 ^ 16)
      (ea.2 + BitVec.ofInt 64 (max (-lim) (min lim d)), true)
    else (ea.2, false)

/-- The position that axis `n` is expected to publish `l` ns from now (R60): on a time axis the time then, on an event
axis the known source position or the tracker's prediction. -/
def State.axisAhead (s : State) (n : Nat) (l : Nat) : W64 :=
  let a := s.axis n
  if srcDirect a.cfg.src.toNat then s.directAt n l
  else
    let p := (a.eventAt (256 * ((s.now : Int) - 64 + l))).1
    if a.cfg.bidir ∨ 0 ≤ (p - a.pos).toInt then p else a.pos

/-- The rate that an axis shows: the tracker's, or its direct source's, in units per ns, signed 32.32. -/
def State.axisRate (s : State) (n : Nat) : W64 :=
  let a := s.axis n
  match a.cfg.src.toNat with
  | 1 => ((s.ptuAt 0).inForce s.now).1
  | 2 => ((s.ptuAt 1).inForce s.now).1
  | 3 => 0x100000000#64
  | 4 => 0x100000000#64
  | 24 => a.ringRate
  | _ => a.rate

/-- The frequency in kHz of fabric PLL `n` from the rate of its axis: rate × 10^9 × M / N Hz (R76). -/
def State.lockKhz (s : State) (n : Nat) : Nat := match tget s.axu.lock none n with
  | some l => (s.axisRate l.ax.val).toInt.natAbs * 10 ^ 6 * l.m.toNat / (l.n.toNat * 2 ^ 32)
  | none => 0

/-- A fabric PLL holds its frequency, `khz` (R76, R121). -/
def Fpll.held (p : Fpll) (khz : Nat) : Fpll :=
  if p.axisHold then p else { p with axisHold := true, holdS := true, khz := BitVec.ofNat 21 khz }

/-- The fabric PLLs locked to axis `n` hold (R76). -/
def State.pllHold (s : State) (n : Nat) : State :=
  { s with fab.pll := s.fab.pll.map fun (e : Nat × Fpll) =>
    if e.2.axisLocked && e.2.ax.val = n then (e.1, e.2.held (s.lockKhz e.1)) else e }

/-- The fabric PLLs locked to axis `n` hold until AXIS_LOCK_PLL is issued again (R95). -/
def State.pllStick (s : State) (n : Nat) : State :=
  { s with fab.pll := s.fab.pll.map fun (e : Nat × Fpll) =>
    if e.2.axisLocked && e.2.ax.val = n then (e.1, { e.2.held (s.lockKhz e.1) with stuck := true }) else e }

/-- Positions published for the axis at this edge (R46 to R51). A forward axis never decreases: it is HELD until its
source exceeds the published position again. At the first edge after an enable or a reset a direct axis shows its source's
value, whichever way that lies, and the move crosses no entry (R46, R519). Before any event since the restart an event axis
stays where it is; in track mode it is then EXTRAP, or CLAMPED with CLAMP = 0, as it is at the position of a last event
(DESIGN CHOICE, log 119: the spec names no STATE for that time). -/
def State.publish (s : State) (n : Nat) : State :=
  let a := s.axis n
  if a.st = .disabled then s
  else if a.st = .stalled then s.setAxis n { a with prev := a.pos, stepped := false }
  else
    let src := a.cfg.src.toNat
    let v : W64 × Bool := if srcDirect src then (s.directAt n 0, false) else a.eventAt (256 * ((s.now : Int) - 64))
    let down := decide ((v.1 - a.pos).toInt < 0)
    let jump := a.first && srcDirect src
    let held := (down || (decide (a.st = AxState.held) && decide (v.1 = a.pos))) && !a.cfg.bidir && !jump
    let p := if held then a.pos else v.1
    let moved := decide (p ≠ a.pos)
    let step := (decide (a.st = AxState.extrap) || decide (a.st = AxState.clamped)) && !v.2 && moved && a.cfg.track
    let ref := match a.events.find? fun e => decide ((e.1 : Int) ≤ 256 * ((s.now : Int) - 64)) with
      | some e => e.2
      | none => a.pos
    let st : AxState :=
      if held then .held
      else if srcDirect src ∨ ¬ a.cfg.track ∨ ¬ v.2 then .running
      else if (v.1 - ref).toInt.natAbs < a.cfg.clamp.toNat * 2 ^ 16 then .extrap else .clamped
    let enter := held && decide (a.st ≠ AxState.held)
    let keep := (a.events.filter fun e => decide (256 * ((s.now : Int) - 64) < (e.1 : Int))) ++
      ((a.events.filter fun e => decide ((e.1 : Int) ≤ 256 * ((s.now : Int) - 64))).take 1)
    let a' := { a with
      prev := if jump then p else a.pos
      pos := p
      st := st
      first := false
      stepped := step
      stepS := a.stepS || step
      heldS := a.heldS || enter
      down := if moved then down else a.down
      n := if enter then 0 else a.n
      rate := if enter then 0#64 else a.rate
      events := keep }
    let s := s.setAxis n a'
    let s := s.modAxis n fun x => { x with aheadPrev := x.ahead }
    let s := s.modAxis n fun x => { x with ahead := s.axisAhead n 64 }
    if enter then
      let s := s.pllHold n
      s.raise (720 + n) [a.controller]
    else s

/-- One cycle of a PTU (R90): the addend added to ns.fraction, seconds carried; a latched addend is applied at its
instant (R93). -/
def Ptu.tick (p : Ptu) (now scale : Nat) : Ptu :=
  let due := p.latched.filter fun e => e.1 < now
  let p : Ptu := { p with
    addend := (due.getLast?.map fun e => e.2.1).getD p.addend
    slewOn := (due.getLast?.map fun e => e.2.2).getD p.slewOn
    latched := p.latched.filter fun e => decide (now ≤ e.1) }
  let x := p.ns * 2 ^ 32 + p.frac.toNat + scale * p.addend.toNat
  let ns := x / 2 ^ 32
  { p with
    frac := BitVec.ofNat 32 x
    ns := if 10 ^ 9 ≤ ns then ns - 10 ^ 9 else ns
    sec := if 10 ^ 9 ≤ ns then p.sec + 1 else p.sec }

/-! ### Crossings (R59) -/

/-- CONTROL fields of an entry (R55). -/
def Strike.ax (e : Strike) : Nat := bitsOf e.ctl.toNat 0 4
def Strike.action (e : Strike) : Nat := bitsOf e.ctl.toNat 4 3
def Strike.dir (e : Strike) : Nat := bitsOf e.ctl.toNat 7 2
def Strike.discard (e : Strike) : Bool := bitOf e.ctl.toNat 9
def Strike.valid (e : Strike) : Bool := bitOf e.ctl.toNat 10
def Strike.setValid (e : Strike) (b : Bool) : Strike := { e with ctl := BitVec.ofNat 16 (setBits e.ctl.toNat 10 1 (b2n b)) }

/-- PIN, SWAP and RING actions are committed ahead (R60). -/
def Strike.isAhead (e : Strike) : Bool := e.action = 1 || e.action = 3 || e.action = 6

/-- Is an entry at `p` crossed by a move from `c0` to `c`? -/
def crossed (dir : Nat) (p c0 c : W64) : Bool :=
  let up := posAhead p c0 && !posAhead p c
  let dn := posAhead p c && !posAhead p c0
  if dir = 0 then up else if dir = 1 then dn else up || dn

/-- The crossing instant between two edges `len` ns apart, the later at `now` ns (R59, R70): resolved to 1/256 ns, to
nearest. -/
def crossInstant (p c0 c : W64) (now len : Nat) (step : Bool) : Nat :=
  let den := (c - c0).toInt.natAbs
  let num := (p - c0).toInt.natAbs
  if step ∨ den = 0 then 256 * now else 256 * (now - len) + (512 * len * num + den) / (2 * den)

/-- Slots of the valid entries that this edge crosses, in position order then slot order (R63), with positions and
instants. -/
def State.crossings (s : State) (n : Nat) : List (Nat × W64 × Nat) :=
  let a := s.axis n
  let step := a.stepped || (srcEvent a.cfg.src.toNat && !a.cfg.track)
  let hit := s.stk.entry.filter fun e =>
    e.2.valid && e.2.ax = n && !e.2.isAhead && crossed e.2.dir e.2.pos a.prev a.pos
  (hit.map fun e => (e.1, e.2.pos, crossInstant e.2.pos a.prev a.pos s.now s.axu.cycle step)).mergeSort fun x y =>
    decide ((x.2.1 - a.prev).toInt.natAbs < (y.2.1 - a.prev).toInt.natAbs) ||
    (decide ((x.2.1 - a.prev).toInt.natAbs = (y.2.1 - a.prev).toInt.natAbs) && decide (x.1 ≤ y.1))

/-- Has an axis at `c` not reached the position of an action committed ahead, in the direction of its crossing (R59)? -/
def Ahead.short (e : Ahead) (c : W64) : Bool := posAhead e.pos c != e.down

/-- The marks of actions committed ahead whose edge has come while their axis has not reached the position (R60). -/
def State.markEarly (s : State) : State :=
  let dueNow := s.stk.ahead.filter fun e => decide (e.edge ≤ s.now)
  let s := dueNow.foldl (fun s e =>
    if e.short (s.axis e.ax).pos then s.modStrike e.slot fun x => { x with early := true } else s) s
  { s with stk.ahead := s.stk.ahead.filter fun e => decide (s.now < e.edge) }

/-- AXIS_CLOCK_EDGE (R45, R46, R90, R426): one edge of the axis clock. LOCAL and the PTUs advance, by five from IOSC;
CHASSIS advances by 10 ns where a rising edge of the reference came since the edge before; every enabled axis publishes; crossed
entries become due; strike lines whose width has passed fall; contracts follow ports that froze or woke. -/
def State.axisEdge (s : State) (refEdge : Bool) : State :=
  let k := if (s.clkDom 2).iosc then 5 else 1
  let s := { s with
    now := s.now + k
    axu.localNs := s.axu.localNs + BitVec.ofNat 48 k
    axu.cycle := k
    axu.chassisNs := if refEdge then s.axu.chassisNs + 10 else s.axu.chassisNs
    axu.chassisSub := if refEdge then 0 else min 10 (s.axu.chassisSub + k) }
  let s := s.modPtuAt 0 fun p => p.tick s.now k
  let s := s.modPtuAt 1 fun p => p.tick s.now k
  let s := (List.range 16).foldl State.publish s
  let s := s.markEarly
  let due := (List.range 16).foldl (fun (l : List (Nat × W64 × Nat)) n =>
    if (s.axis n).st = .disabled then l else l ++ s.crossings n) []
  { s with stk.due := s.stk.due ++ due, stk.lines := s.stk.lines.filter fun l => decide (256 * s.now < l.2.2) }.settle

def execAxisClockEdge (refEdge : Bool) (s : State) : Out := .next (s.axisEdge refEdge)

/-! ### Source events (R47, R50, R52, R519) -/

/-- The rate tracker on an event (R47): the extrapolated value of the phase term is limited by CLAMP, as every extrapolated
position is. A time difference that is not positive gives no rate the spec states: the rate
is then a free value. -/
def State.track (s : State) (n : Nat) (p : W64) (t : Nat) : State :=
  let a := s.axis n
  if a.n = 0 then s.setAxis n { a with sPrev := p, tPrev := t, n := 1 }
  else if t ≤ a.tPrev then
    let r := s.fresh 64
    r.2.setAxis n { a with rate := r.1, sPrev := p, tPrev := t, n := 2 }
  else
    let dt : Int := (t : Int) - a.tPrev
    let rm : Int := (p - a.sPrev).toInt * 256 * 2 ^ 16 / dt
    let rate : Int :=
      if a.n = 1 then rm
      else
        let r1 := a.rate.toInt + (rm - a.rate.toInt) / 2 ^ a.cfg.ks.toNat
        let lim : Int := (a.cfg.clamp.toNat : Int) * 2 ^ 16
        let px : Int := a.sPrev.toInt + max (-lim) (min lim (r1 * dt / (256 * 2 ^ 16)))
        let err : Int := (p - BitVec.ofInt 64 px).toInt * 256 * 2 ^ 16 / dt
        r1 + err / 2 ^ a.cfg.kp.toNat
    s.setAxis n { a with rate := BitVec.ofInt 64 rate, sPrev := p, tPrev := t, n := 2 }

/-- The increment `inc` that the source of axis `n` presents at instant `t` (R45, R125). A disabled axis ignores it. A stalled
axis in track mode lies past its last event: the jump that the event brings is a step (R51). -/
def State.sourceEvent (s : State) (n : Nat) (inc : BitVec 16) (t : Nat) : State :=
  let a := s.axis n
  if a.st = .disabled ∨ ¬ srcEvent a.cfg.src.toNat then s
  else
    let p := a.spos + (inc.signExtend 64 <<< 16)
    let s := s.setAxis n { a with
      spos := p
      since := t
      events := (t, p) :: a.events
      st := if a.st ≠ AxState.stalled then a.st else if a.cfg.track then .extrap else .running }
    s.track n p t

/-- The place of the levels of A and B in the quadrature cycle: A leads B upward. -/
def quadPlace (l : Bool × Bool) : Nat := if l.2 then (if l.1 then 2 else 3) else b2n l.1

/-- The levels of an encoder's inputs, sampled at the latest axis clock edge (R45, R47): each step of the quadrature cycle is
one count, upward where A leads B (DESIGN CHOICE, log 119); of a change of both levels at once the spec states no count, and the
increment is a free value. -/
def State.encoder (s : State) (n : Nat) (a b : Bool) : State :=
  let old := (s.axis n).quad
  let s := s.modAxis n fun x => { x with quad := (a, b) }
  match (quadPlace (a, b) + 4 - quadPlace old) % 4 with
  | 0 => s
  | 1 => s.sourceEvent n 1#16 (256 * s.now)
  | 3 => s.sourceEvent n 0xFFFF#16 (256 * s.now)
  | _ => let r := s.fresh 16; r.2.sourceEvent n r.1 (256 * r.2.now)

/-- Is the user logic of a sector stopped: held in GSR, powered down, frozen, or its fabric port in reset (R125, R477)? -/
def State.sectorStopped (s : State) (sec : SectorId) : Bool :=
  s.cfg.gsr || !bitOf s.ckr.pwrSec.toNat sec.val || (s.sector sec.val).frozen || s.ckr.inReset.contains (.fport sec)

/-- AXIS_SOURCE_EVENT: what the source of axis `n` presents (R45, R125). A FABRIC increment comes from the running logic of the
sector that AXU_SRC names; an encoder's count follows its levels; a PERIOD source counts the edges that AXU_SRC.EDGE selects. -/
def State.axisInput (s : State) (n : Nat) (x : AxisInput) : State :=
  let code := (s.axis n).cfg.src.toNat
  let reg := (s.axis n).cfg.srcReg.toNat
  match x with
  | .fabric inc t =>
    if ¬ (16 ≤ code ∧ code ≤ 23) ∨ s.sectorStopped (Fin.ofNat 96 (bitsOf reg 0 7)) then s else s.sourceEvent n inc t
  | .quad a b => if 8 ≤ code ∧ code ≤ 11 then s.encoder n a b else s
  | .edge falling =>
    if ¬ 28 ≤ code then s
    else
      let s := s.modPin (bitsOf reg 8 8) fun p => { p with ext := !falling }
      if falling = bitOf reg 29 then s.sourceEvent n 1#16 (256 * s.now) else s

def execAxisSourceEvent (n : AxisId) (x : AxisInput) (s : State) : Out := .next (s.axisInput n.val x)

/-- AXIS_STALL (R52): no source event, or for a RING source no cell, for 2^STALL_EXP µs. -/
def State.axisStall (s : State) (n : Nat) : State :=
  let a := s.axis n
  let last := if a.cfg.src.toNat = 24 then 256 * a.ringTime else a.since
  if a.st = .disabled ∨ a.st = .stalled ∨ ¬ (srcEvent a.cfg.src.toNat ∨ a.cfg.src.toNat = 24) ∨
      256 * s.now < last + 2 ^ a.cfg.stallExp.toNat * 256000 then s
  else ((s.setAxis n { a with st := .stalled, stallS := true, prev := a.pos }).pllHold n).raise (720 + n) [a.controller]

def execAxisStall (n : AxisId) (s : State) : Out := .next (s.axisStall n.val)

/-! ### Discontinuities (R53, R54) -/

/-- The valid entries on axis `n`. -/
def State.entriesOn (s : State) (n : Nat) : List (Nat × Strike) := s.stk.entry.filter fun e => e.2.valid && e.2.ax = n

/-- Every valid entry of axis `n` cancelled (R53). -/
def State.cancelOn (s : State) (n : Nat) : State :=
  (s.entriesOn n).foldl (fun s e => s.setStrike e.1 { (e.2.setValid false) with cancelled := true }) s

/-- Does axis `n` carry an armed swap (R53): its entry in force, held back by its rate, or committed ahead? -/
def State.swapOn (s : State) (n : Nat) : Bool :=
  (s.entriesOn n).any (fun e => e.2.action = 3) || s.stk.swaps.any (fun w : Nat × Nat × Nat => (s.strike w.1).ax = n) ||
    s.stk.allot.any fun a => a.2.waiting.any fun w => decide (w.1 < 32) && w.2.1.ax = n

/-- Groups scheduled on axis `n`. -/
def State.groupsOn (s : State) (n : Nat) : List Nat :=
  (List.range 16).filter fun g => (s.grp g).defined && (s.grp g).ax.val = n

/-- RING_DISCONTINUITY (R54): the discontinuity that an AXIS cell announced takes hold on axis `n`. -/
def State.ringDisc (s : State) (n : Nat) : State :=
  let a := s.axis n
  if ¬ a.discPend then s
  else
    let gs := s.groupsOn n
    let owners := [a.controller] ++ gs.map (fun g => (s.grp g).owner) ++ (s.entriesOn n).map (fun e => e.2.owner)
    let s := s.cancelOn n
    let s := s.setAxis n { a with
      discPend := false
      discS := true
      st := .disabled
      cfg := { a.cfg with en := false }
      n := 0
      rate := 0#64
      events := [] }
    let mine : Token → Bool := fun t => gs.contains (s.ctx t.ctx).group
    let gone := s.tdu.ready.filter mine
    let s := { s with tdu.ready := s.tdu.ready.filter fun t => !mine t }
    let s := gone.foldl (fun s t => s.completeHw t 4 true none .tdu) s
    let s := { s with tdu.running := s.tdu.running.map fun (e : Nat × Option (Token × Nat)) => match e.2 with
      | some (t, t0) => if mine t then (e.1, some ({ t with missed := true }, t0)) else e
      | none => e }
    let s := s.suspendWhere (fun _ k => gs.contains k.group && !k.ctxs.isEmpty) 6 0xFFFF none
    let s := { s with
      axu.cap := s.axu.cap.map fun (c : Nat × Capture) =>
        if bitsOf c.2.cfg.toNat 8 4 = n then (c.1, { c.2 with cfg := BitVec.ofNat 32 (setBits c.2.cfg.toNat 12 2 0) }) else c }
    (s.pllHold n).raise (740 + n) owners

def execRingDiscontinuity (n : AxisId) (s : State) : Out := .next (s.ringDisc n.val)

/-! ### Captures (R73 to R75) -/

/-- The position of axis `n` at an instant at or before the latest edge, interpolated between the two latest published
positions. -/
def State.posAt (s : State) (n : Nat) (t : Nat) : W64 :=
  let a := s.axis n
  let step := a.stepped || (srcEvent a.cfg.src.toNat && !a.cfg.track)
  let len : Int := 256 * (s.axu.cycle : Int)
  let f : Int := (t : Int) - (256 * (s.now : Int) - len)
  if len ≤ f then a.pos else if f ≤ 0 then a.prev
  else if step then a.prev
  else a.prev + BitVec.ofInt 64 ((a.pos - a.prev).toInt * f / len)

/-- The direction bit of a record (R74). -/
def State.dirBit (s : State) (n : Nat) : Bool := let a := s.axis n; a.cfg.bidir && a.down

/-- The 32 bytes of a capture record (R74). -/
def captureBytes (pos : W64) (type unit ax : Nat) (falling down lost : Bool) (seq : W32) (spos : W64) (slot : Nat) :
    List Byte :=
  leBytes 8 pos.toNat ++
    leBytes 4 (type + 256 * unit + 2 ^ 16 * ax + 2 ^ 20 * b2n falling + 2 ^ 21 * b2n down + 2 ^ 22 * b2n lost) ++
    leBytes 4 seq.toNat ++ leBytes 8 spos.toNat ++ leBytes 4 slot ++ leBytes 4 0

/-- Fields of AXU_CAP_CFG (R77). -/
def Capture.mode (c : Capture) : Nat := bitsOf c.cfg.toNat 12 2
def Capture.ax (c : Capture) : Nat := bitsOf c.cfg.toNat 8 4
def Capture.queue (c : Capture) : Nat := bitsOf c.cfg.toNat 14 18

/-- Write the oldest record of capture unit `c` to its queue, where it has room. A refused record is discarded and counted
(R75). A record held over a CAPTURE_CONFIG goes to the queue that the unit then names (DESIGN CHOICE, log 119: the spec does not
say which). -/
def State.capPush (s : State) (c : Nat) : State :=
  let u := s.cap c
  match u.held with
  | [] => s
  | r :: rest =>
    let q := s.queue u.queue
    let lose (s : State) : State :=
      s.modCap c fun u => { u with held := rest, lost := satInc u.lost, lostFlag := true }
    if q.kind ≠ .event ∨ q.owner ≠ u.owner then lose s
    else match s.qPush u.queue (captureBytes r.pos 1 c r.ax r.falling r.down u.lostFlag u.seq 0#64 0) with
      | (.ok, s') => s'.modCap c fun u => { u with held := rest, lostFlag := false, seq := u.seq + 1 }
      | (.full, _) => s
      | (.err _, s') => lose s'

def execCaptureRecordPush (c : CapId) (s : State) : Out := .next (s.capPush c.val)

/-- An edge on the pin of a capture unit at instant `t` (R73, R75). -/
def State.captureEdge (s : State) (c : Nat) (falling : Bool) (t : Nat) : State :=
  let u := s.cap c
  let kind := bitsOf u.cfg.toNat 6 2
  if u.mode = 0 ∨ ¬ (kind = 2 ∨ (kind = 0 ∧ ¬ falling) ∨ (kind = 1 ∧ falling)) then s
  else
    let close : Bool := match u.lastEdge with | some t0 => decide (t < t0 + 512) | none => false
    if close ∨ 8 ≤ u.held.length then
      s.setCap c { u with lost := satInc u.lost, lostFlag := true, lastEdge := if close then u.lastEdge else some t }
    else
      let r : CapRec := { ax := u.ax, pos := s.posAt u.ax t, falling := falling, down := s.dirBit u.ax }
      let s := s.setCap c { u with
        held := u.held ++ [r]
        lastEdge := some t
        cfg := if u.mode = 1 then BitVec.ofNat 32 (setBits u.cfg.toNat 12 2 0) else u.cfg }
      if u.held = [] then s.capPush c else s

/-- CAPTURE_EDGE: the outside brings an edge to the unit's pin. -/
def execCaptureEdge (c : CapId) (falling : Bool) (t : Nat) (s : State) : Out :=
  .next ((s.modPin (bitsOf (s.cap c.val).cfg.toNat 0 6) fun p => { p with ext := !falling }).captureEdge c.val falling t)

/-! ### Axis commands (R79) -/

/-- A command of the controller of axis `n`. -/
def State.withAxis (s : State) (o : Owner) (n : Nat) (f : Axis → Ans) : Ans :=
  if 15 < n then no .wrongState s
  else if (s.axis n).controller ≠ o then no .notOwner s
  else f (s.axis n)

/-- Is the source of an axis absent from the variant? -/
def State.srcAbsent (s : State) (src port : Nat) : Bool := src = 24 && !s.ringPresent port

/-- A pin code of R68 that is not reserved. -/
def pinKnown (p : Nat) : Bool := p ≤ 18 || (24 ≤ p && p ≤ 31)

/-- Is the index of an encoder's input A, whose B is the next one, one of the 288 user I/O balls (R498)? -/
def encoderIo (src : Nat) : Bool := bitsOf src 16 9 ≤ 286

/-- AXIS_CONFIG. -/
def axisConfig (m : Mb) (r : Running) (s : State) : Ans :=
  let n := r.u32 0x10
  let cfg := r.u32 0x14
  let src := r.u32 0x18
  let lim := r.u32 0x1C
  let code := bitsOf cfg 1 5
  let bidir := bitOf cfg 6
  let bsh := clog2 (ceilDiv (r.u64 0x20) 1024)
  s.withAxis (s.issuer m) n fun a =>
    if a.st ≠ .disabled then no .wrongState s
    else if bitOf cfg 0 ∨ bitsOf cfg 8 4 ≠ 0 ∨ bitsOf cfg 20 12 ≠ 0 ∨ ¬ (srcDirect code ∨ srcEvent code) ∨
        (bidir ∧ ¬ ((8 ≤ code ∧ code ≤ 11) ∨ (16 ≤ code ∧ code ≤ 23))) ∨ bitOf src 30 ∨ 30 < bitsOf lim 24 8 ∨
        (16 ≤ code ∧ code ≤ 23 ∧ 95 < bitsOf src 0 7) ∨ bitsOf src 7 1 ≠ 0 ∨
        (28 ≤ code ∧ ¬ pinKnown (bitsOf src 8 8)) ∨ (8 ≤ code ∧ code ≤ 11 ∧ ¬ encoderIo src) ∨ (code = 24 ∧ 15 < bitsOf src 0 7) then no .wrongState s
    else if s.srcAbsent code (b2n (bitOf src 31)) then no .absentUnit s
    else if srcEvent code ∧ (s.axu.axis.any fun x => x.1 ≠ n && x.2.cfg.src.toNat = code) then no .refusedResources s
    else
      let c : AxCfg := {
        en := false, src := BitVec.ofNat 5 code, bidir := bidir, track := bitOf cfg 7
        ks := BitVec.ofNat 4 (bitsOf cfg 12 4), kp := BitVec.ofNat 4 (bitsOf cfg 16 4), bshift := BitVec.ofNat 6 bsh
        clamp := BitVec.ofNat 24 lim, stallExp := BitVec.ofNat 8 (bitsOf lim 24 8), srcReg := BitVec.ofNat 32 src
        rateMax := BitVec.ofNat 64 (r.u64 0x20), start := BitVec.ofNat 64 (r.u64 0x28) }
      let p := if srcEvent code then c.start else a.pos
      ok (s.setAxis n { a with
        cfg := c, pos := p, prev := p, spos := p, rate := 0#64, n := 0, events := [], stepped := false
        ahead := p, aheadPrev := p, ringEpoch := none }) (leBytes 4 bsh)

def execAxisConfig (m : Mb) (s : State) : Out := .next (s.serve m 0x0301 anyForm 0x14 (axisConfig m))

/-- AXIS_ENABLE with EN = 1 (R519, R54): an enabled axis stays as it is. -/
def axisEnable (m : Mb) (r : Running) (s : State) : Ans :=
  let n := r.u32 0x10
  s.withAxis (s.issuer m) n fun a =>
    let code := a.cfg.src.toNat
    if ¬ (srcDirect code ∨ srcEvent code) then no .wrongState s
    else if s.srcAbsent code (bitsOf a.cfg.srcReg.toNat 31 1) then no .absentUnit s
    else if (code = 1 ∨ code = 2) ∧ (s.ptuAt (code - 1)).st = .unset then no .wrongState s
    else if a.st ≠ .disabled then ok s
    else
      let gs := s.groupsOn n
      let s := s.setAxis n { a with
        cfg := { a.cfg with en := true }, st := .running, rate := 0#64, n := 0, events := [], spos := a.pos
        since := 256 * s.now, ringTime := s.now, ringEpoch := none, first := true }
      ok (s.revalWhere (fun _ k => gs.contains k.group && !k.ctxs.isEmpty && k.cause = 6) (s.now + 1000000))

def execAxisEnable (m : Mb) (s : State) : Out := .next (s.serve m 0x0302 (fun r => r.bit 0x14 0) 0x10 (axisEnable m))

/-- AXIS_ENABLE with EN = 0. -/
def axisDisable (m : Mb) (r : Running) (s : State) : Ans :=
  let n := r.u32 0x10
  s.withAxis (s.issuer m) n fun a =>
    if s.entriesOn n ≠ [] ∨ (s.axu.cap.any fun c => decide (c.2.mode ≠ 0) && decide (c.2.ax = n)) ∨
        (s.fab.pll.any fun p => p.2.axisLocked && p.2.ax.val = n) ∨ s.groupsOn n ≠ [] then no .wrongState s
    else ok (s.setAxis n { a with cfg := { a.cfg with en := false }, st := .disabled })

def execAxisDisable (m : Mb) (s : State) : Out := .next (s.serve m 0x0302 (fun r => !r.bit 0x14 0) 0x10 (axisDisable m))

/-- AXIS_RESET (R53): the axis shows POSITION; an enabled direct axis shows its source's value again from the next edge on, since a
direct source's published position is the source's value at the edge (DEDUCED from R46, log 119). -/
def axisReset (m : Mb) (r : Running) (s : State) : Ans :=
  let n := r.u32 0x10
  let p : W64 := BitVec.ofNat 64 (r.u64 0x18)
  s.withAxis (s.issuer m) n fun a =>
    if (s.groupsOn n).any s.grpAdmitted ∨ s.swapOn n then no .wrongState s
    else
      let k := (s.entriesOn n).length
      let s := s.cancelOn n
      let s := s.setAxis n { a with
        pos := p, prev := p, spos := p, ahead := p, aheadPrev := p, events := [], rate := 0#64, n := 0, stepped := false
        discS := true, epochOut := a.epochOut + 1, first := true }
      .reply (if k = 0 then .ok else .axisDiscontinuous) 0 (leBytes 4 k) s

def execAxisReset (m : Mb) (s : State) : Out := .next (s.serve m 0x0303 anyForm 0x14 (axisReset m))

/-- AXU_STAT (R77). -/
def Axis.stat (a : Axis) : W32 :=
  let st := match a.st with
    | .disabled => 0
    | .running => 1
    | .extrap => 2
    | .clamped => 3
    | .held => 4
    | .stalled => 5
  packW [(0, st), (8, b2n a.heldS), (9, b2n a.stallS), (10, b2n a.stepS), (11, b2n a.discS)]

def execAxisQuery (m : Mb) (s : State) : Out :=
  .next (s.serve m 0x0304 anyForm 0x18 fun r s =>
    ok s (leBytes 8 s.localPos.toNat ++ ((maskList 16 (r.u16 0x10)).map fun n =>
      leBytes 8 (s.axis n).pos.toNat ++ leBytes 8 (s.axisRate n).toNat ++ leBytes 4 (s.axis n).stat.toNat ++
        leBytes 12 0).flatten))

/-- CAPTURE_CONFIG: the pin, queue and axis are checked when the value arms the unit. MODE 3, and EDGE 3 of a value that arms, have no
meaning in R77 and answer WRONG_STATE (DESIGN CHOICE, log 119). -/
def captureConfig (m : Mb) (r : Running) (s : State) : Ans :=
  let c := r.u32 0x10
  let v := r.u32 0x14
  let mode := bitsOf v 12 2
  if 63 < c ∨ mode = 3 then no .wrongState s
  else
    let u := s.cap c
    let o := s.issuer m
    let q := s.queue (bitsOf v 14 18)
    let p := s.pin (bitsOf v 0 6)
    let new : Capture := { u with cfg := BitVec.ofNat 32 v, lost := 0#16, lostFlag := false }
    if u.owner ≠ o then no .notOwner s
    else if mode = 0 then ok (s.setCap c new)
    else if ¬ pinKnown (bitsOf v 0 6) ∨ bitsOf v 6 2 = 3 ∨ q.kind = .free then no .wrongState s
    else if (p.owner ≠ o ∧ ¬ p.shared) ∨ q.owner ≠ o then no .notOwner s
    else if q.kind ≠ .event ∨ (s.axis (bitsOf v 8 4)).st = .disabled then no .wrongState s
    else ok (s.setCap c { new with lastEdge := none })

def execCaptureConfig (m : Mb) (s : State) : Out := .next (s.serve m 0x0321 anyForm 0x10 (captureConfig m))

/-! ### Registers (R77) -/

/-- AXU_CFG. -/
def State.axuCfg (s : State) (n : Nat) : W32 :=
  let c := (s.axis n).cfg
  packW [(0, b2n c.en), (1, c.src.toNat), (6, b2n c.bidir), (7, b2n c.track), (8, b2n (s.timeAxis n)), (12, c.ks.toNat),
    (16, c.kp.toNat), (20, c.bshift.toNat)]

/-- An AXU register at an offset (R77). -/
def State.axuRead (s : State) (off : Nat) : W32 :=
  if off < 0x400 then
    let n := off / 0x40
    let a := s.axis n
    match off % 0x40 with
    | 0x00 => s.axuCfg n
    | 0x08 => a.pos.extractLsb' 0 32
    | 0x0C => a.pos.extractLsb' 32 32
    | 0x10 => (s.axisRate n).extractLsb' 0 32
    | 0x14 => (s.axisRate n).extractLsb' 32 32
    | 0x18 => a.stat
    | 0x1C => packW [(0, a.cfg.clamp.toNat), (24, a.cfg.stallExp.toNat)]
    | 0x20 => a.cfg.srcReg
    | _ => 0#32
  else if 0x800 ≤ off ∧ off < 0x880 ∧ off % 4 = 0 then (s.pin ((off - 0x800) / 4)).cfg
  else if 0xA00 ≤ off ∧ off < 0xE00 then
    let u := s.cap ((off - 0xA00) / 0x10)
    match off % 0x10 with
    | 0 => u.cfg
    | 4 => packW [(0, u.held.length), (8, b2n (decide (u.mode ≠ 0))), (16, u.lost.toNat)]
    | _ => 0#32
  else 0#32

end Sys2Proof.Machine
end

