-- ==== Sys2Proof/Machine/Strike.lean ====
section
/-!
DEFINITION. Machine/Strike.lean: strike entries, their commit and firing (R55 to R67), allotments (R64, R79), trigger
pins (R68 to R72), and the strike registers (R78).
-/
namespace Sys2Proof.Machine

/-! ### Allotments (R64, R79) -/

/-- Slot `slot` lies in the allotment of the writer (R57); the belfry passes (R23). -/
def State.slotMine (s : State) (who : Initiator) (slot : Nat) : Bool :=
  let a := s.allot (s.ownerOf who).val
  who = .belfry || (a.base ≤ slot && slot < a.base + a.count)

/-- Firings per µs that are still available: 1,000 less the swap slots' 32 and the allotments' rates (R64). -/
def State.rateLeft (s : State) : Nat := 968 - (s.stk.allot.map fun a => a.2.rate).foldl (· + ·) 0

/-- The lowest base of a free contiguous run of `n` slots. -/
def State.runBase (s : State) (n : Nat) : Option Nat :=
  let used := (s.stk.allot.filter fun a => a.2.count ≠ 0).map fun a => (a.2.base, a.2.base + a.2.count)
  let fits := (32 :: used.map Prod.snd).filter fun b =>
    decide (32 ≤ b ∧ b + n ≤ 65536) && used.all fun u => decide (b + n ≤ u.1) || decide (u.2 ≤ b)
  fits.foldl (fun (m : Option Nat) b => match m with | some x => some (min x b) | none => some b) none

def strikeAlloc (m : Mb) (r : Running) (s : State) : Ans :=
  let o := s.issuer m
  let n := r.u32 0x10
  let k := r.u32 0x14
  if n = 0 ∨ 65504 < n ∨ k = 0 ∨ 1000 < k ∨ (s.allot o.val).count ≠ 0 then no .wrongState s
  else if s.rateLeft < k then no .refusedBound s
  else match s.runBase n with
    | none => no .refusedResources s
    | some b =>
      let s := s.modAllot o.val fun a => { a with base := b, count := n, rate := k }
      ok s (leBytes 4 b ++ leBytes 4 n ++ leBytes 4 s.rateLeft)

def execStrikeAlloc (m : Mb) (s : State) : Out := .next (s.serve m 0x0310 anyForm 0x1C (strikeAlloc m))

/-- STRIKE_FREE: the owner's entries become invalid without firing, held-back firings included. Bytes staged and not committed are
discarded with the allotment (DESIGN CHOICE, log 120: the spec does not say what becomes of them). -/
def strikeFree (m : Mb) (_r : Running) (s : State) : Ans :=
  let o := s.issuer m
  let a := s.allot o.val
  if a.count = 0 then no .wrongState s
  else
    let mine := s.stk.entry.filter fun e => a.base ≤ e.1 && e.1 < a.base + a.count && e.2.valid
    let s := mine.foldl (fun (s : State) (e : Nat × Strike) => s.setStrike e.1 (e.2.setValid false)) s
    let out (slot : Nat) : Bool := slot < a.base || a.base + a.count ≤ slot
    let s := { s with
      stk.stage := s.stk.stage.filter fun (b : Nat × Option Byte) => out (b.1 / 24)
      stk.stager := s.stk.stager.filter fun (e : Nat × Initiator) => out e.1 }
    ok (s.setAllot o.val { a with
      base := 0
      count := 0
      rate := 0
      waiting := a.waiting.filter fun w => decide (w.1 < 32) })

def execStrikeFree (m : Mb) (s : State) : Out := .next (s.serve m 0x0311 anyForm 0x10 (strikeFree m))

/-! ### Pins (R68 to R71) -/

/-- Fields of AXU_PIN_CFG (R77). -/
def Pin.mode (p : Pin) : Nat := bitsOf p.cfg.toNat 0 2
def Pin.openDrain (p : Pin) : Bool := bitOf p.cfg.toNat 2
def Pin.invert (p : Pin) : Bool := bitOf p.cfg.toNat 3
def Pin.skew (p : Pin) : Int := (BitVec.ofNat 16 (bitsOf p.cfg.toNat 16 16)).toInt

/-- The modes that a pin's directions allow (R68, R72, R79). -/
def pinAllows (code mode : Nat) (sector : Bool) : Bool :=
  if mode = 0 then true
  else if mode = 1 then decide (code ≠ 16)
  else if mode = 2 then decide (code ≠ 17 ∧ code ≠ 18)
  else sector

/-- PIN_CONFIG. Edges already committed stand; the registered OUT and OE of mode FABRIC start anew (R72). A value with reserved bits
[15:4] set answers WRONG_STATE (DESIGN CHOICE, log 120: R79 lists no status for it). -/
def pinConfig (m : Mb) (r : Running) (s : State) : Ans :=
  let c := r.u32 0x10
  let v := r.u32 0x14
  if ¬ pinKnown c then no .wrongState s
  else
    let p := s.pin c
    if p.owner ≠ s.issuer m then no .notOwner s
    else if ¬ s.mbx.ready ∨ bitsOf v 4 12 ≠ 0 ∨ ¬ pinAllows c (bitsOf v 0 2) p.sector.isSome then no .wrongState s
    else ok (s.setPin c { p with cfg := BitVec.ofNat 32 v, fab := if p.mode = bitsOf v 0 2 then p.fab else none })

def execPinConfig (m : Mb) (s : State) : Out := .next (s.serve m 0x0320 anyForm 0x10 (pinConfig m))

/-- Edges of one axis in the order of their instants, each at least 2 ns after the one before as finally placed (R71),
and the slots of those that were moved. -/
def spaceEdges : Option Int → List PinEdge → List PinEdge × List Nat
  | _, [] => ([], [])
  | prev, e :: es =>
    let t : Int := match prev with
      | some p => max e.time (p + 512)
      | none => e.time
    let r := spaceEdges (some t) es
    ({ e with time := t } :: r.1, if t = e.time then r.2 else e.slot :: r.2)

/-- Commit edges of one axis to a pin (R70, R71). -/
def State.placeEdges (s : State) (c ax : Nat) (new : List PinEdge) : State :=
  let p := s.pin c
  let mine := ((p.edges.filter fun e => e.ax = ax) ++ new).mergeSort fun x y => decide (x.time ≤ y.time)
  let prev : Option Int := match p.lastEdge with
    | some (t, a) => if a = ax then some t else none
    | none => none
  let r := spaceEdges prev mine
  let s := s.setPin c { p with
    edges := ((p.edges.filter fun e => decide (e.ax ≠ ax)) ++ r.1).mergeSort fun x y => decide (x.time ≤ y.time) }
  r.2.foldl (fun (s : State) (n : Nat) => s.modStrike n fun e => { e with spaced := true }) s

/-- The level that the device drives on pin `c`, INVERT applied; none for high impedance (R68, R72, R77): open-drain drive pulls low
only, mode FABRIC drives once OE is registered, and pins that are inputs only ignore OUT and OE. -/
def Pin.drive (p : Pin) (c : Nat) : Option Bool :=
  let v : Option Bool :=
    if p.mode = 2 then some p.out
    else if p.mode = 3 ∧ c ≠ 17 ∧ c ≠ 18 then (match p.fab with | some (o, true) => some o | _ => none)
    else none
  match v with
  | some o => if p.openDrain ∧ o ≠ p.invert then none else some (o != p.invert)
  | none => none

/-- The level at the ball (R73): the level driven, or where the device drives none the level that the outside applies. -/
def Pin.ball (p : Pin) (c : Nat) : Bool := (p.drive c).getD p.ext

/-- Capture units that watch pin `c` see its level change at instant `t` (R73). -/
def State.watch (s : State) (c : Nat) (falling : Bool) (t : Nat) : State :=
  (List.range 64).foldl (fun (s : State) (u : Nat) =>
    if bitsOf (s.cap u).cfg.toNat 0 6 = c then s.captureEdge u falling t else s) s

/-! ### Drops and counts -/

/-- An entry refused at its commit or firing: flagged, counted, reason kept (R58, R78). -/
def State.strikeDrop (s : State) (slot : Nat) (o : Owner) (reason : Nat) : State :=
  (s.modStrike slot fun e => { e with dropped := true }).modAllot o.val fun a =>
    { a with drop := satInc a.drop, reason := BitVec.ofNat 4 reason }

/-- PIN_EDGE (R70, R71, KL-01): the earliest edge of pin `p` whose instant has come. An edge less than 2 ns after one of
another axis merges with it and is lost; a pin in another mode drops it (R68). The capture units on the pin see the edge (R73). -/
def State.pinEdge (s : State) (c : Nat) : State :=
  let p := s.pin c
  match p.edges with
  | [] => s
  | e :: rest =>
    if (256 * s.now : Int) < e.time then s
    else
      let lost : Bool := match p.lastEdge with
        | some (t, a) => decide (a ≠ e.ax) && decide (e.time < t + 512)
        | none => false
      let o := (s.strike e.slot).owner
      if p.mode ≠ 2 then (s.setPin c { p with edges := rest }).strikeDrop e.slot o 2
      else if lost then s.setPin c { p with edges := rest }
      else
        let v : Bool := match e.level with
          | some b => b
          | none => !p.out
        let q := { p with edges := rest, out := v, lastEdge := some (e.time, e.ax) }
        let s := s.setPin c q
        if q.ball c = p.ball c then s else s.watch c (!q.ball c) e.time.toNat

def execPinEdge (p : PinCode) (s : State) : Out := .next (s.pinEdge p.val)

/-! ### Actions (R56, R65, R66) -/

/-- Is sector line 63 named for an owner's fault pulses (R446)? -/
def State.line63 (s : State) (sec : Nat) : Bool := s.flt.owner.any fun e => e.2.notify.sector = some sec

/-- The target of an action passes the ownership check for the entry's owner (R24, R58). -/
def State.strikeOwns (s : State) (action : Nat) (arg : Nat) (o : Owner) : Bool :=
  match action with
  | 1 => pinKnown (bitsOf arg 0 6) && (s.pin (bitsOf arg 0 6)).owner = o
  | 2 => let q := s.queue (bitsOf arg 0 18); decide (q.kind ≠ .free) && q.owner = o
  | 4 => bitsOf arg 0 7 < 96 && s.sectorOwner (bitsOf arg 0 7) = o
  | 5 => let q := s.queue (bitsOf arg 4 18); decide (q.kind = .event) && q.owner = o
  | _ => true

/-- A strike record (R255) or task token (R254) of a QUEUE strike. -/
def strikeEntryBytes (task : Bool) (slot : Nat) (e : Strike) (late : Bool) : List Byte :=
  let arg := e.arg.toNat
  if task then
    leBytes 8 e.pos.toNat ++ leBytes 6 (bitsOf arg 32 32) ++ leBytes 2 (bitsOf arg 18 14 + 2 ^ 15)
  else
    leBytes 8 e.pos.toNat ++ leBytes 4 (bitsOf arg 32 32) ++ leBytes 2 slot ++ leBytes 1 (e.ax + 16 * b2n late) ++ leBytes 1 0

/-- A token or record of a strike that its queue refused with a status: an ownership drop where the queue is no longer
one that takes it, else as reason 5 (R58, R66, R248). A CAPTURE record so lost sets LOST in the next one (R74). -/
def State.strikeRefused (s : State) (slot : Nat) (o : Owner) (cap : Bool) (st : NocStatus) : State :=
  let s := s.strikeDrop slot o (if st = .notOwner then 1 else 5)
  if cap then s.modAllot o.val fun a => { a with capLost := true } else s

/-- A token or record goes to its queue, or waits in the owner's holding buffer, or is dropped (R66). While one waits, every
further one of the owner waits behind it (R251). -/
def State.strikePush (s : State) (slot : Nat) (o : Owner) (q : Nat) (bs : List Byte) (cap : Bool) : State :=
  let a := s.allot o.val
  let r := if a.buffer ≠ [] then (PushRes.full, s) else s.qPush q bs
  match r with
  | (.ok, s') => s'
  | (.err st, s') => s'.strikeRefused slot o cap st
  | (.full, s') =>
    let s := s'.modStrike slot fun e => { e with qfull := true }
    if a.buffer.length < 16 then s.modAllot o.val fun a => { a with buffer := a.buffer ++ [(q, bs, slot, cap)] }
    else (s.strikeRefused slot o cap .retry).raise 736 [o]

/-- HOLDING_BUFFER_PUSH (R66): the first token or record that owner `o` holds goes to its queue once that has room. A queue that is
no longer the owner's, or no longer takes it, refuses it (R58). -/
def State.holdingPush (s : State) (o : Owner) : State :=
  let a := s.allot o.val
  match a.buffer with
  | [] => s
  | b :: bs =>
    let t := s.setAllot o.val { a with buffer := bs }
    let q := s.queue b.1
    if q.kind = .free ∨ q.owner ≠ o ∨ (b.2.2.2 ∧ q.kind ≠ .event) then t.strikeRefused b.2.2.1 o b.2.2.2 .notOwner
    else match t.qPush b.1 b.2.1 with
      | (.full, _) => s
      | (.err st, s') => s'.strikeRefused b.2.2.1 o b.2.2.2 st
      | (.ok, s') => s'

def execHoldingBufferPush (o : Owner) (s : State) : Out := .next (s.holdingPush o)

/-- Perform an action of slot `slot`, whose entry at the firing was `e`, at crossing instant `t0` (R56, R65). -/
def State.strikePerform (s : State) (slot : Nat) (e : Strike) (t0 : Nat) (late : Bool) : State :=
  let arg := e.arg.toNat
  let o := e.owner
  if ¬ s.strikeOwns e.action arg o then s.strikeDrop slot o 1
  else match e.action with
    | 1 =>
      let c := bitsOf arg 0 6
      let p := s.pin c
      let t : Int := (t0 : Int) + p.skew
      let mk (t : Int) (l : Option Bool) : PinEdge := { time := t, level := l, slot := slot, ax := e.ax }
      if p.mode ≠ 2 then s.strikeDrop slot o 2
      else s.placeEdges c e.ax (match bitsOf arg 8 2 with
        | 0 => [mk t (some true)]
        | 1 => [mk t (some false)]
        | 2 => [mk t none]
        | _ => [mk t (some true), mk (t + bitsOf arg 16 24) (some false)])
    | 2 =>
      let q := bitsOf arg 0 18
      s.strikePush slot o q (strikeEntryBytes (decide ((s.queue q).kind = .task)) slot e late) false
    | 3 => { s with stk.swaps := s.stk.swaps ++ [(bitsOf arg 0 5, bitsOf arg 8 8, t0)] }
    | 4 =>
      let sec : SectorId := Fin.ofNat 96 (bitsOf arg 0 7)
      let line : Fin 64 := Fin.ofNat 64 (bitsOf arg 8 6)
      if line = 63 ∧ s.line63 sec then s.strikeDrop slot o 1
      else { s with stk.pulses := s.stk.pulses ++ [(sec, line, t0 + 6 * 256, bitsOf arg 16 8)] }
    | 5 =>
      let ax := bitsOf arg 0 4
      let a := s.allot o.val
      let bs := captureBytes (s.posAt ax t0) 2 0 ax false (s.dirBit ax) a.capLost a.capSeq e.pos slot
      let s := s.setAllot o.val { a with capSeq := a.capSeq + 1, capLost := false }
      s.strikePush slot o (bitsOf arg 4 18) bs true
    | 6 => { s with stk.launches := s.stk.launches ++ [(slot, o, bitsOf arg 0 1, bitsOf arg 4 4, bitsOf arg 16 16, t0)] }
    | _ => s

/-! ### The rate regulator (R64) -/

/-- May slot `slot` of owner `o` fire in this microsecond, and the regulator after that firing. -/
def State.regulate (s : State) (slot : Nat) (o : Owner) : Bool × State :=
  let us := s.now / 1000
  if slot < 32 then
    let u := tget s.stk.swapUs (0, 0) slot
    if u.1 = us ∧ 0 < u.2 then (false, s) else (true, { s with stk.swapUs := tput s.stk.swapUs (0, 0) slot (us, 1) })
  else
    let a := s.allot o.val
    let n := if a.us = us then a.fired else 0
    if n < a.rate then (true, s.setAllot o.val { a with us := us, fired := n + 1 }) else (false, s)

/-- Are firings of the same regulator already held back? -/
def State.heldBack (s : State) (slot : Nat) (o : Owner) : Bool :=
  (s.allot o.val).waiting.any fun w => if slot < 32 then decide (w.1 = slot) else decide (32 ≤ w.1)

/-- A firing: performed now, or held back where the owner exceeds its rate (R64). -/
def State.gated (s : State) (slot : Nat) (e : Strike) (t0 : Nat) (late : Bool) : State :=
  let r := s.regulate slot e.owner
  if s.heldBack slot e.owner ∨ ¬ r.1 then
    s.modAllot e.owner.val fun a => { a with waiting := a.waiting ++ [(slot, { e with late := late }, t0)] }
  else r.2.strikePerform slot e t0 late

/-- DELAYED_FIRING (R64): the first firing of owner `o` that was held back and that its rate now admits. -/
def State.delayedFiring (s : State) (o : Owner) : State :=
  let a := s.allot o.val
  match a.waiting.findIdx? fun w => (s.regulate w.1 o).1 with
  | none => s
  | some i =>
    match a.waiting[i]? with
    | none => s
    | some (slot, e, t0) =>
      let s := (s.regulate slot o).2
      let s := s.modAllot o.val fun a => { a with waiting := a.waiting.eraseIdx i, delayed := satInc a.delayed }
      s.strikePerform slot e (max t0 (256 * (if e.isAhead then s.now + 64 else s.now))) e.late

def execDelayedFiring (o : Owner) (s : State) : Out := .next (s.delayedFiring o)

/-! ### Late entries and repeats (R60 to R62) -/

/-- How far ahead an entry's action is committed, in ns (R60, R65): a RING action by the hop latency more. -/
def State.lookAhead (s : State) (e : Strike) : Nat :=
  let arg := e.arg.toNat
  if e.action = 6 then 64 + ceilDiv (tget (s.ring (bitsOf arg 0 1)).path {} (bitsOf arg 4 4)).h.toNat 256 else 64

/-- Is the axis of a step source without interpolation? -/
def State.stepAxis (s : State) (n : Nat) : Bool := let a := s.axis n; srcEvent a.cfg.src.toNat && !a.cfg.track

/-- The crossing of an entry that the look-ahead of R60 predicts: its instant (1/256 ns), whether it goes downward, and the edge
(ns) that publishes it. -/
def State.predicted (s : State) (e : Strike) : Option (Nat × Bool × Nat) :=
  let c := max 1 s.axu.cycle
  let at_ (k : Nat) : W64 := s.axisAhead e.ax (k * c)
  match firstFrom (fun k => crossed e.dir e.pos (at_ (k - 1)) (at_ k)) (s.lookAhead e / c) 1 with
  | some k => some (crossInstant e.pos (at_ (k - 1)) (at_ k) (s.now + k * c) c (s.stepAxis e.ax), posAhead e.pos (at_ k), s.now + k * c)
  | none => none

/-- How many consecutive positions of an entry of one direction, from POSITION on, an axis at `c` has reached. -/
def Strike.reached (e : Strike) (c : W64) : Nat :=
  if posAhead e.pos c = decide (e.dir = 0) then 0
  else if e.interval = 0 then 1
  else if e.dir = 0 then (c - e.pos).toNat / e.interval.toNat + 1
  else ceilDiv (e.pos - c).toNat e.interval.toNat

/-- How many consecutive positions of an entry, from POSITION on, are late (R61, R62): reached by the published position or, for an
action committed ahead, within the look-ahead, on the way there included. -/
def State.lateCount (s : State) (e : Strike) : Nat :=
  let soon := b2n (e.isAhead && (s.predicted e).isSome)
  if e.dir = 2 then max (b2n (e.pos = (s.axis e.ax).pos)) soon
  else if e.isAhead then max (e.reached (s.axis e.ax).pos) (max (e.reached (s.axisAhead e.ax (s.lookAhead e))) soon)
  else e.reached (s.axis e.ax).pos

/-- Does an entry lie beyond the time wheel's horizon (R67)? -/
def State.beyondWheel (s : State) (e : Strike) : Bool :=
  let a := s.axis e.ax
  4096 * 2 ^ a.cfg.bshift.toNat ≤ (e.pos - a.pos).toInt.natAbs

/-- Place an entry in the time wheel or the overflow list (R67). -/
def State.wheel (s : State) (slot : Nat) : State :=
  s.modStrike slot fun e => { e with ovf := e.valid && s.beyondWheel e }

/-- An entry just committed or moved: where it is late it is flagged, counted, performed or not by LATE_POLICY, and
ended or moved to its first position that is not late (R61, R62). -/
def State.catchUp (s : State) (slot : Nat) (least : Nat) : State :=
  let e := s.strike slot
  let k := max (s.lateCount e) least
  if k = 0 then s.wheel slot
  else
    let s := s.modStrike slot fun x => { x with late := true }
    let s := s.modAllot e.owner.val fun a => { a with late := satInc a.late }
    let s := if e.action = 3 then s.modOvlRegion slot fun r => { r with lateS := true } else s
    let t0 := 256 * (if e.isAhead then s.now + 64 else s.now)
    let s := if e.discard then s else s.gated slot e t0 true
    if e.interval = 0 then
      (s.modStrike slot fun x => { (x.setValid false) with fired := x.fired || !e.discard }).wheel slot
    else
      let d : W64 := BitVec.ofNat 64 (k * e.interval.toNat)
      (s.modStrike slot fun x => { x with
        pos := if e.dir = 1 then x.pos - d else x.pos + d
        missed := satAdd x.missed (if e.discard then k else k - 1) }).wheel slot

/-- An entry fires at `t0` (R59, R62). -/
def State.strikeFire (s : State) (slot : Nat) (t0 : Nat) : State :=
  let e := s.strike slot
  let s := s.gated slot e t0 false
  if e.interval = 0 then (s.modStrike slot fun x => { (x.setValid false) with fired := true }).wheel slot
  else
    (s.modStrike slot fun x => { x with
      pos := if e.dir = 1 then x.pos - e.interval else x.pos + e.interval }).catchUp slot 0

/-- STRIKE_CROSSING (R59, R60, R63): the first of the entries crossed starts its action. -/
def State.strikeCrossing (s : State) (slot : Nat) : State :=
  match s.stk.due with
  | [] => s
  | (n, pos, t0) :: rest =>
    if n ≠ slot then s
    else
      let s := { s with stk.due := rest }
      let e := s.strike slot
      if e.valid ∧ e.pos = pos ∧ ¬ e.isAhead then s.strikeFire slot t0 else s

def execStrikeCrossing (slot : SlotId) (s : State) : Out := .next (s.strikeCrossing slot.val)

/-- Has the axis already reached or passed an entry, as published? -/
def State.passed (s : State) (e : Strike) : Bool :=
  let a := s.axis e.ax
  match e.dir with
  | 0 => !posAhead e.pos a.pos
  | 1 => posAhead e.pos a.pos
  | _ => crossed 2 e.pos a.prev a.pos

/-- STRIKE_COMMIT_AHEAD (R51, R60): an entry whose crossing the look-ahead predicts is handed to its pin, region or ring
port; one that a step of the axis has already crossed is late. -/
def State.commitAhead (s : State) (slot : Nat) : State :=
  let e := s.strike slot
  if ¬ e.valid ∨ ¬ e.isAhead ∨ (s.axis e.ax).st = .disabled then s
  else if s.passed e then s.catchUp slot 1
  else match s.predicted e with
    | none => s
    | some (t0, down, edge) =>
      ({ s with stk.ahead := s.stk.ahead ++ [({ slot := slot, ax := e.ax, pos := e.pos, down := down, edge := edge } : Ahead)] }
        : State).strikeFire slot t0

def execStrikeCommitAhead (slot : SlotId) (s : State) : Out := .next (s.commitAhead slot.val)

/-- OVERFLOW_MOVE (R67). -/
def execOverflowMove (slot : SlotId) (s : State) : Out :=
  .next (let e := s.strike slot.val
    if e.valid ∧ e.ovf ∧ ¬ s.beyondWheel e then s.setStrike slot.val { e with ovf := false } else s)

/-- FLINE_PULSE (R65, R477): the first pulse of a strike line whose instant has come. A pulse in a frozen sector is
lost. -/
def State.flinePulse (s : State) (sec : SectorId) (line : Fin 64) : State :=
  match s.stk.pulses.findIdx? fun p => p.1 == sec && p.2.1 == line && decide (p.2.2.1 ≤ 256 * s.now) with
  | none => s
  | some i =>
    match s.stk.pulses[i]? with
    | none => s
    | some (_, _, t, w) =>
      let s := { s with stk.pulses := s.stk.pulses.eraseIdx i }
      if (s.sector sec.val).frozen then s else { s with stk.lines := s.stk.lines ++ [(sec, line, t + 256 * w)] }

def execFlinePulse (sec : SectorId) (line : Fin 64) (s : State) : Out := .next (s.flinePulse sec line)

/-! ### Posting (R57, R58) -/

/-- Bytes `bs` staged from byte `off` of a slot on. -/
def State.staged (s : State) (slot off : Nat) (bs : List Byte) : State :=
  { s with stk.stage := bs.zipIdx.foldl (fun (t : Tab (Option Byte)) (b : Byte × Nat) =>
      tput t none (24 * slot + off + b.2) (some b.1)) s.stk.stage }

/-- A write of `bs` to bytes 0 to 23 of a slot (R57). A second initiator of the owner staging before one commit is an owner error
(R80): what is staged of the entry is then free. -/
def State.stageWrite (s : State) (who : Initiator) (slot off : Nat) (bs : List Byte) : State :=
  if off % bs.length ≠ 0 then s
  else if ¬ s.slotMine who slot then s.noteOwner who
  else if s.stk.stager.any fun e => decide (e.1 = slot) && decide (e.2 ≠ who) then
    let f := s.freshBytes 24
    f.2.staged slot 0 f.1
  else
    let s := s.staged slot off bs
    { s with stk.stager := (s.stk.stager.filter fun e => decide (e.1 ≠ slot)) ++ [(slot, who)] }

/-- STRIKE_STAGE_WRITE: an aligned write of 4 or 8 bytes to bytes 0 to 23. -/
def execStrikeStageWrite (who : Initiator) (slot : SlotId) (off : Fin 24) (wide : Bool) (v : BitVec 64) (s : State) :
    Out :=
  let bs := leBytes (if wide then 8 else 4) v.toNat
  .next (s.inHostOrder who (strikeBase + 32 * slot.val + off.val) none bs fun s => s.stageWrite who slot.val off.val bs)

/-- Bytes 0 to 23 of an entry as it stands. -/
def Strike.body (e : Strike) : List Byte := leBytes 8 e.pos.toNat ++ leBytes 8 e.interval.toNat ++ leBytes 8 e.arg.toNat

/-- Bytes 24 to 31 as they read (R55). -/
def Strike.control (e : Strike) : List Byte :=
  leBytes 2 e.ctl.toNat ++ leBytes 2 e.owner.val ++
    leBytes 2 (maskOf [e.late, e.fired, e.spaced, e.qfull, e.early, e.dropped, e.cancelled]) ++ leBytes 2 e.missed.toNat

/-- Bits of ARG that ACTION gives no meaning (R56, R80). -/
def argReserved (action arg : Nat) : Bool :=
  match action with
  | 1 => bitsOf arg 6 2 ≠ 0 || bitsOf arg 10 6 ≠ 0 || bitsOf arg 40 24 ≠ 0
  | 3 => bitsOf arg 5 3 ≠ 0 || bitsOf arg 16 48 ≠ 0
  | 4 => bitsOf arg 7 1 ≠ 0 || bitsOf arg 14 2 ≠ 0 || bitsOf arg 24 40 ≠ 0
  | 5 => bitsOf arg 22 42 ≠ 0
  | 6 => bitsOf arg 1 3 ≠ 0 || bitsOf arg 8 8 ≠ 0 || bitsOf arg 32 32 ≠ 0
  | _ => false

/-- Why a commit drops an entry (R58, R78). -/
def State.commitReason (s : State) (e : Strike) : Option Nat :=
  let a := s.axis e.ax
  if e.action = 3 then some 6
  else if e.action = 7 then some 7
  else if e.dir = 3 ∨ (e.dir ≠ 0 ∧ ¬ a.cfg.bidir) ∨ (e.dir = 2 ∧ e.interval ≠ 0) then some 3
  else if a.st = .disabled then some 4
  else if ¬ (if e.action = 5 then
      let q := s.queue (bitsOf e.arg.toNat 4 18); decide (q.kind ≠ .free) && decide (q.owner = e.owner)
    else s.strikeOwns e.action e.arg.toNat e.owner) then some 1
  else none

/-- Put entry `e` in force in slot `slot`, with the drop and late checks (R57, R58, R61, R63). -/
def State.commitEntry (s : State) (slot : Nat) (e : Strike) : State :=
  if ¬ e.valid then s.setStrike slot e
  else match s.commitReason e with
    | some r => (s.setStrike slot (e.setValid false)).strikeDrop slot e.owner r
    | none => (s.setStrike slot e).catchUp slot 0

/-- The entry that a commit of owner `o` puts in force: staged bytes over those in force, CONTROL from the write, status
clear (R55, R57). -/
def State.entryFrom (s : State) (slot : Nat) (o : Owner) (ctl : Nat) : Strike :=
  let body := ((s.strike slot).body.zipIdx).map fun (b : Byte × Nat) => (tget s.stk.stage none (24 * slot + b.2)).getD b.1
  { pos := BitVec.ofNat 64 (leNat (body.take 8))
    interval := BitVec.ofNat 64 (leNat ((body.drop 8).take 8))
    arg := BitVec.ofNat 64 (leNat ((body.drop 16).take 8))
    ctl := BitVec.ofNat 16 (bitsOf ctl 0 11)
    owner := o }

/-- The entry of a commit, owner errors included (R10): reserved bits set to one in CONTROL leave CONTROL free (R15); reserved bits in
the ARG of an entry made valid, and an FLINE pulse of no width (R66), leave ARG free (R80). Every check of R58 and of the firing
then applies to the free value, so that it reaches nothing of another owner (R9). -/
def State.commitFrom (s : State) (slot : Nat) (o : Owner) (w : Nat) : Strike × State :=
  let c := s.fresh 32
  let x : Nat × State := if bitsOf w 11 5 ≠ 0 ∨ bitsOf w 20 12 ≠ 0 then (c.1.toNat, c.2) else (w, s)
  let e := x.2.entryFrom slot o x.1
  if e.valid ∧ (argReserved e.action e.arg.toNat ∨ (e.action = 4 ∧ bitsOf e.arg.toNat 16 8 = 0)) then
    let a := x.2.fresh 64
    ({ e with arg := a.1 }, a.2)
  else (e, x.2)

/-- A write of `bs` to bytes 24 to 27, or 24 to 31, of a slot: the commit (R57). -/
def State.commitWrite (s : State) (who : Initiator) (slot : Nat) (bs : List Byte) : State :=
  if ¬ s.slotMine who slot then s.noteOwner who
  else
    let x := s.commitFrom slot (s.ownerOf who) (leNat bs)
    let s := x.2
    let st := (List.range 24).foldl (fun (t : Tab (Option Byte)) i => tput t none (24 * slot + i) none) s.stk.stage
    let s := { s with stk.stage := st, stk.stager := s.stk.stager.filter fun e => decide (e.1 ≠ slot) }
    s.commitEntry slot x.1

/-- STRIKE_ENTRY_COMMIT: a write to bytes 24 to 27, or 24 to 31. -/
def execStrikeEntryCommit (who : Initiator) (slot : SlotId) (wide : Bool) (v : BitVec 64) (s : State) : Out :=
  let bs := leBytes (if wide then 8 else 4) v.toNat
  .next (s.inHostOrder who (strikeBase + 32 * slot.val + 24) none bs fun s => s.commitWrite who slot.val bs)

/-! ### Registers (R78) and the strike window -/

/-- A read of `n` bytes at byte `off` of a slot: the entry in force (R57). -/
def State.slotBytes (s : State) (slot off n : Nat) : List Byte :=
  (((s.strike slot).body ++ (s.strike slot).control).drop off).take n

/-- The STK registers that a read leaves alone (R78). -/
def State.stkRead (s : State) (off : Nat) : W32 :=
  if off = 0 then BitVec.ofNat 32 (s.stk.entry.filter fun e => e.2.valid).length
  else if off = 4 then BitVec.ofNat 32 (s.stk.entry.filter fun e => e.2.valid && e.2.ovf).length
  else if 0x100 ≤ off ∧ off < 0x300 then
    let a := s.allot ((off - 0x100) / 0x20)
    match (off - 0x100) % 0x20 with
    | 0x00 => BitVec.ofNat 32 a.base
    | 0x04 => BitVec.ofNat 32 a.count
    | 0x08 => BitVec.ofNat 32 a.rate
    | 0x0C => a.late
    | 0x10 => a.delayed
    | 0x14 => packW [(0, a.drop.toNat), (28, a.reason.toNat)]
    | _ => 0#32
  else 0#32

def execStkLateRead (who : Initiator) (o : Owner) (s : State) : Out :=
  .next (s.inHostOrder who (ctlBase + 0x40010C + 0x20 * o.val) (some 4) [] fun s => s.rcRead who (s.allot o.val).late fun s => s.modAllot o.val fun a => { a with late := 0#32 })

def execStkDelayedRead (who : Initiator) (o : Owner) (s : State) : Out :=
  .next (s.inHostOrder who (ctlBase + 0x400110 + 0x20 * o.val) (some 4) [] fun s => s.rcRead who (s.allot o.val).delayed fun s => s.modAllot o.val fun a => { a with delayed := 0#32 })

def execStkDropRead (who : Initiator) (o : Owner) (s : State) : Out :=
  .next (s.inHostOrder who (ctlBase + 0x400114 + 0x20 * o.val) (some 4) [] fun s => s.rcRead who (packW [(0, (s.allot o.val).drop.toNat), (28, (s.allot o.val).reason.toNat)]) fun s =>
    s.modAllot o.val fun a => { a with drop := 0#28, reason := 0#4 })

end Sys2Proof.Machine
end

