-- ==== Sys2Proof/Machine/Ptu.lean ====
section
/-!
DEFINITION. Machine/Ptu.lean: the precision time units: setting and steering time (R90 to R95), transmit time-stamp
queues (R87 to R89), their registers and commands (R97 to R99).
-/
namespace Sys2Proof.Machine

/-- The addends that PTP_STEP and PTP_SET_RATE accept (R90). -/
def addendOk (v : Nat) : Bool := 0xFFBE76C9 ≤ v && v ≤ 0x100418937

/-- PTU_STAT (R98). -/
def Ptu.stat (p : Ptu) (now : Nat) : W32 :=
  let st := match p.st with
    | .unset => 0
    | .tracking => 1
    | .holdover => 2
  packW [(0, st), (2, b2n (p.inForce now).2), (4, p.epoch.toNat), (8, b2n p.holdS), (9, b2n p.stepS), (10, b2n p.resetS)]

/-- PTU_TSQ_STAT (R98). -/
def Ptu.tsqStat (p : Ptu) : W32 := packW [(0, p.tsq.length), (8, b2n p.ovf), (16, p.lostcnt.toNat)]

/-- Addends latched by an earlier command that take effect before a new one latched at `now` does (R93). -/
def Ptu.inFlight (p : Ptu) (now : Nat) : List (Nat × W64 × Bool) := p.latched.filter fun e => decide (e.1 < now + 64)

/-- Entry into HOLDOVER (R94). -/
def State.ptuHold (s : State) (n : Nat) : State :=
  let p := s.ptuAt n
  let s := s.setPtuAt n { p with
    st := .holdover
    holdS := true
    slewEnd := none
    latched := if p.slewEnd.isSome then p.inFlight s.now ++ [(s.now + 64, p.base, false)] else p.latched }
  s.raise (760 + n) [s.ptuOwner n]

/-- A command of the time controller of unit `n` (R99). -/
def State.withPtu (s : State) (o : Owner) (n : Nat) (f : Ptu → Ans) : Ans :=
  if 1 < n then no .wrongState s else if s.ptuOwner n ≠ o then no .notOwner s else f (s.ptuAt n)

def execPtpConfig (m : Mb) (s : State) : Out :=
  .next (s.serve m 0x0801 anyForm 0x10 fun r s => s.withPtu (s.issuer m) (r.u32 0x10) fun p =>
    if bitsOf (r.u32 0x18) 17 15 ≠ 0 then no .wrongState s
    else ok (s.setPtuAt (r.u32 0x10) { p with lat := BitVec.ofNat 32 (r.u32 0x14), hold := BitVec.ofNat 32 (r.u32 0x18) }))

/-- PTP_STEP (R92, R99). LOCAL is a count as AXIS_QUERY returns it; 0 names the edge of acceptance. -/
def ptpStep (m : Mb) (r : Running) (s : State) : Ans :=
  let n := r.u32 0x10
  s.withPtu (s.issuer m) n fun p =>
    let l := r.u64 0x28
    let add := r.u64 0x30
    let ago := if l = 0 then 0 else (s.localPos - BitVec.ofNat 64 l).toNat
    if p.st ≠ .unset ∨ 999999999 < r.u32 0x14 ∨ 2 ^ 48 ≤ r.u64 0x18 ∨ ¬ addendOk add ∨ 10 ^ 9 * 2 ^ 16 < ago then
      no .wrongState s
    else
      let x := r.u32 0x14 * 2 ^ 32 + r.u32 0x20 + ago * add / 2 ^ 16
      let t := x / 2 ^ 32
      ok (s.setPtuAt n { p with
        st := .tracking
        sec := BitVec.ofNat 48 (r.u64 0x18 + t / 10 ^ 9)
        ns := t % 10 ^ 9
        frac := BitVec.ofNat 32 x
        addend := BitVec.ofNat 64 add
        base := BitVec.ofNat 64 add
        latched := []
        slewOn := false
        slewEnd := none
        epoch := p.epoch + 1
        stepS := true
        lastRate := s.now })

def execPtpStep (m : Mb) (s : State) : Out := .next (s.serve m 0x0802 anyForm 0x10 (ptpStep m))

/-- PTP_SET_RATE (R93). -/
def ptpSetRate (m : Mb) (r : Running) (s : State) : Ans :=
  let n := r.u32 0x10
  s.withPtu (s.issuer m) n fun p =>
    let base := r.u64 0x18
    let slew := r.u64 0x20
    let d := r.u32 0x28
    if p.st = .unset ∨ ¬ addendOk base ∨ (d ≠ 0 ∧ ¬ addendOk slew) then no .wrongState s
    else
      let t := s.now + 64
      let new : List (Nat × W64 × Bool) :=
        if d = 0 then [(t, BitVec.ofNat 64 base, false)]
        else [(t, BitVec.ofNat 64 slew, true), (t + d, BitVec.ofNat 64 base, false)]
      ok (s.setPtuAt n { p with
        st := .tracking
        base := BitVec.ofNat 64 base
        latched := p.inFlight s.now ++ new
        slewEnd := if d = 0 then none else some (t + d)
        lastRate := s.now })

def execPtpSetRate (m : Mb) (s : State) : Out := .next (s.serve m 0x0803 anyForm 0x10 (ptpSetRate m))

def execPtpHoldover (m : Mb) (s : State) : Out :=
  .next (s.serve m 0x0804 anyForm 0x10 fun r s => s.withPtu (s.issuer m) (r.u32 0x10) fun p =>
    if p.st ≠ .tracking then no .wrongState s else ok (s.ptuHold (r.u32 0x10)))

/-- Axes whose source is PTP_n. -/
def State.ptuAxes (s : State) (n : Nat) : List Nat := (List.range 16).filter fun a => (s.axis a).cfg.src.toNat = n + 1

/-- What PTP_RESET_TIME does to one axis of its unit (R95). -/
def State.ptuDisc (s : State) (a : Nat) : State :=
  let s := (s.cancelOn a).modAxis a fun x => { x with
    cfg := { x.cfg with en := false }
    st := .disabled
    discS := true
    first := true
    epochOut := x.epochOut + 1 }
  let s := { s with
    axu.cap := s.axu.cap.map fun (c : Nat × Capture) =>
      if c.2.ax = a then (c.1, { c.2 with cfg := BitVec.ofNat 32 (setBits c.2.cfg.toNat 12 2 0) }) else c }
  s.pllStick a

/-- PTP_RESET_TIME (R53, R95, R96). -/
def ptpReset (m : Mb) (r : Running) (s : State) : Ans :=
  let n := r.u32 0x10
  s.withPtu (s.issuer m) n fun p =>
    let axes := s.ptuAxes n
    if p.st = .unset ∨ axes.any fun a => (s.groupsOn a).any s.grpAdmitted || s.swapOn a then no .wrongState s
    else
      let k := (axes.map fun a => (s.entriesOn a).length).foldl (· + ·) 0
      let s := axes.foldl State.ptuDisc s
      let s := s.setPtuAt n { p with
        st := .unset
        sec := 0#48
        ns := 0
        frac := 0#32
        addend := 0x100000000#64
        base := 0x100000000#64
        latched := []
        slewOn := false
        slewEnd := none
        epoch := p.epoch + 1
        resetS := true
        tsq := [] }
      .reply (if k = 0 then .ok else .axisDiscontinuous) 0 (leBytes 4 k) s

def execPtpResetTime (m : Mb) (s : State) : Out := .next (s.serve m 0x0805 anyForm 0x14 (ptpReset m))

def execPtpQuery (m : Mb) (s : State) : Out :=
  .next (s.serve m 0x0806 anyForm 0x38 fun r s =>
    let n := r.u32 0x10
    let p := s.ptuAt n
    if 1 < n then no .wrongState s
    else ok s (leBytes 8 s.localPos.toNat ++ leBytes 8 p.sec.toNat ++ leBytes 4 p.ns ++ leBytes 4 p.frac.toNat ++
      leBytes 8 (p.inForce s.now).1.toNat ++ leBytes 4 (p.stat s.now).toNat ++ leBytes 4 p.tsqStat.toNat))

/-- HOLD_TIMEOUT (R94). -/
def execHoldTimeout (n : Fin 2) (s : State) : Out :=
  let p := s.ptuAt n.val
  let t := bitsOf p.hold.toNat 0 16
  .next (if p.st = .tracking ∧ t ≠ 0 ∧ p.lastRate + t * 1000000 ≤ s.now then s.ptuHold n.val else s)

/-- SLEW_END (R93): the slew's time is over and the base addend is in force. -/
def execSlewEnd (n : Fin 2) (s : State) : Out :=
  let p := s.ptuAt n.val
  .next (match p.slewEnd with
    | some t => if t ≤ s.now then s.setPtuAt n.val { p with slewEnd := none, addend := p.base, slewOn := false, latched := [] } else s
    | none => s)

/-! ### Time-stamps (R85, R87 to R89) -/

/-- The time-stamp of PTU `n` now, with a latency in 1/256 ns added (R84, R85). -/
def State.stampNow (s : State) (n : Nat) (lat : Int) : W32 :=
  let p := s.ptuAt n
  BitVec.ofInt 32 ((((p.sec.toNat * 10 ^ 9 + p.ns) * 256 + p.frac.toNat / 2 ^ 24 : Nat) + lat) / 256)

/-- A time-stamp lost at a full queue (R88). -/
def State.stampLost (s : State) (n : Nat) : State :=
  (s.modPtuAt n fun p => { p with ovf := true, lostcnt := p.lostcnt + 1 }).raise (762 + n) [s.ptuOwner n]

/-- TX_LAT of PTU `n` (R98). -/
def State.txLat (s : State) (n : Nat) : Int := ((s.ptuAt n).lat.extractLsb' 16 16).toInt

/-- TX_TIMESTAMP: the first of the frames sent that ask for a time-stamp passes the reference plane now (R83, R87, R88). -/
def execTxTimestamp (n : Fin 2) (s : State) : Out :=
  .next (match (s.mac n.val).stamps with
    | [] => s
    | (tsid, fail) :: rest =>
      let s := s.modMac n.val fun x => { x with stamps := rest }
      let p := s.ptuAt n.val
      if p.tsq.length < 64 then
        s.setPtuAt n.val { p with tsq := p.tsq ++
          [{ ts := s.stampNow n.val (s.txLat n.val), tsid := tsid, epoch := p.epoch, fail := fail }] }
      else s.stampLost n.val)

/-- PTU_TSQ_HI of an entry. -/
def TsEntry.hi (e : TsEntry) : W32 := packW [(0, e.tsid.toNat), (16, 1), (17, e.epoch.toNat), (19, b2n e.fail)]

/-- The captured PTU_TSQ_HI of an initiator replaced. -/
def Ptu.capture (p : Ptu) (who : Initiator) (v : W32) : Ptu :=
  { p with hi := (who, v) :: p.hi.filter fun e => decide (e.1 ≠ who) }

/-- PTU_TSQ_POP (R89): another owner's read returns zero and pops nothing; a debug session's read peeks, and captures as the pop
does (R475). -/
def execPtuTsqPop (who : Initiator) (n : Fin 2) (s : State) : Out :=
  .next (s.inHostOrder who (ctlBase + 0x500030 + 0x100 * n.val) (some 4) [] fun s =>
    let p := s.ptuAt n.val
    if ¬ s.passes who (s.ptuOwner n.val) then { s with readData := leBytes 4 0 }
    else match p.tsq with
      | [] => { s with readData := leBytes 4 0 }.setPtuAt n.val (p.capture who 0#32)
      | e :: rest =>
        { s with readData := leBytes 4 e.ts.toNat }.setPtuAt n.val
          { p.capture who e.hi with tsq := if isDebug who then p.tsq else rest })

/-- PTU_TSQ_STAT_READ (R98, KL-04): the read clears OVF even where a time-stamp is lost during it (`lostNow`). -/
def execPtuTsqStatRead (who : Initiator) (n : Fin 2) (lostNow : Bool) (s : State) : Out :=
  .next (s.inHostOrder who (ctlBase + 0x500038 + 0x100 * n.val) (some 4) [] fun s =>
    let v := (s.ptuAt n.val).tsqStat
    let s := if lostNow ∧ (s.ptuAt n.val).tsq.length = 64 then s.stampLost n.val else s
    s.rcRead who v fun s => s.modPtuAt n.val fun p => { p with ovf := false })

/-- A PTU register at an offset (R97, R98), apart from the pop and the clearing read of TSQ_STAT. A read of TIME_NS samples
the time for its initiator. An initiator that has popped nothing finds TSQ_HI at its reset value 0 (DEDUCED, log 121). -/
def State.ptuRead (s : State) (who : Initiator) (off : Nat) : W32 × State :=
  let n := off / 0x100
  let p := s.ptuAt n
  let smp : BitVec 48 × W32 := match p.sample.find? fun e => e.1 = who with
    | some e => e.2
    | none => (0#48, 0#32)
  if 1 < n then (0#32, s)
  else match off % 0x100 with
    | 0x00 => (p.stat s.now, s)
    | 0x04 => (BitVec.ofNat 32 p.ns,
        s.setPtuAt n { p with sample := (who, p.sec, p.frac) :: p.sample.filter fun e => decide (e.1 ≠ who) })
    | 0x08 => (smp.1.extractLsb' 0 32, s)
    | 0x0C => ((smp.1.extractLsb' 32 16).setWidth 32, s)
    | 0x10 => (smp.2, s)
    | 0x18 => ((p.inForce s.now).1.extractLsb' 0 32, s)
    | 0x1C => ((p.inForce s.now).1.extractLsb' 32 32, s)
    | 0x20 => (p.lat, s)
    | 0x24 => (p.hold, s)
    | 0x34 => (match p.hi.find? fun e => e.1 = who with | some e => e.2 | none => 0#32, s)
    | 0x38 => (p.tsqStat, s)
    | _ => (0#32, s)

end Sys2Proof.Machine
end

