-- ==== Sys2Proof/Machine/Fault.lean ====
section
/-!
DEFINITION. Machine/Fault.lean: the fault collector: levels, escalation, delivery, latching and the history (R442 to
R451), lockstep recovery (R452), temperature (R453, R454), the FLT and THM registers and the 0x09xx commands (R458 to
R460).
-/
namespace Sys2Proof.Machine

/-! ### Handling one fault (R442, R446 to R451) -/

/-- The event that the collector handles next: the earliest, of one instant the lowest source (R447). -/
def earlier (a b : Raised) : Bool := a.time < b.time || (a.time = b.time && a.src < b.src)

def nextFault (l : List Raised) : Option Raised :=
  l.foldl (fun (m : Option Raised) r => match m with
    | some x => if earlier r x then some r else some x
    | none => some r) none

/-- Count one event of source `i` (FLT_CNT_i). -/
def State.fltCount (s : State) (i : Nat) : State := { s with flt.cnt := tput s.flt.cnt 0#32 i (satInc (tget s.flt.cnt 0#32 i)) }

/-- A record joins the history; at 1,024 the oldest goes and FSRC 3 counts (R451). -/
def State.fltHistory (s : State) (r : FaultRec) : State :=
  if s.flt.history.length < 1024 then { s with flt.history := s.flt.history ++ [r] }
  else { s with flt.history := s.flt.history.tail ++ [r], flt.histFirst := s.flt.histFirst + 1 }.fltCount 3

/-- The 32 bytes of a record (R451). -/
def FaultRec.bytes (r : FaultRec) : List Byte :=
  let b := blockCode r.block
  leBytes 8 r.stamp.toNat ++ leBytes 2 (r.src + 1024 * r.cls) ++
    leBytes 1 (r.level + 8 * r.applied + 64 * b2n r.errn + 128 * b2n r.latched) ++
    leBytes 1 (r.owner.val + 16 * b2n r.injected) ++ leBytes 4 r.info.toNat ++ leBytes 1 b.1 ++ leBytes 1 b.2 ++
    leBytes 2 r.seq.toNat ++ leBytes 4 r.count.toNat ++ leBytes 8 0

/-- A record pushed to an EVENT queue of owner `o`; one that finds it full is dropped and counts in FSRC 4 (R446). -/
def State.fltPush (s : State) (o : Owner) (n : Nat) (bs : List Byte) : State :=
  let q := s.queue n
  if q.kind = .event ∧ q.owner = o then
    match s.qPush n bs with
    | (.ok, s') => s'
    | (_, s') => s'.fltCount 4
  else s.fltCount 4

/-- Delivery at L1 and above by the forms that the owner enabled (R446). -/
def State.fltDeliver (s : State) (o : Owner) (r : FaultRec) : State :=
  let n := (s.ownerFlt o).notify
  let s := match n.queue with
    | some q => s.fltPush o q r.bytes
    | none => s
  let s := match n.vector with
    | some v => if o = s.pfOwner 0 then s.msix 0 v else s
    | none => s
  let s := match n.engine with
    | some g => s.modEngAt g fun e => { e with swi := true }
    | none => s
  match n.sector with
  | some sec => { s with stk.pulses := s.stk.pulses ++ [(Fin.ofNat 96 sec, 63, 256 * s.now, 20)] }
  | none => s

/-- The urgent host message of L2 and above (R446). -/
def State.fltUrgent (s : State) (o : Owner) (r : FaultRec) : State :=
  let p := s.pfOwner 0
  let n := (s.ownerFlt p).notify
  let r' := if o = p then r else { r with info := 0#32 }
  let s := match n.queue with
    | some q => s.fltPush p q r'.bytes
    | none => s
  match n.urgent with
  | some v => s.msix 0 v
  | none => s

/-- ERR_N is driven for a fault of owner `o` and class `c` (R445). -/
def State.errnDrive (s : State) (o : Owner) (c : Nat) (latch : Bool) (b : Option Block) : State :=
  { s with
    flt.errnPend := if s.flt.errnPend.contains (o, c) then s.flt.errnPend else s.flt.errnPend ++ [(o, c)]
    flt.errnLatch := if latch && !s.flt.errnLatch.contains b then s.flt.errnLatch ++ [b] else s.flt.errnLatch
    flt.errnSince := match s.flt.errnSince with
      | some t => some t
      | none => some s.now }

/-- A latched fault sets IN_FAULT of its block, or latches the chip (R449). -/
def State.fltLatch (s : State) (b : Option Block) : State :=
  match b with
  | some b => if s.flt.inFault.contains b then s else { s with flt.inFault := s.flt.inFault ++ [b] }
  | none => { s with flt.chipLatched := true }

/-- The level at which a fault of source settings `cfg` and class `c` is handled for owner `o` (R442, R444, R447). -/
def State.fltLevel (s : State) (f : Raised) (o : Owner) : Nat :=
  let cfg := s.srcCfg f.src
  if ¬ s.mbx.ready ∨ f.src = 0 ∨ f.src = 123 then 0
  else
    let l := match tget (s.ownerFlt o).esc none f.cls with
      | some e => max cfg.level (e + 1)
      | none => cfg.level
    min l cfg.cap

/-- The coalescing key of a source and owner (R450). -/
def coalKey (src : Nat) (o : Owner) : Nat := 16 * src + o.val

/-- A fault handled for one owner it is delivered to (R442, R446 to R450); the level, 0 where it was coalesced. -/
def State.fltOne (s : State) (f : Raised) (o : Owner) : Nat × State :=
  let key := coalKey f.src o
  let held := match tget s.flt.coal none key with
    | some c => if f.time < c.last + 10000 then some c else none
    | none => none
  match held with
  | some c => (0, { s with flt.coal := tput s.flt.coal none key (some { c with count := satInc c.count }) })
  | none =>
    let since : W32 := match tget s.flt.coal none key with
      | some c => c.count
      | none => 0#32
    let cfg := s.srcCfg f.src
    let lvl := s.fltLevel f o
    let latch := decide (2 ≤ lvl) || cfg.latch
    let w := s.ownerFlt o
    let r : FaultRec := {
      stamp := f.stamp, src := f.src, cls := f.cls, level := cfg.level, applied := lvl, errn := cfg.errn, latched := latch
      owner := o, injected := f.injected, info := f.info, block := f.block, seq := w.seq, count := satInc since }
    let s := s.setOwnerFlt o { w with
      pend := w.pend ||| BitVec.ofNat 8 (2 ^ f.cls)
      esc := tput w.esc none f.cls (some lvl)
      last := packW [(0, f.src), (10, f.cls), (13, lvl), (16, w.seq.toNat)]
      count := satInc w.count
      seq := w.seq + 1 }
    let s := { s with flt.coal := tput s.flt.coal none key (some { last := f.time, count := 0#32 }) }
    let s := s.fltHistory r
    let s := if cfg.errn then s.errnDrive o f.cls latch f.block else s
    let s := if latch then s.fltLatch f.block else s
    let s := if 1 ≤ lvl then s.fltDeliver o r else s
    let s := if 2 ≤ lvl then { s with flt.nmis := s.flt.nmis + 1 }.fltUrgent o r else s
    (lvl, s)

/-- A block reset asked for by an L3 reaction (R442). -/
def State.askReset (s : State) (b : Block) (m : Option Mb) : State :=
  { s with ckr.resetReq := s.ckr.resetReq ++ [(b, m)] }

/-- A chip reset falls due at `t`, unless an earlier one does (R431, R436). -/
def State.askChipReset (s : State) (t cause : Nat) : State :=
  match s.ckr.chipReset with
  | some (t', _) => if t < t' then { s with ckr.chipReset := some (t, cause) } else s
  | none => { s with ckr.chipReset := some (t, cause) }

/-- The reaction of the highest level: L3 resets the block, or, of class C7 without one, acts as L4; L4 resets the chip
with cause 4 and holds ERR_N low until the device runs again (R442, R444, R445). -/
def State.fltReact (s : State) (f : Raised) (lvl : Nat) : State :=
  let chip (s : State) : State := { s with flt.errnChip := true }.askChipReset s.now 4
  if lvl = 4 then chip s
  else if lvl = 3 then
    match f.block with
    | some b => s.askReset b none
    | none => if f.cls = 7 then chip s else s
  else s

/-- The fault of sources that act outside the ladder is only counted and recorded (R444). -/
def State.fltHandle (s : State) (f : Raised) : State :=
  let s := s.fltCount f.src
  if f.cls = 0 ∨ (s.srcCfg f.src).mask then s
  else
    let os := if f.owners = [] then [0] else f.owners
    let r := os.foldl (fun (p : Nat × State) o => let q := p.2.fltOne f o; (max p.1 q.1, q.2)) (0, s)
    r.2.fltReact f r.1

/-- FAULT_RAISE (R442). -/
def State.faultRaise (s : State) : State :=
  match nextFault s.flt.raised with
  | none => s
  | some f => { s with flt.raised := s.flt.raised.erase f }.fltHandle f

def execFaultRaise (s : State) : Out := .next s.faultRaise

/-! ### Acknowledgement and ERR_N (R445, R448) -/

/-- Acknowledge the classes of mask `v` for owner `o`. -/
def State.fltAck (s : State) (o : Owner) (v : Nat) : State :=
  let named (c : Nat) : Bool := 1 ≤ c && c ≤ 7 && bitOf v c
  let s := s.modOwnerFlt o fun w => { w with
    pend := w.pend &&& ~~~(BitVec.ofNat 8 (setBits v 0 1 0))
    esc := w.esc.filter fun e => !named e.1 }
  { s with flt.errnPend := s.flt.errnPend.filter fun e => !(decide (e.1 = o) && named e.2) }

def execFltPendWrite (who : Initiator) (o : Owner) (v : BitVec 32) (s : State) : Out :=
  .next (s.inHostOrder who (ctlBase + 0x100100 + 16 * o.val) none (leBytes 4 v.toNat) fun s =>
    if s.passes who o then s.fltAck o v.toNat else s.noteOwner who)

/-- Is ERR_N driven low (R445, R455)? -/
def State.errN (s : State) : Bool :=
  s.flt.errnSince.isSome || !s.flt.errnPend.isEmpty || !s.flt.errnLatch.isEmpty || s.flt.errnChip || s.thm.shutdown

/-- ERR_N_HOLD_EXPIRY (R445): the 10 µs minimum is over. -/
def execErrNHoldExpiry (s : State) : Out :=
  .next (match s.flt.errnSince with
    | some t => if t + 10000 ≤ s.now then { s with flt.errnSince := none } else s
    | none => s)

/-! ### Lockstep recovery (R452) -/

def execLockstepDisagreement (s : State) : Out :=
  if s.flt.lockstep then .next s
  else
    let again : Bool := match s.flt.lockLast with
      | some t => decide (s.now < t + 10 ^ 9)
      | none => false
    let s := { s with flt.lockLast := some s.now }.raise 0 [0]
    .next (if again then s.askChipReset s.now 4 else { s with flt.lockstep := true })

def execLockstepRecovery (checkpointOk : Bool) (s : State) : Out :=
  .next (if ¬ s.flt.lockstep then s
    else if checkpointOk then
      ({ s with flt.lockstep := false, flt.lockCount := satInc s.flt.lockCount }.raise 1 [0]).healthCause 5
    else s.askChipReset s.now 4)

/-! ### Temperature (R453, R454) -/

/-- The grade maximum in 1/8 °C (R454). -/
def State.gradeMax (s : State) : Int := if s.gradeE then 880 else 1000

/-- The WARN threshold (R454). -/
def State.warnAt (s : State) : Int := match s.thm.warnAt with
  | some v => v.toInt
  | none => s.gradeMax - 80

/-- The hottest valid sensor and its reading. -/
def State.hottest (s : State) : Option (Nat × Int) :=
  s.thm.sens.foldl (fun (m : Option (Nat × Int)) e =>
    if e.2.valid then
      match m with
      | some x => if x.2 < e.2.temp.toInt then some (e.1, e.2.temp.toInt) else m
      | none => some (e.1, e.2.temp.toInt)
    else m) none

/-- A threshold flag: set above its threshold, cleared 3 °C below (R454). -/
def thermFlag (flag : Bool) (t limit : Int) : Bool := if limit < t then true else if t ≤ limit - 24 then false else flag

/-- SENSOR_READING: a reading outside −70 to 160 °C, or one that is stuck, marks the sensor FAILED. -/
def State.sensorReading (s : State) (i : Nat) (t : BitVec 16) (stuck : Bool) : State :=
  let x := s.sensor i
  if x.failed then s
  else if stuck ∨ t.toInt < -560 ∨ 1280 < t.toInt then
    (s.setSensor i { x with valid := false, failed := true, hot := 0 }).raise 122 [0]
  else
    let s := s.setSensor i { x with
      temp := t
      valid := true
      hot := if 1040 ≤ t.toInt then (if x.hot = 0 then 1 else 2) else 0 }
    match s.hottest with
    | none => s
    | some (_, tj) =>
      let warn := thermFlag s.thm.warn tj s.warnAt
      let overMax := thermFlag s.thm.overMax tj s.gradeMax
      let rise := (warn && !s.thm.warn, overMax && !s.thm.overMax)
      let s := { s with
        thm.warn := warn
        thm.overMax := overMax
        thm.peak := if s.thm.peak.toInt < tj then BitVec.ofInt 16 tj else s.thm.peak }
      let s := if rise.1 then s.raise 120 [0] else s
      if rise.2 then s.raise 121 [0] else s

def execSensorReading (i : Fin 64) (t : BitVec 16) (stuck : Bool) (s : State) : Out := .next (s.sensorReading i.val t stuck)

/-! ### Registers (R458, R459) -/

/-- An FLT register. -/
def State.fltRead (s : State) (off : Nat) : W32 :=
  if off = 0 then
    packW [(0, ((List.range 16).map fun o => ((List.range 8).filter (inMask (s.ownerFlt o).pend.toNat)).length).foldl (· + ·) 0),
      (10, b2n s.errN), (11, b2n s.flt.lockstep), (12, b2n s.flt.chipLatched), (16, s.flt.history.length)]
  else if 0x100 ≤ off ∧ off < 0x200 then
    let w := s.ownerFlt ((off - 0x100) / 0x10)
    match off % 0x10 with
    | 0 => w.pend.setWidth 32
    | 4 => packW ((List.range 7).map fun i => (3 * i, (tget w.esc none (i + 1)).getD 0))
    | 8 => w.last
    | 12 => w.count
    | _ => 0#32
  else if 0x200 ≤ off ∧ off < 0x214 then
    let on (b : Block) : Bool := s.flt.inFault.contains b
    match (off - 0x200) / 4 with
    | 0 => BitVec.ofNat 32 (maskOf ((List.finRange 16).map (fun k => on (.kit k)) ++
        (List.finRange 8).map (fun k => on (.dport k)) ++ (List.finRange 8).map fun k => on (.lane k)))
    | 4 => BitVec.ofNat 32 (maskOf ((List.finRange 4).map (fun k => on (.vport k)) ++
        (List.finRange 2).map (fun k => on (.ring k)) ++ [on .pcie]))
    | m => BitVec.ofNat 32 (maskOf ((List.range 32).map fun j => on (.fport (Fin.ofNat 96 (32 * (m - 1) + j)))))
  else if 0x1000 ≤ off ∧ off < 0x2000 then
    let i := (off - 0x1000) / 4
    let c := s.srcCfg i
    packW [(0, c.cls), (3, c.level), (6, c.cap), (9, b2n c.errn), (10, b2n c.latch), (11, b2n c.mask), (12, b2n (srcMulti i))]
  else if 0x2000 ≤ off ∧ off < 0x3000 then tget s.flt.cnt 0#32 ((off - 0x2000) / 4)
  else 0#32

/-- A THM register. -/
def State.thmRead (s : State) (off : Nat) : W32 :=
  let h := s.hottest
  if off = 0 then
    packW [(0, b2n s.thm.warn), (1, b2n s.thm.overMax), (2, b2n s.thm.shutdown), (3, b2n (s.thm.sens.any fun e => e.2.failed)),
      (4, match h with | some x => x.1 | none => 0),
      (16, match h with | some x => (BitVec.ofInt 16 x.2).toNat | none => 0)]
  else if off = 4 then packW [(0, (BitVec.ofInt 16 s.warnAt).toNat), (16, (BitVec.ofInt 16 s.gradeMax).toNat)]
  else if off = 8 then s.thm.peak.setWidth 32
  else if 0x100 ≤ off ∧ off < 0x200 then
    let x := s.sensor ((off - 0x100) / 4)
    packW [(0, x.temp.toNat), (16, b2n x.valid), (17, b2n x.failed)]
  else 0#32

/-! ### Commands (R460) -/

/-- May FAULT_CONFIG give source `i` this level and class? -/
def State.fltCfgOk (s : State) (level cls i : Nat) : Bool :=
  i ≠ 0 && i ≠ 123 && (cls = 255 || 912 ≤ i) && !(decide ((if cls = 255 then (s.srcCfg i).cls else cls) = 0) && decide (0 < level))

def faultConfig (r : Running) (s : State) : Ans :=
  let first := r.u16 0x10
  let n := r.u16 0x12
  let level := r.u8 0x14
  let cap := r.u8 0x15
  let flags := r.u8 0x16
  let cls := r.u8 0x17
  let is := (List.range n).map (· + first)
  if n = 0 ∨ 1024 < first + n ∨ 4 < level ∨ 4 < cap ∨ cap < level ∨ 7 < flags ∨ (7 < cls ∧ cls ≠ 255) ∨
      ¬ is.all (s.fltCfgOk level cls) then no .wrongState s
  else ok (is.foldl (fun (s : State) (i : Nat) => s.setSrcCfg i {
    cls := if cls = 255 then (s.srcCfg i).cls else cls
    level := level
    cap := cap
    errn := bitOf flags 0
    latch := bitOf flags 1
    mask := bitOf flags 2 }) s)

def execFaultConfig (m : Mb) (s : State) : Out :=
  .next (s.serve m 0x0901 anyForm 0x10 fun r s => s.withConfig m (faultConfig r s))

def faultNotify (m : Mb) (r : Running) (s : State) : Ans :=
  let o := s.issuer m
  let q := r.u32 0x10
  let v := r.u16 0x14
  let u := r.u16 0x16
  let g := r.u8 0x18
  let sec := r.u8 0x19
  let hasQ := !bitOf q 31
  let qu := s.queue (bitsOf q 0 18)
  if bitsOf q 18 13 ≠ 0 ∨ bitsOf v 11 4 ≠ 0 ∨ bitsOf u 11 4 ≠ 0 ∨ (bitOf sec 7 ∧ 95 < bitsOf sec 0 7) ∨
      ((bitOf v 15 ∨ bitOf u 15) ∧ o ≠ s.pfOwner 0) ∨ (hasQ ∧ qu.kind = .free) then no .wrongState s
  else if bitOf g 7 ∧ ¬ s.engPresent (bitsOf g 0 7) then no .absentUnit s
  else if (hasQ ∧ qu.owner ≠ o) ∨ (bitOf g 7 ∧ (s.kitAt (bitsOf g 0 7 / 8)).owner ≠ o) ∨
      (bitOf sec 7 ∧ s.sectorOwner (bitsOf sec 0 7) ≠ o) then no .notOwner s
  else if hasQ ∧ qu.kind ≠ .event then no .wrongState s
  else
    let n : Notify := {
      queue := if hasQ then some (bitsOf q 0 18) else none
      vector := if bitOf v 15 then some (bitsOf v 0 11) else none
      urgent := if bitOf u 15 then some (bitsOf u 0 11) else none
      engine := if bitOf g 7 then some (bitsOf g 0 7) else none
      sector := if bitOf sec 7 then some (bitsOf sec 0 7) else none }
    ok (s.modOwnerFlt o fun w => { w with notify := n })

def execFaultNotify (m : Mb) (s : State) : Out := .next (s.serve m 0x0902 anyForm 0x10 (faultNotify m))

def execFaultAck (m : Mb) (s : State) : Out :=
  .next (s.serve m 0x0903 anyForm 0x10 fun r s => ok (s.fltAck (s.issuer m) (r.u32 0x10)))

/-- FAULT_HISTORY: other owners' records keep only LOCAL without the configuration right. -/
def faultHistory (m : Mb) (r : Running) (s : State) : Ans :=
  let o := s.issuer m
  let n := r.u32 0x14
  let rs := (s.flt.history.drop (r.u32 0x10)).take n
  let all := s.hasConfig o
  if n = 0 ∨ 31 < n then no .wrongState s
  else ok s (leBytes 4 s.flt.history.length ++ leBytes 4 rs.length ++ leBytes 4 s.flt.histFirst ++ leBytes 4 0 ++
    (rs.map fun x => if all || x.owner = o then x.bytes else leBytes 8 x.stamp.toNat ++ leBytes 24 0).flatten)

def execFaultHistory (m : Mb) (s : State) : Out := .next (s.serve m 0x0904 anyForm 0x20 (faultHistory m))

/-- The recipients of an injected fault (R460): those of the unit itself, or owner `o` where the chapter names the owner
of a request, reader, writer or resource. -/
def State.srcOwners (s : State) (i : Nat) (o : Owner) : List Owner :=
  if 96 ≤ i ∧ i < 120 then [(s.fpll (i - 96)).owner]
  else if 256 ≤ i ∧ i < 384 ∧ i % 16 = 3 then s.portOwners ((i - 256) / 16)
  else if 384 ≤ i ∧ i < 392 then [(s.range (i - 384)).owner]
  else if 512 ≤ i ∧ i < 640 then [(s.kitAt ((i - 512) / 8)).owner]
  else if 640 ≤ i ∧ i < 656 then [(s.kitAt (i - 640)).owner]
  else if 672 ≤ i ∧ i < 688 then [(s.grp (i - 672)).owner]
  else if 720 ≤ i ∧ i < 736 then [(s.axis (i - 720)).controller]
  else if 740 ≤ i ∧ i < 756 then [(s.axis (i - 740)).controller]
  else if 760 ≤ i ∧ i < 764 then [s.ptuOwner (i % 2)]
  else if i = 786 then [0, s.pfOwner 0]
  else if 800 ≤ i ∧ i < 808 then [(s.jesd (i - 800)).owner]
  else if i = 808 ∨ i = 809 then [s.ptuOwner (i - 808)]
  else if i = 848 ∨ i = 850 ∨ i = 851 then [o, 0]
  else if 912 ≤ i ∧ i < 1008 then [s.sectorOwner (i - 912)]
  else if 1008 ≤ i then [match (tget s.fab.heart {} (i - 1008)).sector with | some sec => s.sectorOwner sec.val | none => 0]
  else if srcOther i || srcOtherNoBlock i then [o]
  else [0]

/-- The block that contains the unit of a source, that of a heartbeat's sector included (R449). -/
def State.srcUnit (s : State) (i : Nat) : Option Block :=
  if 1008 ≤ i then (tget s.fab.heart {} (i - 1008)).sector.map Block.fport else srcBlock i

def faultInject (r : Running) (s : State) : Ans :=
  let i := r.u32 0x10
  let o : Owner := if 15 < r.u8 0x18 then 0 else Fin.ofNat 16 (r.u8 0x18)
  let kind := r.u8 0x19
  let named := blockOf kind (r.u8 0x1A)
  let bad : Bool := decide (kind ≠ 0) && (match named with | some b => !s.blockPresent b | none => true)
  if 1023 < i ∨ bad then no .wrongState s
  else
    let f : Raised := {
      src := i
      cls := (s.srcCfg i).cls
      owners := (s.srcOwners i o).eraseDups
      block := if kind = 0 then s.srcUnit i else named
      info := BitVec.ofNat 32 (r.u32 0x14)
      injected := true
      stamp := s.localPos
      time := s.now }
    ok { s with flt.raised := s.flt.raised ++ [f] }

def execFaultInject (m : Mb) (s : State) : Out :=
  .next (s.serve m 0x0905 anyForm 0x10 fun r s => s.withConfig m (faultInject r s))

def execThermalConfig (m : Mb) (s : State) : Out :=
  .next (s.serve m 0x0906 anyForm 0x10 fun r s => s.withConfig m (
    let w : BitVec 16 := BitVec.ofNat 16 (r.u16 0x10)
    if w.toInt < -400 ∨ s.gradeMax < w.toInt then no .wrongState s
    else ok { s with thm.warnAt := some w }))

/-! ### User sources (R127) -/

/-- FAULT_LINE: the rising edge of a sector's fault line. No port clock samples it while the sector is frozen or its
port is in reset. -/
def execFaultLine (sec : SectorId) (s : State) : Out :=
  .next (if (s.sector sec.val).frozen ∨ s.ckr.inReset.contains (.fport sec) then s
    else s.raise (912 + sec.val) [s.sectorOwner sec.val])

/-- HEARTBEAT_EXPIRY: a bound heartbeat did not toggle within its period. A watchdog is frozen with its sector. -/
def execHeartbeatExpiry (i : Fin 16) (s : State) : Out :=
  let h := tget s.fab.heart {} i.val
  .next (match h.sector with
    | none => s
    | some sec =>
      if (s.sector sec.val).frozen ∨ s.now < h.last + h.period then s
      else
        let s := { s with fab.heart := tput s.fab.heart {} i.val { h with last := s.now } }
        s.raiseC (1008 + i.val) (s.srcCfg (1008 + i.val)).cls [s.sectorOwner sec.val] (some (.fport sec)) 0#32)

end Sys2Proof.Machine
end

