-- ==== Sys2Proof/Machine/Clock.lean ====
section
/-!
DEFINITION. Machine/Clock.lean: clock sources, monitors, switching and failover (R421 to R428), gating (R430), the CKR
registers (R436, R437) and the clock commands (R438).
-/
namespace Sys2Proof.Machine

/-! ### Sources and monitors (R422, R427) -/

/-- The signed deviation over the latest 64 windows (R436). -/
def ClkSrc.dev (c : ClkSrc) : Int :=
  if c.devs.isEmpty then 0 else (c.devs.map BitVec.toInt).foldl (· + ·) 0 / c.devs.length

/-- The clock source that is the device reference. -/
def State.refSrc (s : State) : Option Nat := if s.ckr.ref = 1 then some 0 else if s.ckr.ref = 2 then some 1 else none

/-- Domains that a failed source `i` clocks: all for the device reference, one for an SPLL (R428). -/
def State.domainsOf (s : State) (i : Nat) : List Nat :=
  if s.refSrc = some i then [0, 1, 2, 3] else if 4 ≤ i ∧ i < 8 then [i - 4] else []

/-- A domain runs from its SPLL again (R424). -/
def State.toSpll (s : State) (d : Nat) : State :=
  let x := s.clkDom d
  if x.iosc then s.setClkDom d { x with iosc := false, switches := satInc x.switches } else s

/-- A source seen running and within its limits. -/
def ClkSrc.running (c : ClkSrc) : ClkSrc := { c with edges := true, pass := true, ready := true, bad := 0, good := 100 }

/-- REFERENCE_SELECT (R422, R423): the belfry takes the device reference once after POR; the SPLLs lock to it and the
domains leave IOSC. -/
def execReferenceSelect (chassisOk xoOk : Bool) (s : State) : Out :=
  .next (if s.ckr.ref ≠ 0 ∨ s.ckr.por then s
    else if ¬ chassisOk ∧ ¬ xoOk then (s.raise 64 [0]).raise 65 [0]
    else
      let i := if chassisOk then 0 else 1
      let s := { s with ckr.ref := i + 1, ckr.ioscCal := s.ckr.ioscNow }
      let s := [i, 4, 5, 6, 7].foldl (fun (s : State) (j : Nat) => s.modClkSrc j ClkSrc.running) s
      [0, 1, 2, 3].foldl State.toSpll s)

/-- MONITOR_WINDOW (R424, R427): one 10 µs window of source `i`. A source of no domain that fails raises its fault here;
a failed reference or SPLL is answered by CLOCK_FAILOVER (R428). -/
def State.monitorWindow (s : State) (i : Nat) (edges : Bool) (ppm : BitVec 24) : State :=
  let c := s.clkSrc i
  let d := ppm.toInt.natAbs
  let tooFar := !s.ckr.ioscSuspect && decide (s.ckr.limit.toNat < d)
  let bad := if tooFar then c.bad + 1 else 0
  let fail := !edges || decide (100000 < d) || decide (4 ≤ bad)
  let okay := edges && decide (d ≤ 100000) && !tooFar
  let good := if okay then min 100 (c.good + 1) else 0
  let pass := !fail && (c.pass || okay)
  let s' := s.setClkSrc i { c with
    edges := edges
    devs := (ppm :: c.devs).take 64
    bad := bad
    good := good
    pass := pass
    ready := pass && decide (100 ≤ good)
    failS := c.failS || (fail && c.pass) }
  if fail ∧ c.pass ∧ s.domainsOf i = [] then
    if i = 0 then s'.raise 64 [0]
    else if i = 1 then s'.raise 65 [0]
    else if i = 3 then ({ s'.raise 71 [0] with pce.linkUp := false }).raise 786 [0, s.pfOwner 0]
    else s'
  else s'

def execMonitorWindow (i : Fin 8) (edges : Bool) (ppm : BitVec 24) (s : State) : Out :=
  .next (if i = 2 then s else s.monitorWindow i.val edges ppm)

/-- IOSC_CROSS_CHECK (R427): Atmon masks the note during a fallback (R426, KL-07). -/
def execIoscCrossCheck (ppm : BitVec 24) (s : State) : Out :=
  let s' := { s with ckr.ioscNow := ppm }
  .next (if (ppm.toInt - s.ckr.ioscCal.toInt).natAbs ≤ 2000 ∨ ([0, 1, 2, 3].any fun d => (s.clkDom d).switching) then s'
    else { s' with ckr.ioscSuspect := true }.raise 66 [0])

/-! ### Switching and failover (R424 to R428) -/

/-- A domain falls back to IOSC: with its clock running eight edges are lost; a stopped clock ends in FALLBACK_TIMEOUT
(R425). -/
def State.fallback (s : State) (running : Bool) (d : Nat) : State :=
  let x := s.clkDom d
  if x.iosc then s
  else if running then s.setClkDom d { x with
    iosc := true
    fallbackS := true
    switches := satInc x.switches
    lost := satAdd x.lost 8 }
  else s.setClkDom d { x with switching := true }

/-- FALLBACK_TIMEOUT (R425): the handshake with a stopped clock timed out; the hold is timed by IOSC. How many edges the
stopped clock lost is not stated. -/
def execFallbackTimeout (d : Fin 4) (s : State) : Out :=
  let x := s.clkDom d.val
  .next (if ¬ x.switching then s
    else
      let n := s.fresh 16
      (n.2.setClkDom d.val { x with
        iosc := !x.iosc
        switching := false
        fallbackS := true
        switches := satInc x.switches
        lost := satAdd x.lost n.1.toNat }).raise 73 [0])

/-- CLOCK_FAILOVER (R428): source `i`, the device reference or an SPLL, has failed. -/
def State.failover (s : State) (i : Nat) : State :=
  let c := s.clkSrc i
  let ds := (s.domainsOf i).filter fun d => !(s.clkDom d).iosc && !(s.clkDom d).switching
  if c.pass ∨ ¬ c.failS ∨ ds = [] then s
  else
    let s := ds.foldl (fun (s : State) (d : Nat) => s.fallback c.edges d) s
    let s := (List.range 8).foldl (fun (s : State) (k : Nat) =>
      if (s.dport k).st = .ready then s.modDport k fun p => { p with st := .selfref, failover := true } else s) s
    let s := { s with flt.nmis := s.flt.nmis + 1 }
    (s.raise (if i = 0 then 64 else if i = 1 then 65 else 63 + i) [0]).raise 72 [0]

def execClockFailover (i : Fin 8) (s : State) : Out := .next (s.failover i.val)

/-- DRAM ports that a failover put into self-refresh leave it once every domain runs from its SPLL (R428). -/
def State.failoverEnd (s : State) : State :=
  if [0, 1, 2, 3].any fun d => (s.clkDom d).iosc then s
  else (List.range 8).foldl (fun (s : State) (k : Nat) =>
    if (s.dport k).failover then s.modDport k fun p =>
      { p with st := if p.st = PortState.selfref then .ready else p.st, failover := false } else s) s

/-- CLOCK_RETURN (R428): a failed source has passed its monitor for 1 ms again. -/
def State.clockReturn (s : State) (i : Nat) : State :=
  let c := s.clkSrc i
  if ¬ c.ready ∨ ¬ s.ckr.autoReturn then s
  else
    let ds := (s.domainsOf i).filter fun d => (s.clkDom d).iosc
    let s := if s.refSrc = some i ∧ ds ≠ [] then
        [4, 5, 6, 7].foldl (fun (s : State) (j : Nat) => s.modClkSrc j ClkSrc.running) s else s
    (ds.foldl State.toSpll s).failoverEnd

def execClockReturn (i : Fin 8) (s : State) : Out := .next (s.clockReturn i.val)

/-- The frames of the image: plane A. -/
def State.imageFrames (s : State) : ImageFrames :=
  s.cfg.frame.filterMap fun e => if e.1 < 524288 ∧ e.2.data ≠ 0#3072 then some (e.1, e.2.data) else none

/-- What the image sets of the fabric PLLs and the global clocks (R116, R118, R121). -/
def State.imageClocks (s : State) : State :=
  let f := s.imageFrames
  let s := (List.range 24).foldl (fun (s : State) (n : Nat) =>
    let c := Config.pll f (Fin.ofNat 24 n)
    s.modFpll n fun p => { p with en := c.en, fracMode := c.fracMode }) s
  (List.range 32).foldl (fun (s : State) (n : Nat) =>
    let c := Config.gclk f (Fin.ofNat 32 n)
    s.modGclk n fun g => { g with src0 := c.src0.val, src1 := c.src1.val, routed := c.routed }) s

/-- The frequency in kHz of a global-clock source (R116, R118): output C of a fabric PLL is its reference × feedback divider and
fraction / reference divider / output divider; a PLL locked to an axis follows the axis's rate, and one that holds or has lost
lock keeps its last frequency (R76, R120). `fuel` bounds a chain of PLLs that are each other's reference. -/
def State.sourceKhz (s : State) : Nat → Nat → Nat
  | 0, _ => 0
  | fuel + 1, src =>
    if 96 ≤ src then Config.clockKhz src
    else
      let n := src / 4
      let p := s.fpll n
      let c := Config.pll s.imageFrames (Fin.ofNat 24 n)
      let ref := match c.ref with
        | .chassis => 100000
        | .xo => Config.xoKhz
        | .gclk g => s.sourceKhz fuel (if (s.gclk g.val).sel then (s.gclk g.val).src1 else (s.gclk g.val).src0)
        | .lane k => Config.laneRefKhz k
      if p.axisHold ∨ ¬ p.locked then p.khz.toNat
      else if p.axisLocked then s.lockKhz n
      else ref * (c.fbDiv * 2 ^ 24 + (if c.fracMode then c.frac.toNat else 0)) / (c.refDiv * 2 ^ 24 * c.outDiv (Fin.ofNat 4 src))

/-- C0_KHZ of a fabric PLL (R121). -/
def State.pllKhz (s : State) (n : Nat) : BitVec 21 := BitVec.ofNat 21 (s.sourceKhz 24 (4 * n))

/-- Is the source of a global clock READY (R424)? A fabric PLL output with its lock, a recovered clock with a locked
lane; the other sources have no monitor. -/
def State.gclkReady (s : State) (src : Nat) : Bool :=
  if src < 96 then (s.fpll (src / 4)).locked
  else if 122 ≤ src ∧ src < 130 then (List.range 8).any fun i => (s.lane (8 * (src - 122) + i)).lock
  else true

/-- GSEL_REQUEST (R424). -/
def execGselRequest (n : Fin 32) (sel : Bool) (s : State) : Out :=
  let g := s.gclk n.val
  .next (if ¬ g.routed ∨ g.sel = sel then s
    else if s.gclkReady (if sel then g.src1 else g.src0) then s.setGclk n.val { g with sel := sel }
    else s.setGclk n.val { g with refusedS := true })

/-- The owner of a global clock (R438). -/
def State.gclkOwner (s : State) (n : Nat) : Owner := let i := (s.gclk n).src0; if i < 96 then (s.fpll (i / 4)).owner else 0

/-- Is any contract admitted? -/
def State.anyAdmitted (s : State) : Bool := s.contracts.any fun e => decide (e.2.st = ConState.admitted)

/-- CLOCK_SWITCH. -/
def clockSwitch (m : Mb) (r : Running) (s : State) : Ans :=
  let t := r.u32 0x10
  let src := r.u32 0x14
  let o := s.issuer m
  if t < 4 then
    if ¬ s.hasConfig o then no .notOwner s
    else if 1 < src ∨ s.anyAdmitted ∨ (src = 0 ∧ ¬ (s.clkSrc (4 + t)).ready) then no .wrongState s
    else
      let x := s.clkDom t
      if x.iosc = (src == 1) then ok s
      else if src = 1 ∧ ¬ (s.clkSrc (4 + t)).edges then ok (s.setClkDom t { x with switching := true })
      else ok (s.setClkDom t { x with iosc := src == 1, switches := satInc x.switches }).failoverEnd
  else if t = 0x10 then
    if ¬ s.hasConfig o then no .notOwner s
    else if src = 0 ∨ 2 < src ∨ s.anyAdmitted ∨ ¬ (s.clkSrc (src - 1)).ready then no .wrongState s
    else ok { s with ckr.ref := src }
  else if 0x20 ≤ t ∧ t < 0x40 then
    let g := s.gclk (t - 0x20)
    if s.gclkOwner (t - 0x20) ≠ o then no .notOwner s
    else if 1 < src ∨ ¬ s.gclkReady (if src = 1 then g.src1 else g.src0) then no .wrongState s
    else ok (s.setGclk (t - 0x20) { g with sel := src == 1 })
  else no .wrongState s

def execClockSwitch (m : Mb) (s : State) : Out := .next (s.serve m 0x0702 anyForm 0x10 (clockSwitch m))

def clockMonitor (r : Running) (s : State) : Ans :=
  let lim := r.u32 0x10
  let f := r.u32 0x14
  if lim < 100 ∨ 50000 < lim ∨ 7 < f then no .wrongState s
  else
    let s := { s with ckr.limit := BitVec.ofNat 16 lim, ckr.autoReturn := bitOf f 0 }
    let s := if bitOf f 1 then { s with ckr.ioscSuspect := false, ckr.ioscCal := s.ckr.ioscNow } else s
    ok (if bitOf f 2 then { s with
        ckr.src := tmap s.ckr.src {} fun (e : ClkSrc) => { e with failS := false }
        ckr.dom := tmap s.ckr.dom {} fun (e : ClkDom) => { e with fallbackS := false }
        ckr.gclk := tmap s.ckr.gclk {} fun (e : Gclk) => { e with refusedS := false } }
      else s)

def execClockMonitor (m : Mb) (s : State) : Out :=
  .next (s.serve m 0x0703 anyForm 0x10 fun r s => s.withConfig m (clockMonitor r s))

/-! ### Gating (R430) -/

/-- The gate of a unit of R438's codes 0 to 6: register (0 or 1) and bit; none for an index out of range. -/
def gateBit (unit idx : Nat) : Option (Bool × Nat) :=
  match unit with
  | 0 => if idx < 16 then some (false, idx) else none
  | 1 => if idx < 8 then some (false, 16 + idx) else none
  | 2 => if idx < 8 then some (false, 24 + idx) else none
  | 3 => if idx < 8 then some (true, idx) else none
  | 4 => if idx < 2 then some (true, 8 + idx) else none
  | 5 => if idx < 2 then some (true, 10 + idx) else none
  | 6 => if idx = 0 then some (true, 12) else none
  | _ => none

/-- Is the unit of a code present in the variant (R4)? -/
def State.unitPresent (s : State) (unit idx : Nat) : Bool :=
  match unit with
  | 0 => s.kitPresent idx
  | 1 => s.dportPresent idx
  | 2 => s.lanePresent idx
  | 3 => s.lanePresent idx
  | 5 => s.ringPresent idx
  | 6 => s.variant.mxe
  | _ => true

/-- The owner of a gateable unit, where it has one (R438). -/
def State.unitOwner (s : State) (unit idx : Nat) : Option Owner :=
  match unit with
  | 0 => some (s.kitAt idx).owner
  | 3 => some (s.jesd idx).owner
  | 4 => some (s.ptuOwner idx)
  | _ => none

/-- The block of R432 that a unit code names. -/
def unitBlock (unit idx : Nat) : Option Block :=
  match unit with
  | 0 => if idx < 16 then some (.kit (Fin.ofNat 16 idx)) else none
  | 1 => if idx < 8 then some (.dport (Fin.ofNat 8 idx)) else none
  | 2 => if idx < 8 then some (.lane (Fin.ofNat 8 idx)) else none
  | 5 => if idx < 2 then some (.ring (Fin.ofNat 2 idx)) else none
  | 8 => if idx = 0 then some .pcie else none
  | 9 => if idx < 96 then some (.fport (Fin.ofNat 96 idx)) else none
  | 10 => if idx < 4 then some (.vport (Fin.ofNat 4 idx)) else none
  | _ => none

/-- The block whose router a gateable unit's requests use: a MAC's and a JESD link's are their lane group's. -/
def gateBlock (unit idx : Nat) : Option Block :=
  if unit = 4 then some (.lane (Fin.ofNat 8 (2 + idx))) else unitBlock unit idx

/-- Is the block an endpoint of an admitted contract? -/
def State.conEndpoint (s : State) (b : Block) : Bool :=
  s.contracts.any fun e => decide (e.2.st = ConState.admitted) && s.conAt e.2 b

/-- Is a gate allowed to close (R430)? -/
def State.gateMayClose (s : State) (unit idx : Nat) : Bool :=
  !(match gateBlock unit idx with | some b => s.conEndpoint b | none => false) &&
  (unit ≠ 0 || !s.kitAssigned idx) &&
  (unit ≠ 1 || (List.range 16).all fun r => !((s.region r).defined && inMask (s.region r).ports.toNat idx))

/-- Accesses in flight at a unit whose gate closes: answered with zeros, FSRC 74 to the initiator's owner (R430). -/
def State.gateFlight (s : State) (b : Block) : State :=
  s.noc.req.foldl (fun (s : State) (e : Nat × Option Req) => match e.2 with
    | some q =>
      if q.dst = blockRouter b ∧ q.stage = .target then
        (s.setReq e.1 (some { q with stage := .answered .ok (if q.op = .read then leBytes q.len 0 else []) })).raiseBy 74 q.who q.owner
      else s
    | none => s) s

def clockGate (m : Mb) (r : Running) (s : State) : Ans :=
  let unit := r.u8 0x10
  let idx := r.u8 0x11
  let o := s.issuer m
  match gateBit unit idx with
  | none => no .wrongState s
  | some (hi, b) =>
    if ¬ s.unitPresent unit idx then no .absentUnit s
    else if ¬ s.hasConfig o ∧ s.unitOwner unit idx ≠ some o then no .notOwner s
    else if ¬ r.bit 0x14 0 ∧ ¬ s.gateMayClose unit idx then no .wrongState s
    else
      let v := b2n (r.bit 0x14 0)
      let s := if ¬ r.bit 0x14 0 then (match gateBlock unit idx with | some b => s.gateFlight b | none => s) else s
      ok (if hi then { s with ckr.gate1 := BitVec.ofNat 32 (setBits s.ckr.gate1.toNat b 1 v) }
        else { s with ckr.gate0 := BitVec.ofNat 32 (setBits s.ckr.gate0.toNat b 1 v) })

def execClockGate (m : Mb) (s : State) : Out := .next (s.serve m 0x0704 anyForm 0x10 (clockGate m))

/-! ### Registers (R436, R437) -/

/-- CKR_STAT. FAILOVER tells of the domains that went back to IOSC: its reset value is 0 beside ON_IOSC 0xF. DEDUCED. -/
def State.ckrStat (s : State) : W32 :=
  let on := maskOf ([0, 1, 2, 3].map fun d => (s.clkDom d).iosc)
  let back : Bool := [0, 1, 2, 3].any fun d => (s.clkDom d).iosc && decide ((s.clkDom d).switches ≠ 0)
  packW [(0, s.ckr.ref), (2, b2n s.ckr.ioscSuspect), (3, b2n back), (4, on)]

def State.ckrSrcReg (s : State) (i : Nat) : W32 :=
  let c := s.clkSrc i
  packW [(0, b2n c.edges), (1, b2n c.pass), (2, b2n c.ready), (3, b2n c.failS), (8, (BitVec.ofInt 24 c.dev).toNat)]

def State.ckrDomReg (s : State) (d : Nat) : W32 :=
  let x := s.clkDom d
  packW [(0, b2n x.iosc), (1, b2n x.switching), (2, b2n x.fallbackS), (8, x.switches.toNat), (16, x.lost.toNat)]

/-- Bits of present units (R6): the mask of kits, DRAM ports and lane groups of GATE_0 and PWR_UNIT. -/
def State.unitMask (s : State) : Nat :=
  maskOf ((List.range 16).map s.kitPresent ++ (List.range 8).map s.dportPresent ++ (List.range 8).map s.lanePresent)

def State.gate1Mask (s : State) : Nat :=
  maskOf ((List.range 8).map s.lanePresent ++ [true, true, s.ringPresent 0, s.ringPresent 1, s.variant.mxe])

/-- PWR_SEC_i, PWR_UNIT, PWR_MISC. -/
def State.pwrReg (s : State) (i : Nat) : W32 :=
  if i < 3 then s.ckr.pwrSec.extractLsb' (32 * i) 32
  else if i = 3 then s.ckr.pwrUnit &&& BitVec.ofNat 32 s.unitMask
  else packW [(0, bitsOf s.ckr.pwrMisc.toNat 0 1), (1, if s.ringPresent 0 then bitsOf s.ckr.pwrMisc.toNat 1 2 else 0),
    (3, b2n s.ckr.powering.isSome)]

/-- CKR_FPLL_STAT_n (R121). -/
def Fpll.stat (p : Fpll) : W32 :=
  packW [(0, b2n p.en), (1, b2n p.locked), (2, b2n p.axisLocked), (3, b2n p.axisHold), (4, b2n p.fracMode), (8, b2n p.lossS),
    (9, b2n p.holdS), (16, p.ax.val)]

/-- A CKR register at an offset. -/
def State.ckrRead (s : State) (off : Nat) : W32 :=
  if off = 0 then s.ckrStat
  else if off = 4 then packW [(0, s.ckr.cause), (8, s.ckr.count.toNat)]
  else if off = 8 then s.ckr.supply
  else if off = 0xC then packW [(0, s.ckr.limit.toNat), (16, b2n s.ckr.autoReturn)]
  else if 0x100 ≤ off ∧ off < 0x120 then s.ckrSrcReg ((off - 0x100) / 4)
  else if 0x200 ≤ off ∧ off < 0x210 then s.ckrDomReg ((off - 0x200) / 4)
  else if 0x300 ≤ off ∧ off < 0x380 then
    let g := s.gclk ((off - 0x300) / 4)
    packW [(0, b2n g.sel), (1, b2n g.routed), (2, b2n g.refusedS)]
  else if off = 0x400 then s.ckr.gate0 &&& BitVec.ofNat 32 s.unitMask
  else if off = 0x404 then s.ckr.gate1 &&& BitVec.ofNat 32 s.gate1Mask
  else if 0x500 ≤ off ∧ off < 0x514 then s.pwrReg ((off - 0x500) / 4)
  else if 0x8000 ≤ off ∧ off < 0x80C0 then
    let p := s.fpll ((off - 0x8000) / 8)
    if off % 8 = 0 then p.stat else (s.pllKhz ((off - 0x8000) / 8)).setWidth 32
  else 0#32

def execClockQuery (m : Mb) (s : State) : Out :=
  .next (s.serve m 0x0701 anyForm 0x44 fun _ s =>
    ok s ((([s.ckrStat] ++ (List.range 8).map s.ckrSrcReg ++ (List.range 4).map s.ckrDomReg).map
      fun w => leBytes 4 w.toNat).flatten))

def execPowerQuery (m : Mb) (s : State) : Out :=
  .next (s.serve m 0x0711 anyForm 0x24 fun _ s => ok s ((List.range 5).map fun i => leBytes 4 (s.pwrReg i).toNat).flatten)

/-! ### Chip reset command (R438) -/

/-- CHIP_RESET: the reset follows 1 ms later with cause 5. -/
def execChipReset (m : Mb) (s : State) : Out :=
  .next (s.serve m 0x0721 anyForm 0x10 fun r s => s.withConfig m (
    if ¬ bitOf (r.u32 0x10) 0 ∧ s.anyAdmitted then no .wrongState s else ok (s.askChipReset (s.now + 1000000) 5)))

/-- FPLL_FLAG_CLEAR (R121): LOSS_S and HOLD_S, cleared by the PLL's owner or the belfry. -/
def execFpllFlagClear (who : Initiator) (n : PllId) (v : BitVec 32) (s : State) : Out :=
  .next (s.inHostOrder who (ctlBase + 0x208000 + 8 * n.val) none (leBytes 4 v.toNat) fun s =>
    let p := s.fpll n.val
    if ¬ s.passes who p.owner then s.noteOwner who
    else s.setFpll n.val { p with lossS := p.lossS && !bitOf v.toNat 8, holdS := p.holdS && !bitOf v.toNat 9 })

end Sys2Proof.Machine
end

