-- ==== Sys2Proof/Machine/Packet.lean ====
section
/-!
DEFINITION. Machine/Packet.lean: the packets of the network (R276 to R278): response status codes, the header and data flits
that carry a request or its response.
-/
namespace Sys2Proof.Machine

/-- Response status codes (R278). -/
def NocStatus.code : NocStatus → Nat
  | .ok => 0
  | .notOwner => 1
  | .unmapped => 2
  | .absent => 3
  | .domainOff => 4
  | .resetAbort => 5
  | .frozen => 6
  | .timeout => 7
  | .poisoned => 8
  | .collided => 9
  | .poisonedMerge => 10
  | .integrity => 11
  | .retry => 12
  | .empty => 13
  | .error => 14

/-- The status that a target's code delivers: RETRY is the queue unit's alone and never delivered, and code 15 is reserved: either
stands for ERROR (R278; DESIGN CHOICE, log 124). -/
def NocStatus.ofCode (n : Nat) : NocStatus :=
  ([.ok, .notOwner, .unmapped, .absent, .domainOff, .resetAbort, .frozen, .timeout, .poisoned, .collided, .poisonedMerge,
    .integrity, .error, .empty] : List NocStatus).getD n .error

/-- OP of a request and of its response (R276, R277). -/
def NocOp.code : NocOp → Nat
  | .read => 0
  | .write => 1
  | .fence => 2
  | .lock => 3
  | .unlock => 4

def NocOp.replyCode : NocOp → Nat
  | .read => 8
  | .lock => 8
  | .write => 9
  | .unlock => 9
  | .fence => 10

/-- Data flits that `n` bytes take. -/
def flitCount (n : Nat) : Nat := (n + 63) / 64

/-- The header of a packet between two routers (R276). -/
def header (r : Req) (dst src vc op flits st : Nat) : BitVec 128 :=
  BitVec.ofNat 128 (packN [(0, dst), (8, src), (16, vc), (18, b2n r.epoch), (19, r.owner.val), (23, r.flow), (27, r.tag.toNat),
    (39, op), (43, flits), (47, st), (51, b2n (decide (st = 8))), (64, r.addr % 2 ^ 48), (112, r.len)])

/-- One flit: payload and sideband. -/
structure Flit where
  payload : BitVec 512
  side : BitVec 64
  deriving DecidableEq, Repr

/-- The header flit: the SEC-DED code over the header in the sideband, everything else zero (R276). -/
def headFlit (h : BitVec 128) : Flit := { payload := h.setWidth 512, side := (Config.headerCheck h).setWidth 64 }

/-- Data flit `i`: eight words of 64 bits, each with eight check bits (R277). -/
def dataFlit (bs : List Byte) (i : Nat) : Flit :=
  let word (j : Nat) : BitVec 64 := BitVec.ofNat 64 (leNat ((bs.drop (64 * i + 8 * j)).take 8))
  { payload := BitVec.ofNat 512 (packN ((List.range 8).map fun j => (64 * j, (word j).toNat)))
    side := BitVec.ofNat 64 (packN ((List.range 8).map fun j => (8 * j, (Config.wordCheck (word j)).toNat))) }

/-- The data flits of a packet. -/
def dataFlits (bs : List Byte) : List Flit := (List.range (flitCount bs.length)).map (dataFlit bs)

/-- The packet of a request, as its initiator NI injects it. -/
def Req.packet (r : Req) : List Flit :=
  headFlit (header r r.dst r.src r.vc r.op.code (flitCount r.data.length) 0) :: dataFlits r.data

/-- The packet of its one response: on VC2 for a request of VC2, else on VC1 (R281). -/
def Req.reply (r : Req) (st : NocStatus) (data : List Byte) : List Flit :=
  headFlit (header r r.src r.dst (if r.vc = 2 then 2 else 1) r.op.replyCode (flitCount data.length) st.code) :: dataFlits data

end Sys2Proof.Machine
end

