-- ==== Sys2Proof/Machine/Elements.lean ====
section
/-!
DEFINITION. Machine/Elements.lean: where the fabric's elements sit (R101, R107, R131) and what each of them computes: cells
(R102 to R105), block-memory words (R132 to R139) and slices (R144 to R151).
-/
namespace Sys2Proof.Machine

/-! ### Places (R101, R131) -/

/-- Cluster of a cell code. -/
def cellX (c : Nat) : Nat := c / 16 % 1152
def cellY (c : Nat) : Nat := c / 16 / 1152

/-- The quad and the sector of a cluster (R101). -/
def quadAt (x y : Nat) : Nat := y / 48 * 24 + x / 48
def sectorAt (x y : Nat) : Nat := y / 96 * 12 + x / 96

/-- The sector of a quad, and its quads (R101). -/
def quadSector (q : Nat) : Nat := q / 24 / 2 * 12 + q % 24 / 2
def sectorQuads (sec : Nat) : List Nat :=
  let q := sec / 12 * 48 + sec % 12 * 2
  [q, q + 1, q + 24, q + 25]

/-- Only quads with qx = 8 to 15 have a plane B (R101). -/
def shadowCapable (q : Nat) : Bool := 8 ≤ q % 24 && q % 24 < 16

/-- The number of a cluster within its quad. -/
def inQuad (x y : Nat) : Nat := 48 * (y % 48) + x % 48

/-! ### Planes (R154, R180) -/

/-- Frame address of R154. -/
def frameAddr (b : Bool) (minor quad : Nat) : Nat := quad + 512 * minor + 524288 * b2n b

/-- The overlay region that holds a quad (R179). -/
def State.quadRegion (s : State) (q : Nat) : Option Nat := (s.man.regions.find? fun r => r.quads.contains q).map fun r => r.region.val

/-- Is plane B of the quad active (R180)? -/
def State.planeB (s : State) (q : Nat) : Bool := match s.quadRegion q with
  | some r => (s.ovlRegion r).active
  | none => false

/-- The contents of a frame as they stand, upsets included. -/
def Frame.live (f : Frame) : BitVec 3072 := f.data ^^^ f.up.setWidth 3072

/-- The frames of a plane of a quad that are not zero. -/
def State.planeFrames (s : State) (b : Bool) (q : Nat) : QuadFrames :=
  s.cfg.frame.filterMap fun e =>
    if e.1 % 512 = q ∧ e.1 / 524288 = b2n b ∧ e.2.live ≠ 0#3072 then some (e.1 / 512 % 1024, e.2.live) else none

/-- The frames that configure a quad. -/
def State.quadFrames (s : State) (q : Nat) : QuadFrames := s.planeFrames (s.planeB q) q

/-- Is a quad's region between a swap edge and its being usable (R189), or quiesced (R193)? -/
def State.quadStopped (s : State) (q : Nat) : Bool := match s.quadRegion q with
  | some r => (s.ovlRegion r).swapping.isSome || (s.ovlRegion r).quiesced.isSome
  | none => false

/-- Do the registers of a quad ignore their clocks: under GSR (R106), or with their region stopped? -/
def State.quadHeld (s : State) (q : Nat) : Bool := s.cfg.gsr || s.quadStopped q

/-- Do block memories of a quad store what is written (R141, R142, R193)? -/
def State.quadWrites (s : State) (q : Nat) : Bool := s.cfg.writesOn && !s.quadStopped q

/-- Do the clocks of a sector run: powered and not frozen by a debug session (R433, R477)? -/
def State.sectorRuns (s : State) (sec : Nat) : Bool := bitOf s.ckr.pwrSec.toNat sec && !(s.sector sec).frozen

/-- The frames of the four quads of a sector. -/
def State.sectorFrames (s : State) (sec : Nat) : List QuadFrames := (sectorQuads sec).map s.quadFrames

/-- The cells of a quad. -/
def quadCells (q : Nat) : List Nat :=
  (List.range 2304).flatMap fun i => (List.range 16).map fun j => 16 * (1152 * (q / 24 * 48 + i / 48) + (q % 24 * 48 + i % 48)) + j

/-- The quad of a cell. -/
def cellQuad (c : Nat) : Nat := quadAt (cellX c) (cellY c)

/-! ### Cells (R102 to R105) -/

def State.cellCfg (s : State) (c : Nat) : CellCfg :=
  Config.cell (s.quadFrames (cellQuad c)) (16 * inQuad (cellX c) (cellY c) + c % 16)

/-- The control set of a cell's cluster. -/
def State.clusterCfg (s : State) (c : Nat) : ClusterCfg := Config.cluster (s.quadFrames (cellQuad c)) (inQuad (cellX c) (cellY c))

/-- The regional clock of a cell's flip-flop. -/
def State.cellClk (s : State) (c : Nat) : Fin 16 := if (s.cellCfg c).clkSel then (s.clusterCfg c).clk1 else (s.clusterCfg c).clk0

/-- F without carry (R102), or P in mode CARRY. -/
def lutF (k : CellCfg) (i : BitVec 4) : Bool := match k.mode with
  | .lut4 => bitOf k.lut.toNat i.toNat
  | _ => bitOf k.lut.toNat (i.toNat % 8)

/-- G in mode SPLIT, Gn in mode CARRY (R102). -/
def lutG (k : CellCfg) (i : BitVec 4) : Bool := bitOf k.lut.toNat (8 + i.toNat % 8)

/-- COUT of a cell (R102, R103). A cell that is not in mode CARRY passes no carry: 0 (DEDUCED, log 122). -/
def carryOut (k : CellCfg) (i : BitVec 4) (cin : Bool) : Bool := match k.mode with
  | .carry => if lutF k i then cin else lutG k i
  | _ => false

/-- The value of a flip-flop as last clocked. -/
def State.ffVal (s : State) (c : Nat) : Bool := (tget s.fab.ff none c).getD (s.cellCfg c).init

/-- What a flip-flop takes at an edge of its clock (R104, R105): SR acts whatever CE is. -/
def ffTakes (k : CellCfg) (sr ce d : Bool) : Option Bool := if sr then some k.srVal else if ce then some d else none

/-! ### Wires and their registers (R107, R109) -/

/-- Direction (N, E, S, W), distance in clusters and whether it is a midpoint, of register `k` of a cluster. -/
def wireKind (k : Nat) : Nat × Nat × Bool :=
  if k < 48 then (k / 12, 4, false)
  else if k < 96 then ((k - 48) / 12, if k % 2 = 0 then 6 else 12, k % 2 = 0)
  else ((k - 96) / 2, if k % 2 = 0 then 24 else 48, k % 2 = 0)

/-- Where a wire register sits: at the grid's edge where its wire would leave the grid. None for a midpoint beyond it. -/
def wirePlace (w : Nat) : Option (Nat × Nat) :=
  let x := w / 128 % 1152
  let y := w / 128 / 1152
  let k := wireKind (w % 128)
  let room := match k.1 with
    | 0 => 767 - y
    | 1 => 1151 - x
    | 2 => y
    | _ => x
  if 104 ≤ w % 128 ∨ 768 ≤ y ∨ (k.2.2 ∧ room < k.2.1) then none
  else
    let d := min room k.2.1
    some (match k.1 with
      | 0 => (x, y + d)
      | 1 => (x + d, y)
      | 2 => (x, y - d)
      | _ => (x - d, y))

/-- The midpoint and end registers of wire `w` of R107, where it has them: L1 and L2 have none, L4 an end register. -/
def wireRegs (w : Nat) : Option Nat × Option Nat :=
  let k := w % 256
  let r (j : Nat) : Option Nat := some (w / 256 * 128 + j)
  if k < 64 ∨ 140 ≤ k then (none, none)
  else if k < 112 then (none, r (k - 64))
  else (r (48 + 2 * (k - 112)), r (49 + 2 * (k - 112)))

/-- The settings of wire register `w` that sits in cluster (x, y), and the routing clock of its column. -/
def State.wireCfg (s : State) (w x y : Nat) : WireCfg := Config.wire (s.quadFrames (quadAt x y)) (inQuad x y) (w % 128)

def State.routeClk (s : State) (x y : Nat) : Fin 16 := Config.routeClock (s.sectorFrames (sectorAt x y)) (x % 96)

/-- The wire registers that sit in a sector: they start at most 48 clusters outside it. -/
def sectorWires (sec : Nat) : List Nat :=
  ((List.range 192).flatMap fun j => (List.range 192).flatMap fun i =>
    let y := sec / 12 * 96 + j
    let x := sec % 12 * 96 + i
    if 48 ≤ y ∧ y < 816 ∧ 48 ≤ x ∧ x < 1200 then (List.range 104).map fun k => (1152 * (y - 48) + (x - 48)) * 128 + k else []).filter
    fun w => match wirePlace w with
      | some p => sectorAt p.1 p.2 == sec
      | none => false

/-! ### Bus-line segments (R112) -/

/-- The quad that a segment lies in (R112): its index along the line and its track. -/
def segmentQuad (seg : Nat) : Nat :=
  let track := bitsOf seg 5 5
  let ix := bitsOf seg 10 5
  if bitOf seg 0 then ix * 24 + track else track * 24 + ix

/-- Is the segment one of the device: 24 quad columns, 16 quad rows? -/
def segmentKnown (seg : Nat) : Bool :=
  let track := bitsOf seg 5 5
  let ix := bitsOf seg 10 5
  if bitOf seg 0 then track < 24 && ix < 16 else track < 16 && ix < 24

/-- The 32 segments that lie in a quad: 16 lines in each direction. -/
def quadSegments (q : Nat) : List (BitVec 15) :=
  (List.range 16).map (fun l => BitVec.ofNat 15 (2 * l + 32 * (q / 24) + 1024 * (q % 24))) ++
    (List.range 16).map (fun l => BitVec.ofNat 15 (1 + 2 * l + 32 * (q % 24) + 1024 * (q / 24)))

/-- Segments of which a quad's frames enable both drivers (R111, R113). -/
def bothDrivers (f : QuadFrames) (q : Nat) : List (BitVec 15) :=
  (quadSegments q).filter fun g => Config.busDrive f g false && Config.busDrive f g true

/-! ### Block memories (R132 to R139) -/

/-- The native word and bit of each bit of a port word of width `w` at address `a` (R133). -/
def portBits (w a : Nat) : List (Nat × Nat) :=
  (List.range w).map fun j =>
    if 24 ≤ w then
      let n := if w < 48 then 1 else if w < 96 then 2 else 4
      ((n * a + j / (w / n)) % 2048, j % (w / n))
    else if w = 12 then (a / 2 % 2048, 12 * (a % 2) + j)
    else if w = 15 then (a / 2 % 2048, if j < 12 then 12 * (a % 2) + j else 24 + 3 * (a % 2) + (j - 12))
    else if w = 6 then (a / 4 % 2048, 6 * (a % 4) + j)
    else (a / 8 % 2048, 3 * (a % 8) + j)

/-- Native words per port word: 1 for a fraction of one (R132). -/
def portWords (w : Nat) : Nat := if w < 48 then 1 else if w < 96 then 2 else 4

/-- The 30 bits of a native word. -/
def BWord.bits (b : BWord) : BitVec 30 :=
  let c : BitVec 6 := match b.chk with
    | .valid => Config.eccCheck b.d
    | .inj1 => Config.eccCheck b.d ^^^ 1#6
    | .inj2 => Config.eccCheck b.d ^^^ 3#6
    | .image => 0#6
    | .raw v => v
  c ++ b.d

/-- A native word read (R138): what the code finds with ECC on (1 an error put right, 2 a double error), and its bits. -/
def BWord.read (b : BWord) (ecc : Bool) : Fin 3 × BitVec 30 :=
  if ¬ ecc then (0, b.bits)
  else match b.chk with
    | .valid => (0, b.d.setWidth 30)
    | .inj1 => (1, b.d.setWidth 30)
    | .inj2 => (2, b.d.setWidth 30)
    | .image => (0, b.d.setWidth 30)
    | .raw v =>
      let diff := v ^^^ Config.eccCheck b.d
      if diff = 0#6 then (0, b.d.setWidth 30) else ((Config.eccFind b.d diff).1, (Config.eccFind b.d diff).2.setWidth 30)

/-- A port word read through `f`: data, SBE, DBE (R133, R138). -/
def portRead (f : Nat → BWord) (ecc : Bool) (w a : Nat) : BitVec 120 × Bool × Bool :=
  let bits := portBits w a
  let ws := (bits.map fun p => p.1).eraseDups.map fun n => (n, (f n).read ecc)
  let bit (p : Nat × Nat) : Bool := match ws.find? fun x => x.1 = p.1 with
    | some x => bitOf x.2.2.toNat p.2
    | none => false
  (BitVec.ofNat 120 (maskOf (bits.map bit)), ws.any fun x => x.2.1 = 1, ws.any fun x => x.2.1 = 2)

/-- The native words that a port write stores, in full (R133, R138, R139). -/
def portWrite (f : Nat → BWord) (ecc : Bool) (w a : Nat) (data : BitVec 120) (we : BitVec 4) (inj1 inj2 : Bool) :
    List (Nat × BWord) :=
  let n := portWords w
  let items := ((portBits w a).zipIdx).filter fun e => bitOf we.toNat (if n = 1 then 0 else e.2 / (w / n))
  let words := (items.map fun e => e.1.1).eraseDups
  words.map fun k =>
    let mine := items.filter fun e => e.1.1 = k
    let v := mine.foldl (fun (v : Nat) (e : (Nat × Nat) × Nat) => setBits v e.1.2 1 (b2n (bitOf data.toNat e.2))) (f k).bits.toNat
    (k, { d := BitVec.ofNat 24 v
          chk := if ¬ ecc then .raw (BitVec.ofNat 6 (v / 2 ^ 24))
            else if inj1 && inj2 then .inj2 else if inj1 then .inj1 else .valid })

/-- Old and new bits mixed freely (R137). -/
def mixBits (old new free : BitVec 120) : BitVec 120 := (old &&& free) ||| (new &&& ~~~free)

/-! ### Block-memory ports (R132 to R139) -/

/-- What routing brings to a block-memory port. -/
structure BramIn where
  en : Bool
  we : BitVec 4
  addr : BitVec 14
  data : BitVec 120
  oce : Bool
  orst : Bool
  inj1 : Bool
  inj2 : Bool

/-- Is the width one of R132's for a block with this ECC setting and mode? Another is an owner error (R153). -/
def bramShapeOk (k : BramCfg) (w : Nat) : Bool :=
  [24, 48].contains w || (k.sdp && w == 96) || (!k.ecc && ([3, 6, 12, 15, 30, 60].contains w || (k.sdp && w == 120)))

/-- Does the port present a write (R133, R135)? Port B of a simple dual-port block only reads. -/
def BramIn.writes (x : BramIn) (k : BramCfg) (b : Bool) : Bool :=
  x.en && !(k.sdp && b) && decide (bitsOf x.we.toNat 0 (portWords (if b then k.b else k.a).width) ≠ 0)

/-! ### Slices (R144 to R151) -/

/-- What routing brings to a slice. -/
structure SliceIn where
  u : W24
  v : W24
  w : W24
  k : BitVec 48
  fn : BitVec 5
  ci : Bool
  hold : BitVec 9
  clear : BitVec 9

/-- A word as a signed or an unsigned number. -/
def wordInt {n : Nat} (sgn : Bool) (v : BitVec n) : Int := if sgn then v.toInt else (v.toNat : Int)

/-- The pre-adder (R144). -/
def preAdd (c : SliceCfg) (u v : W24) : Int :=
  let a := wordInt c.sgnU u
  let b := wordInt c.sgnU v
  match c.preMode.val with
  | 0 => a
  | 1 => a + b
  | 2 => a - b
  | _ => b - a

/-- The multiplier (R144, R145). In PAIR mode PRE is U, whose halves are multiplied. -/
def multiply (c : SliceCfg) (pre : Int) (w : W24) : W64 :=
  if c.pair then
    let u : W24 := BitVec.ofInt 24 pre
    let half (x : W24) (hi : Bool) (sgn : Bool) : Int := wordInt sgn (x.extractLsb' (if hi then 12 else 0) 12)
    BitVec.ofInt 64 (half u true c.sgnU * half w true c.sgnW + half u false c.sgnU * half w false c.sgnW)
  else BitVec.ofInt 64 (pre * wordInt c.sgnW w)

/-- The function unit (R146): next ACC and OVF; none for a reserved code. -/
def sliceFn (fn : Nat) (prod acc : W64) (k : W64) (chin : W64) (ci ovf : Bool) : Option (W64 × Bool) :=
  let c : Int := b2n ci
  let p := prod.toInt
  let a := acc.toInt
  let kk := k.toInt
  let h := chin.toInt
  let hs := (chin.sshiftRight 24).toInt
  let arith (v : Int) : Option (W64 × Bool) := some (BitVec.ofInt 64 v, decide (v < -2 ^ 63 ∨ 2 ^ 63 ≤ v))
  match fn with
  | 0x00 => arith 0
  | 0x01 => arith (p + c)
  | 0x02 => arith (a + p + c)
  | 0x03 => arith (a - p - c)
  | 0x04 => arith (kk + c)
  | 0x05 => arith (kk + p + c)
  | 0x06 => arith (kk - p - c)
  | 0x07 => arith (a + kk + c)
  | 0x08 => arith (a - kk - c)
  | 0x09 => arith (h + p + c)
  | 0x0A => arith (h - p - c)
  | 0x0B => arith (hs + p + c)
  | 0x0C => arith (h + kk + c)
  | 0x0D => arith (h + a + c)
  | 0x0E => arith (hs + a + c)
  | 0x0F => arith (h + c)
  | 0x10 => some (acc &&& k, ovf)
  | 0x11 => some (acc ||| k, ovf)
  | 0x12 => some (acc ^^^ k, ovf)
  | 0x13 => some (prod &&& k, ovf)
  | 0x14 => some (prod ^^^ k, ovf)
  | 0x15 => some (acc ^^^ chin, ovf)
  | 0x16 => some (~~~acc, ovf)
  | _ => none

/-- The output shifter (R149): OUT and SATF. -/
def sliceOut (c : SliceCfg) (acc : W64) : W24 × Bool :=
  let s0 : W64 := if c.shift.val = 0 then 0#64 else BitVec.ofNat 64 (2 ^ (c.shift.val - 1))
  if c.sgnO then
    let t := ((acc + s0).sshiftRight c.shift.val).toInt
    if c.sat ∧ 2 ^ 23 - 1 < t then (0x7FFFFF#24, true)
    else if c.sat ∧ t < -2 ^ 23 then (0x800000#24, true)
    else (BitVec.ofInt 24 t, false)
  else
    let t := (acc + s0) >>> c.shift.val
    if c.sat ∧ 2 ^ 24 - 1 < t.toNat then (0xFFFFFF#24, true) else (t.setWidth 24, false)

/-- The match unit (R148): MT and MTN of an ACC and K. -/
def sliceMatch (c : SliceCfg) (acc : W64) (k : BitVec 48) : Bool × Bool :=
  let ref : W64 := if c.refK then k.signExtend 64 else c.ref
  let m : W64 := ~~~c.mask
  (decide ((acc ^^^ ref) &&& m = 0#64), decide ((acc ^^^ ~~~ref) &&& m = 0#64))

/-- Hold inputs of the stages on the way from U to AC, in order (R150). -/
def slicePath (c : SliceCfg) : List Nat :=
  List.replicate c.inu.val 0 ++ (if c.pr then [5] else []) ++ (if c.mu1 then [6] else []) ++ (if c.mu2 then [6] else [])

/-- A delay line after an edge: each place holds while the stage beside it does. -/
def shiftLine {α : Type} (d : α) : List Bool → α → List α → List α
  | [], _, _ => []
  | h :: hs, x, line => (if h then line.headD d else x) :: shiftLine d hs (line.headD d) line.tail

/-- The values within a slice between its stages, and its outputs. -/
structure SliceFlow where
  u : W24
  w : W24
  k : BitVec 48
  f : BitVec 5 × Bool
  pre : Int
  prod : W64
  m1 : W64
  kAt : BitVec 48
  next : W64 × Bool
  acc : W64
  ovf : Bool
  kr : BitVec 48
  res : W24 × Bool
  out : W24 × Bool

/-- A slice between two edges (R146 to R151): routing's inputs, the chains, and a free value for what R153 leaves open: the
product of a pre-adder mode that PAIR mode does not allow, the result of a reserved function, and the accumulator where AC is
bypassed and its result would feed itself. K, FN and CI pass delays beside the stages of the product, each of which holds with
its stage (DEDUCED, log 123); REF from K is the K that met the function in AC (DEDUCED, log 123). -/
def sliceValues (c : SliceCfg) (st : Slice) (x : SliceIn) (chin : W64) (uch : W24) (free : W64) : SliceFlow :=
  let uIn := if c.chainU then uch else x.u
  let u := if c.inu = 0 then uIn else if c.inu = 1 then st.u1 else st.u2
  let v := if c.inv then st.v else x.v
  let w := if c.inw = 0 then x.w else if c.inw = 1 then st.w1 else st.w2
  let k := if c.ink then st.k else x.k
  let f : BitVec 5 × Bool := if c.inf then (st.fn, st.ci) else (x.fn, x.ci)
  let pre := preAdd c u v
  let prod := if c.pair ∧ c.preMode ≠ 0 then free else multiply c (if c.pr then st.pre else pre) (if c.pr then st.wd else w)
  let m1 := if c.mu1 then st.mu1 else prod
  let m2 := if c.mu2 then st.mu2 else m1
  let kAt := (st.kq.getLast?).getD k
  let fAt := (st.fq.getLast?).getD f
  let kAt := if ((slicePath c).drop (b2n c.ink)).isEmpty then k else kAt
  let fAt := if ((slicePath c).drop (b2n c.inf)).isEmpty then f else fAt
  let next := (sliceFn fAt.1.toNat m2 (if c.ac then st.acc else free) (kAt.signExtend 64) chin fAt.2 st.ovf).getD
    (free, bitOf free.toNat 0)
  let acc := if c.ac then st.acc else next.1
  let res := sliceOut c acc
  { u := u, w := w, k := k, f := f, pre := pre, prod := prod, m1 := m1, kAt := kAt, next := next
    acc := acc
    ovf := if c.ac then st.ovf else next.2
    kr := if c.ac then st.kr else kAt
    res := res
    out := if c.ot then (st.out, st.satf) else res }

/-- A slice after an edge of its clock: every stage from the values before it, clears before holds (R150). A bypassed stage
keeps nothing that an output shows. -/
def sliceStep (c : SliceCfg) (st : Slice) (x : SliceIn) (uch : W24) (y : SliceFlow) : Slice :=
  let stage {α : Type} (n : Nat) (old new zero : α) : α :=
    if bitOf x.clear.toNat n then zero else if bitOf x.hold.toNat n then old else new
  let held (drop : Nat) : List Bool := ((slicePath c).drop drop).map fun n => bitOf x.hold.toNat n
  { u1 := stage 0 st.u1 (if c.chainU then uch else x.u) 0
    u2 := stage 0 st.u2 st.u1 0
    ud := stage 0 st.ud y.u 0
    v := stage 1 st.v x.v 0
    w1 := stage 2 st.w1 x.w 0
    w2 := stage 2 st.w2 st.w1 0
    wd := stage 5 st.wd y.w 0
    k := stage 3 st.k x.k 0
    fn := stage 4 st.fn x.fn 0
    ci := stage 4 st.ci x.ci false
    kq := shiftLine 0#48 (held (b2n c.ink)) y.k st.kq
    fq := shiftLine (0#5, false) (held (b2n c.inf)) y.f st.fq
    kr := if bitOf x.hold.toNat 7 then st.kr else y.kAt
    pre := stage 5 st.pre y.pre 0
    mu1 := stage 6 st.mu1 y.prod 0
    mu2 := stage 6 st.mu2 y.m1 0
    acc := if c.ac then stage 7 st.acc y.next.1 0 else 0#64
    ovf := if c.ac then stage 7 st.ovf y.next.2 false else y.next.2
    out := if c.ot then stage 8 st.out y.res.1 0 else 0#24
    satf := if c.ot then stage 8 st.satf y.res.2 false else false }

end Sys2Proof.Machine
end

