-- ==== Sys2Proof/Machine/Nets.lean ====
section
/-!
DEFINITION. Machine/Nets.lean: the level of every net of the fabric (R102 to R111, R116, R117): each wire and each input is
driven by one multiplexer, which passes one input or a constant 0, so the level of a net follows from the registers and from
what enters the fabric.
-/
namespace Sys2Proof.Machine

/-- A net, or one of the chains that run between neighbours without routing: COUT of a cell (R103), bit `j` of the operand
chain out of slice `i` (R147). -/
inductive Sig where
  | net (n : Net)
  | cout (c : Nat)
  | uch (i : Nat) (j : Nat)

/-- A level, and the registers that launch it: whether each is a wire register, and its global clock (R110). -/
structure Lit where
  v : Bool
  src : List (Bool × Nat)

/-- The constant 0 of an unselected multiplexer (R108). -/
def Lit.zero : Lit := ⟨false, []⟩

/-- A number that tells signals apart, for the free values of those that R10 leaves unpredictable. -/
def Sig.key : Sig → Nat
  | .cout c => 16 * c
  | .uch i j => 16 * (24 * i + j) + 1
  | .net n => match n with
    | .q c => 16 * c + 2
    | .f c => 16 * c + 3
    | .g c => 16 * c + 4
    | .wire w mid => 16 * (2 * w + b2n mid) + 5
    | .bus g => 16 * g.toNat + 6
    | .bram i b k => 16 * (256 * (2 * i + b2n b) + k) + 7
    | .slice i k => 16 * (256 * i + k) + 8
    | .border q o i => 16 * (1024 * q + 512 * b2n o + i) + 9
    | .pin p => 16 * p + 10
    | .line a l => 16 * (64 * a + l) + 11
    | .ext n => 16 * n + 12
    | .raw i k => 16 * (2 ^ 40 + 64 * i + k) + 12
    | .jesd n k => 16 * (2 ^ 41 + 1024 * n + k) + 12

/-- A free level for a signal: a combinational loop, a contention not yet detected (R114), an enabled wire register whose
path's registers do not share its clock (R110). -/
def State.wildBit (s : State) (key : Nat) : Bool := Config.wild 1 s.freeCount key = 1#1

/-- The global clock that a regional clock of a sector selects (R117). -/
def State.rclkCfg (s : State) (sec : Nat) (r : Fin 16) : RclkCfg := Config.rclk (s.sectorFrames sec) r

def State.gclkOf (s : State) (sec : Nat) (r : Fin 16) : Nat := (s.rclkCfg sec r).gclk.val

/-- Level and launching register of a register of a quad's sector on a regional clock. -/
def State.launch (s : State) (q : Nat) (r : Fin 16) (wire v : Bool) : Lit := ⟨v, [(wire, s.gclkOf (quadSector q) r)]⟩

/-- What a multiplexer of quad `q` passes (R108): its selected input, or 0. -/
def State.via (s : State) (ev : Sig → Lit) (q : Nat) (k : NetSink) : Lit := match Config.select (s.quadFrames q) k with
  | some n => ev (.net n)
  | none => .zero

/-- The word that `n` multiplexers pass, from number `base` on. -/
def litWord (n base : Nat) (f : Nat → Lit) : Nat := maskOf ((List.range n).map fun j => (f (base + j)).v)

/-- The four inputs of a cell's LUT. -/
def State.lutIn (s : State) (ev : Sig → Lit) (c : Nat) : BitVec 4 × List (Bool × Nat) :=
  let xs := (List.range 4).map fun j => s.via ev (cellQuad c) (.lut c j)
  (BitVec.ofNat 4 (maskOf (xs.map fun l => l.v)), xs.flatMap fun l => l.src)

/-- CIN of a cell (R103): the chain runs from cell 0 to cell 15 of a cluster and north to the next within the quad. -/
def State.carryIn (s : State) (ev : Sig → Lit) (c : Nat) : Lit :=
  if c % 16 ≠ 0 then ev (.cout (c - 1))
  else match (s.clusterCfg c).cin with
    | .zero => .zero
    | .one => ⟨true, []⟩
    | .ce3 => s.via ev (cellQuad c) (.ce (c / 16) 3)
    | .south => if cellY c % 48 = 0 then .zero else ev (.cout (c + 15 - 16 * 1152))

/-- SR of a cell as its cluster's polarity makes it, and CE (R104). -/
def State.cellSr (s : State) (ev : Sig → Lit) (c : Nat) : Lit := match (s.cellCfg c).srSel with
  | some j =>
    let l := s.via ev (cellQuad c) (.sr (c / 16) j.val)
    ⟨l.v != bitOf (s.clusterCfg c).srLow.toNat j.val, l.src⟩
  | none => .zero

def State.cellCe (s : State) (ev : Sig → Lit) (c : Nat) : Lit := match (s.cellCfg c).ceSel with
  | some j => s.via ev (cellQuad c) (.ce (c / 16) j.val)
  | none => ⟨true, []⟩

/-- Is an asynchronous SR of the cell asserted, which holds its flip-flop at SRVAL (R105)? -/
def State.asyncSr (s : State) (ev : Sig → Lit) (c : Nat) : Bool :=
  !s.quadHeld (cellQuad c) && (s.clusterCfg c).async && (s.cellSr ev c).v

/-- The level of wire `w` at its end or midpoint (R107 to R109): each register on the way that exists and is enabled gives its
own value, a bypassed one passes the wire through. -/
def State.wireLit (s : State) (ev : Sig → Lit) (w : Nat) (mid : Bool) : Lit :=
  let stage (reg : Option Nat) (x : Lit) : Lit := match reg with
    | none => x
    | some g => match wirePlace g with
      | none => x
      | some p =>
        let k := s.wireCfg g p.1 p.2
        if k.enabled then s.launch (quadAt p.1 p.2) (s.routeClk p.1 p.2) true ((tget s.fab.wire none g).getD k.init) else x
  let m := stage (wireRegs w).1 (s.via ev (quadAt (w / 256 % 1152) (w / 256 / 1152)) (.wire w))
  if mid then m else stage (wireRegs w).2 m

/-- The level of a bus-line segment (R111, R114): 0 by its keeper where no driver is enabled or the detector has disabled both;
free between a contention and its detection. A junction at the boundary of an overlay region passes no segment on. -/
def State.busLit (s : State) (ev : Sig → Lit) (g : BitVec 15) : Lit :=
  let q := segmentQuad g.toNat
  let from_ (far : Bool) : Lit := match Config.select (s.quadFrames q) (.bus g far) with
    | some (.bus h) => if s.quadRegion q = s.quadRegion (segmentQuad h.toNat) then ev (.net (.bus h)) else .zero
    | some n => ev (.net n)
    | none => .zero
  if s.fab.busOff.contains g then .zero
  else match Config.busDrive (s.quadFrames q) g false, Config.busDrive (s.quadFrames q) g true with
    | false, false => .zero
    | true, false => from_ false
    | false, true => from_ true
    | true, true => ⟨s.wildBit (Sig.net (.bus g)).key, []⟩

/-- What routing brings to a slice (R144, R150). -/
def State.sliceIn (s : State) (ev : Sig → Lit) (i : Nat) : SliceIn :=
  let w (n base : Nat) : Nat := litWord n base fun k => s.via ev (i / 32) (.slice i k)
  { u := BitVec.ofNat 24 (w 24 0)
    v := BitVec.ofNat 24 (w 24 24)
    w := BitVec.ofNat 24 (w 24 48)
    k := BitVec.ofNat 48 (w 48 72)
    fn := BitVec.ofNat 5 (w 5 120)
    ci := w 1 125 = 1
    hold := BitVec.ofNat 9 (w 9 126)
    clear := BitVec.ofNat 9 (w 9 135) }

/-- The chains into slice `i` (R147): zero at site 0. -/
def sliceChin (ev : Sig → Lit) (i : Nat) : W64 :=
  if i % 16 = 0 then 0#64 else BitVec.ofNat 64 (litWord 64 0 fun k => ev (.net (.slice (i - 1) k)))

def sliceUch (ev : Sig → Lit) (i : Nat) : W24 :=
  if i % 16 = 0 then 0#24 else BitVec.ofNat 24 (litWord 24 0 fun j => ev (.uch (i - 1) j))

def State.sliceCfg (s : State) (i : Nat) : SliceCfg := Config.slice (s.quadFrames (i / 32)) (i % 32)

def State.sliceFlow (s : State) (ev : Sig → Lit) (i : Nat) : SliceFlow :=
  sliceValues (s.sliceCfg i) (s.sliceAt i) (s.sliceIn ev i) (sliceChin ev i) (sliceUch ev i)
    (Config.wild 64 s.freeCount (Sig.net (.slice i 0)).key)

/-- Output `k` of slice `i` in the order of Net.slice. -/
def State.sliceOutBit (s : State) (ev : Sig → Lit) (i k : Nat) : Bool :=
  let y := s.sliceFlow ev i
  let c := s.sliceCfg i
  if k < 64 then bitOf y.acc.toNat k
  else if k < 88 then bitOf y.out.1.toNat (k - 64)
  else match k with
    | 88 => y.out.2
    | 89 => (sliceMatch c y.acc y.kr).1
    | 90 => (sliceMatch c y.acc y.kr).2
    | 91 => y.ovf
    | _ => false

def State.bramCfg (s : State) (i : Nat) : BramCfg := Config.bram (s.quadFrames (i / 12)) (i % 12)

/-- Output `k` of a block-memory port in the order of Net.bram (R134, R136, R138): from the output register where it is
enabled. -/
def State.bramOutBit (s : State) (i : Nat) (b : Bool) (k : Nat) : Bool :=
  let c := if b then (s.bramCfg i).b else (s.bramCfg i).a
  let p := s.bport (2 * i + b2n b)
  if k < 120 then bitOf ((if c.outReg then p.out else p.rd).getD c.orstVal).toNat k
  else match k with
    | 120 => if c.outReg then p.outSbe else p.sbe
    | 121 => if c.outReg then p.outDbe else p.dbe
    | 122 => b && p.coll
    | _ => false

/-- The regional clock of a border-port register, through the border clock input that it uses (R181). -/
def State.borderClk (s : State) (q : Nat) (out : Bool) (i : Nat) : Fin 16 :=
  Config.borderClk (s.quadFrames q) (Config.border (s.quadFrames q) out i)

/-- IN of a trigger pin (R72): the later stage of the port's synchroniser; 0 for the pin that is an output only. -/
def State.pinIn (s : State) (p : Nat) : Bool := decide (p ≠ 16) && (s.pin p).sync.1

def State.rawCfg (s : State) (i : Nat) : RawCfg := Config.raw s.imageFrames (Fin.ofNat 64 i)

def State.linkClk (s : State) (n : Nat) : Nat := (Config.linkClk s.imageFrames (Fin.ofNat 8 n)).val

/-- The level of a signal, by those of the signals that feed it. -/
def State.litOf (s : State) (ev : Sig → Lit) : Sig → Lit
  | .cout c =>
    let i := s.lutIn ev c
    let ci := s.carryIn ev c
    ⟨carryOut (s.cellCfg c) i.1 ci.v, i.2 ++ ci.src⟩
  | .uch i j =>
    let y := s.sliceFlow ev i
    let c := s.sliceCfg i
    s.launch (i / 32) c.clk false (bitOf (if c.udly then (s.sliceAt i).ud else y.u).toNat j)
  | .net n => match n with
    | .q c => s.launch (cellQuad c) (s.cellClk c) false (if s.asyncSr ev c then (s.cellCfg c).srVal else s.ffVal c)
    | .f c =>
      let i := s.lutIn ev c
      match (s.cellCfg c).mode with
      | .carry =>
        let ci := s.carryIn ev c
        ⟨lutF (s.cellCfg c) i.1 != ci.v, i.2 ++ ci.src⟩
      | _ => ⟨lutF (s.cellCfg c) i.1, i.2⟩
    | .g c =>
      let i := s.lutIn ev c
      if (s.cellCfg c).mode = .split then ⟨lutG (s.cellCfg c) i.1, i.2⟩ else .zero
    | .wire w mid => s.wireLit ev w mid
    | .bus g => s.busLit ev g
    | .bram i b k =>
      let c := if b then (s.bramCfg i).b else (s.bramCfg i).a
      s.launch (i / 12) c.clk false (s.bramOutBit i b k)
    | .slice i k => s.launch (i / 32) (s.sliceCfg i).clk false (s.sliceOutBit ev i k)
    | .border q out i => s.launch q (s.borderClk q out i) false (tget s.fab.border false (1024 * q + 512 * b2n out + i))
    | .pin p => ⟨s.pinIn p, []⟩
    | .line a l => ⟨s.stk.lines.any fun e => e.1.val == a && e.2.1.val == l, []⟩
    | .ext k => ⟨tget s.fab.ext false k, []⟩
    | .raw i k => ⟨bitOf (s.lane i).rx.toNat k, [(false, (s.rawCfg i).rxClk.val)]⟩
    | .jesd n k => ⟨if k < 512 then bitOf (s.jesd n).word.toNat k else (s.jesd n).valid, [(false, s.linkClk n)]⟩

/-- The level of a signal; a path longer than `fuel` nets is a combinational loop, whose level is free. -/
def State.litFrom (s : State) : Nat → Sig → Lit
  | 0, g => ⟨s.wildBit g.key, []⟩
  | fuel + 1, g => s.litOf (s.litFrom fuel) g

/-- More than the nets of the device: 256 wires and 32 cell outputs for each cluster, and the rest. -/
def netCount : Nat := 400000000

def State.lit (s : State) (g : Sig) : Lit := s.litFrom netCount g

/-- The level of a net, and of what a multiplexer passes, as they are now. -/
def State.level (s : State) (n : Net) : Bool := (s.lit (.net n)).v

def State.muxLit (s : State) (q : Nat) (k : NetSink) : Lit := s.via s.lit q k

/-- What a register on global clock `g` captures from a path: its level, but free where an enabled wire register is part of
the path and its registers do not all share one clock (R110, R130). -/
def State.captured (s : State) (wire : Bool) (g key : Nat) (l : Lit) : Bool :=
  if l.src.any fun e => (wire || e.1) && e.2 != g then s.wildBit key else l.v

end Sys2Proof.Machine
end

