-- ==== Sys2Proof/Machine/Fabric.lean ====
section
/-!
DEFINITION. Machine/Fabric.lean: a clock edge of user logic (R101 to R110, R116, R117, R131 to R151, R181, R72, R127), bus-line
contention (R114), the fabric PLLs (R76, R118 to R121).
-/
namespace Sys2Proof.Machine

/-! ### Cells, wire registers, border ports and slices at an edge -/

def sectorCells (sec : Nat) : List Nat := (sectorQuads sec).flatMap quadCells
def sectorBlocks (sec : Nat) : List Nat := (sectorQuads sec).flatMap fun q => (List.range 12).map fun j => 12 * q + j
def sectorSlices (sec : Nat) : List Nat := (sectorQuads sec).flatMap fun q => (List.range 32).map fun j => 32 * q + j
def sectorBorders (sec : Nat) : List Nat := (sectorQuads sec).flatMap fun q => (List.range 1024).map fun j => 1024 * q + j

/-- A flip-flop at an edge of regional clock `r` of its sector (R104 to R106): none where it keeps its value. CE0 to CE3, the
write enables of flip-flops, act from ENABLE_WRITES on (R169; DEDUCED, log 51). -/
def State.ffNext (s : State) (sec : Nat) (r : Fin 16) (c : Nat) : Option Bool :=
  if s.quadHeld (cellQuad c) ∨ s.cellClk c ≠ r then none
  else
    let take (j : Nat) (l : Lit) : Bool := s.captured false (s.gclkOf sec r) (16 * (4 * c + j) + 13) l
    let ce := take 1 (s.cellCe s.lit c) && (s.cfg.writesOn || (s.cellCfg c).ceSel.isNone)
    ffTakes (s.cellCfg c) (take 0 (s.cellSr s.lit c)) ce (take 2 (s.lit (.net (.f c))))

/-- An enabled wire register at an edge of its column's routing clock (R109, R110). -/
def State.wireNext (s : State) (sec : Nat) (r : Fin 16) (g : Nat) : Option Bool :=
  match wirePlace g with
  | none => none
  | some (x, y) =>
    if s.quadHeld (quadAt x y) ∨ ¬ (s.wireCfg g x y).enabled ∨ s.routeClk x y ≠ r then none
    else
      let k := g % 128
      let w := if k < 48 then g / 128 * 256 + 64 + k else g / 128 * 256 + 112 + (k - 48) / 2
      let start := s.muxLit (quadAt (g / 128 % 1152) (g / 128 / 1152)) (.wire w)
      let d := if k < 48 ∨ k % 2 = 0 then start else s.lit (.net (.wire w true))
      some (s.captured true (s.gclkOf sec r) (16 * g + 14) d)

/-- A border-port register at an edge of its border clock (R181). -/
def State.borderNext (s : State) (sec : Nat) (r : Fin 16) (n : Nat) : Option Bool :=
  let q := n / 1024
  let out := bitOf n 9
  if s.quadHeld q ∨ (s.quadRegion q).isNone ∨ s.borderClk q out (n % 512) ≠ r then none
  else some (s.captured false (s.gclkOf sec r) (16 * n + 15) (s.muxLit q (.border q out (n % 512))))

/-- Slice `i` at an edge of its clock (R146 to R151). -/
def State.sliceNext (s : State) (r : Fin 16) (i : Nat) : Option Slice :=
  let c := s.sliceCfg i
  if s.quadHeld (i / 32) ∨ c.clk ≠ r then none
  else some (sliceStep c (s.sliceAt i) (s.sliceIn s.lit i) (sliceUch s.lit i) (s.sliceFlow s.lit i))

/-! ### Block memories at an edge (R133 to R142, R153) -/

/-- What routing brings to a port of block `i`. -/
def State.bramIn (s : State) (i : Nat) (b : Bool) : BramIn :=
  let w (n base : Nat) : Nat := litWord n base fun k => s.muxLit (i / 12) (.bram i b k)
  { data := BitVec.ofNat 120 (w 120 0)
    addr := BitVec.ofNat 14 (w 14 120)
    we := BitVec.ofNat 4 (w 4 134)
    en := w 1 138 = 1
    oce := w 1 139 = 1
    orst := w 1 140 = 1
    inj1 := w 1 141 = 1
    inj2 := w 1 142 = 1 }

/-- The native words of block `i`. -/
def State.bword (s : State) (i n : Nat) : BWord := tget s.fab.word {} (2048 * i + n)

def State.setBword (s : State) (i n : Nat) (w : BWord) : State := { s with fab.word := tput s.fab.word {} (2048 * i + n) w }

/-- The native words that a port's write of this edge stores: none where writes have no effect (R141, R142). -/
def State.bramWrites (s : State) (k : BramCfg) (i : Nat) (b : Bool) (x : Option BramIn) : List (Nat × BWord) :=
  match x with
  | none => []
  | some x =>
    if ¬ x.writes k b ∨ ¬ s.quadWrites (i / 12) then []
    else portWrite (s.bword i) k.ecc (if b then k.b else k.a).width x.addr.toNat x.data x.we x.inj1 x.inj2

/-- Free values of a port's read: 120 data bits, then SBE and DBE. -/
def State.bramFree (s : State) (i : Nat) (b : Bool) : BitVec 122 := Config.wild 122 s.freeCount (16 * (2 * i + b2n b))

/-- A port of block `i` at its edge. `cur` gives the words before the writes of the edge, `own` what the port stores, `other`
the words that the other port writes in the same cycle with their contents before and after. With `same` both ports have
this edge: then COMMON_CLK makes the read return the contents before the write (R137). Every other read of such a word mixes
freely; one of a shape that R153 forbids is free. A NEW port whose write stores nothing, because it is dropped or writes have
no effect, reads the array (DESIGN CHOICE, log 123). ORST and a swap clear SBE and DBE of the output register (DESIGN CHOICE,
log 123: the spec gives only ORSTVAL). Read data and the output register keep ORSTVAL under GSR (R141). -/
def State.bramPort (s0 s : State) (k : BramCfg) (i : Nat) (b : Bool) (x : BramIn) (cur : Nat → BWord) (own : List (Nat × BWord))
    (other : List (Nat × BWord × BWord)) (same coll : Bool) : State :=
  let c := if b then k.b else k.a
  let p := s.bport (2 * i + b2n b)
  let reads := x.en && !(k.sdp && !b) && !(decide (c.rw = .keep) && x.writes k b) && !s0.cfg.gsr
  let view (pick : BWord × BWord → BWord) (n : Nat) : BWord :=
    match (if c.rw = .new then own.find? fun e => e.1 = n else none), other.find? fun e => e.1 = n with
    | some e, _ => e.2
    | none, some e => pick e.2
    | none, none => cur n
  let words := ((portBits c.width x.addr.toNat).map (fun b => b.1)).eraseDups
  let v0 := portRead (view Prod.fst) k.ecc c.width x.addr.toNat
  let v1 := portRead (view Prod.snd) k.ecc c.width x.addr.toNat
  let free := s0.bramFree i b
  let flags : Bool × Bool := (k.ecc && bitOf free.toNat 120, k.ecc && bitOf free.toNat 121)
  let v : BitVec 120 × Bool × Bool :=
    if ¬ bramShapeOk k c.width then (free.setWidth 120, flags)
    else if (other.any fun e => words.contains e.1) && !(same && k.common) then (mixBits v0.1 v1.1 (free.setWidth 120), flags)
    else v0
  s.setBport (2 * i + b2n b) { p with
    coll := coll
    wrote := own.map fun e => (e.1, cur e.1)
    read := if reads then words else []
    addr := x.addr.toNat
    rd := if reads then some v.1 else p.rd
    sbe := if reads then v.2.1 else p.sbe
    dbe := if reads then v.2.2 else p.dbe
    out := if s0.cfg.gsr ∨ x.orst then none else if x.oce then some (p.rd.getD c.orstVal) else p.out
    outSbe := !s0.cfg.gsr && !x.orst && (if x.oce then p.sbe else p.outSbe)
    outDbe := !s0.cfg.gsr && !x.orst && (if x.oce then p.dbe else p.outDbe) }

/-- The data that the other port read in the same cycle of words written now mixes (R137). -/
def State.bramDisturb (s0 s : State) (k : BramCfg) (i : Nat) (b : Bool) (cur : Nat → BWord) (own : List (Nat × BWord)) : State :=
  let p := s.bport (2 * i + b2n b)
  let c := if b then k.b else k.a
  if own.any fun e => p.read.contains e.1 then
    let v0 := portRead cur k.ecc c.width p.addr
    let v1 := portRead (s.bword i) k.ecc c.width p.addr
    let free := s0.bramFree i b
    s.setBport (2 * i + b2n b) { p with
      rd := some (mixBits v0.1 v1.1 (free.setWidth 120))
      sbe := k.ecc && bitOf free.toNat 120
      dbe := k.ecc && bitOf free.toNat 121 }
  else s

/-- Block memory `i` at an edge of regional clock `r` (R133 to R137): `near` holds the regional clocks that had an edge within
250 ps before this one. In a region that is stopped a port stores nothing and asserts no COLLB (R142). -/
def State.bramEdge (s0 : State) (r : Fin 16) (near : BitVec 16) (s : State) (i : Nat) : State :=
  let k := s0.bramCfg i
  let onA := decide (k.a.clk = r)
  let onB := decide (k.b.clk = r)
  if s0.quadStopped (i / 12) then
    [(false, onA), (true, onB)].foldl (fun (s : State) (e : Bool × Bool) =>
      if e.2 then s.modBport (2 * i + b2n e.1) fun p => { p with coll := false, wrote := [], read := [] } else s) s
  else
    let a := if onA then some (s0.bramIn i false) else none
    let b := if onB then some (s0.bramIn i true) else none
    let pa := s.bport (2 * i)
    let pb := s.bport (2 * i + 1)
    let nearA := onA && !onB && bitOf near.toNat k.b.clk.val
    let nearB := onB && !onA && bitOf near.toNat k.a.clk.val
    -- Port A's write is kept, port B's to the same native word is dropped whole (R136).
    let undo := if nearA then pb.wrote.filter fun e => (s.bramWrites k i false a).any fun w => w.1 = e.1 else []
    let s1 := undo.foldl (fun (s : State) (e : Nat × BWord) => s.setBword i e.1 e.2) s
    let cur := s1.bword i
    let wa := s1.bramWrites k i false a
    let wb := s1.bramWrites k i true b
    let clash (n : Nat) : Bool := wa.any (fun w => w.1 = n) || (nearB && pa.wrote.any fun w => w.1 = n)
    let wb' := wb.filter fun e => !clash e.1
    let s2 := (wb' ++ wa).foldl (fun (s : State) (e : Nat × BWord) => s.setBword i e.1 e.2) s1
    let s3 := if undo.isEmpty then s2 else s2.modBport (2 * i + 1) fun p => { p with coll := true }
    let now (ws : List (Nat × BWord)) : List (Nat × BWord × BWord) := ws.map fun e => (e.1, cur e.1, e.2)
    let before (ws : List (Nat × BWord)) : List (Nat × BWord × BWord) := ws.map fun e => (e.1, e.2, cur e.1)
    let s4 := match a with
      | some x => s0.bramPort s3 k i false x cur wa
          (now wb' ++ (if nearA then before (pb.wrote.filter fun e => !(undo.any fun u => u.1 = e.1)) else [])) onB false
      | none => s3
    let s5 := match b with
      | some x => s0.bramPort s4 k i true x cur wb' (now wa ++ (if nearB then before pa.wrote else [])) onA
          (wb.any fun e => clash e.1)
      | none => s4
    let s6 := if nearA then s0.bramDisturb s5 k i true cur wa else s5
    if nearB then s0.bramDisturb s6 k i false cur wb' else s6

/-! ### Clocks (R116, R117) -/

/-- The source in force of a global clock. -/
def State.gclkSrc (s : State) (n : Nat) : Nat := let g := s.gclk n; if g.sel then g.src1 else g.src0

/-- The clock enables on the way to regional clock `r` of a sector: key of its sample, and the routing that drives it. -/
def State.enables (s : State) (sec : Nat) (r : Fin 16) : List (Nat × Option Net) :=
  let c := s.rclkCfg sec r
  [(c.gclk.val, (Config.gclk s.imageFrames c.gclk).en), (32 + 16 * sec + r.val, c.en)]

/-- The level of a clock enable; always enabled where no routing drives it. -/
def State.enableNow (s : State) (n : Option Net) : Bool := match n with
  | some n => s.level n
  | none => true

/-- Does the root clock's rising edge reach the sector (R116, R117): the source runs, as the output of a fabric PLL that is
enabled, and both enables held at the falling edge before? -/
def State.rclkRuns (s : State) (sec : Nat) (r : Fin 16) : Bool :=
  let src := s.gclkSrc (s.gclkOf sec r)
  (96 ≤ src || (s.fpll (src / 4)).en) && (s.enables sec r).all fun e => (tget s.fab.en none e.1).getD (s.enableNow e.2)

/-- The falling edge: the enables are sampled (R116). -/
def State.sampleEnables (s : State) (sec : Nat) (r : Fin 16) : State :=
  { s with fab.en := (s.enables sec r).foldl (fun (t : Tab (Option Bool)) (e : Nat × Option Net) =>
      tput t none e.1 (some (s.enableNow e.2))) s.fab.en }

/-! ### The fabric port at an edge of the port clock (R72, R127) -/

def State.portClk (s : State) (sec : Nat) : Fin 16 := Config.portClock (s.sectorFrames sec)

/-- The level of an input of the port, from its sector's routing. -/
def State.portLevel (s : State) (sec : Nat) (k : PortSink) : Bool := match Config.portSelect (s.sectorFrames sec) k with
  | some n => s.level n
  | none => false

/-- A trigger pin whose PIN record names the sector, at an edge of the port clock: IN is sampled, and in mode FABRIC OUT and OE
are registered; the ball follows 4 ns later, where capture units see its edge (R72, R73). -/
def State.pinEdgeAt (s0 : State) (sec : Nat) (s : State) (p : Nat) : State :=
  let x := s.pin p
  if x.sector ≠ some (Fin.ofNat 96 sec) then s
  else
    let y : Pin := { x with
      sync := (x.sync.2, x.ball p)
      fab := if x.mode = 3 ∧ p ≠ 17 ∧ p ≠ 18 then some (s0.portLevel sec (.out p), s0.portLevel sec (.oe p)) else x.fab }
    let t := s.setPin p y
    if y.ball p = x.ball p then t else t.watch p (x.ball p) (256 * (s.now + 4))

/-- The heartbeat input at an edge of the port clock: a toggle restarts the watchdogs of the sector (R127). -/
def State.beatEdge (s0 : State) (sec : Nat) (s : State) : State :=
  let v := s0.portLevel sec .heartbeat
  if (s.sector sec).beat = v then s
  else { s.modSector sec (fun x => { x with beat := v }) with
    fab.heart := s.fab.heart.map fun (e : Nat × Heartbeat) =>
      if e.2.sector = some (Fin.ofNat 96 sec) then (e.1, { e.2 with last := s.now }) else e }

/-- The initiator response channel at an edge of the port clock (R123): where user logic asserts ready it takes the first beat that
waits, and a beat of read data gives its entry of the buffer back. -/
def State.respEdge (s0 : State) (sec : Nat) (s : State) : State :=
  if ¬ s0.portLevel sec .ready then s
  else s.modSector sec fun x => match x.responses with
    | [] => { x with taken := none }
    | (flow, st, bs) :: rest =>
      { x with
        taken := some (flow, st, bs.take 64)
        reserved := x.reserved - (if bs = [] then 0 else 1)
        responses := if 64 < bs.length then (flow, st, bs.drop 64) :: rest else rest }

def State.portEdge (s0 : State) (sec : Nat) (r : Fin 16) (s : State) : State :=
  if s0.portClk sec ≠ r then s
  else s0.respEdge sec <| s0.beatEdge sec (((List.range 32).filter pinKnown).foldl (s0.pinEdgeAt sec) s)

/-! ### Serial ports at an edge of a global clock (R369, R370) -/

/-- Bits of the word of a RAW lane. -/
def rawBits (c : RawCfg) : Nat := [32, 40, 64].getD c.width.val 64

/-- A word of `n` levels. -/
def levelWord (n : Nat) (f : Nat → Bool) : Nat := maskOf ((List.range n).map f)

/-- A RAW lane of the sector at an edge of global clock `g`: the word that the line brought, where `g` runs from the lane group's
recovered clock, and the word that routing presents (R369). The line's bits come in as levels 2³¹ + 64 × lane + bit. -/
def State.rawEdge (s0 : State) (sec g : Nat) (s : State) (i : Nat) : State :=
  let c := s0.rawCfg i
  if (s0.lane i).use ≠ 3 ∨ c.sector.val ≠ sec then s
  else s.modLane i fun l => { l with
    rx := if c.rxClk.val = g ∧ s0.gclkSrc g = 122 + i / 8 then
        BitVec.ofNat 64 (levelWord (rawBits c) fun k => tget s0.fab.ext false (2 ^ 31 + 64 * i + k)) else l.rx
    tx := if c.txClk.val = g then BitVec.ofNat 64 (levelWord (rawBits c) fun k => s0.portLevel sec (.rawTx i k)) else l.tx }

/-- An enabled JESD link at an edge of its link clock (R370, R372): a receiving link in DATA presents a word, which comes in as
levels 2³¹ + 2¹⁶ + 1024 × link + bit, with bit 512 its valid; a transmitting one takes the word that routing presents. -/
def State.jesdEdge (s0 : State) (sec g : Nat) (s : State) (n : Nat) : State :=
  let j := s0.jesd n
  let inn (k : Nat) : Bool := tget s0.fab.ext false (2 ^ 31 + 2 ^ 16 + 1024 * n + k)
  if ¬ j.en ∨ j.st ≠ 3 ∨ j.sector.val ≠ sec ∨ s0.linkClk n ≠ g then s
  else s.modJesd n fun x => { x with
    word := BitVec.ofNat 512 (levelWord 512 fun k => if j.tx then s0.portLevel sec (.jesdTx n k) else inn k)
    valid := !j.tx && inn 512 }

def State.serialEdge (s0 : State) (sec : Nat) (r : Fin 16) (s : State) : State :=
  let g := s0.gclkOf sec r
  (List.range 8).foldl (s0.jesdEdge sec g) ((List.range 64).foldl (s0.rawEdge sec g) s)

/-! ### FABRIC_CLOCK_EDGE -/

/-- Levels that enter the fabric from outside. -/
def State.extIn (s : State) (ext : List (Nat × Bool)) : State :=
  { s with fab.ext := ext.foldl (fun (t : Tab Bool) (e : Nat × Bool) => tput t false e.1 e.2) s.fab.ext }

/-- Every flip-flop whose asynchronous SR is asserted takes SRVAL (R105). -/
def State.settleAsync (s : State) : State :=
  { s with fab.ff := tputAll s.fab.ff none ((List.range 384).flatMap quadCells) fun c =>
      if s.asyncSr s.lit c then some (some (s.cellCfg c).srVal) else none }

/-- Every element of a sector on regional clock `r`, from the levels before the edge. -/
def State.clocked (s : State) (sec : Nat) (r : Fin 16) (near : BitVec 16) : State :=
  s.serialEdge sec r <| s.portEdge sec r ((sectorBlocks sec).foldl (s.bramEdge r near) { s with
    freeCount := s.freeCount + 1
    fab.ff := tputAll s.fab.ff none (sectorCells sec) fun c => (s.ffNext sec r c).map some
    fab.wire := tputAll s.fab.wire none (sectorWires sec) fun w => (s.wireNext sec r w).map some
    fab.border := tputAll s.fab.border false (sectorBorders sec) (s.borderNext sec r)
    fab.slice := tputAll s.fab.slice {} (sectorSlices sec) (s.sliceNext r) })

/-- FABRIC_CLOCK_EDGE: a cycle of the root clock of a regional clock: the levels that come in from outside, the rising edge where
the enables let it through, and the falling edge at which they are sampled (DESIGN CHOICE, log 122: no edge of another clock
comes between the two). -/
def State.fabricEdge (s : State) (sec : Nat) (r : Fin 16) (near : BitVec 16) (ext : List (Nat × Bool)) : State :=
  if ¬ s.sectorRuns sec then s
  else
    let s0 := (s.extIn ext).settleAsync
    ((if s0.rclkRuns sec r then s0.clocked sec r near else s0).settleAsync).sampleEnables sec r

def execFabricClockEdge (sec : SectorId) (r : Fin 16) (near : BitVec 16) (ext : List (BitVec 32 × Bool)) (s : State) : Out :=
  .next (s.fabricEdge sec.val r near (ext.map fun e => (e.1.toNat, e.2)))

/-! ### Bus lines (R112, R114, R115) -/

/-- The frames that enable the drivers of a segment, in the plane that configures its quad (R111). -/
def State.busFrames (s : State) (seg : BitVec 15) : List Nat :=
  let q := segmentQuad seg.toNat
  let m := Config.busMinors seg
  ([m.1, m.2].map fun i => frameAddr (s.planeB q) i.val q).eraseDups

/-- BUSLINE_CONTENTION: the drivers stay disabled until the frames that enable them are rewritten. -/
def execBuslineContention (seg : BitVec 15) (s : State) : Out :=
  if ¬ segmentKnown seg.toNat ∨ s.fab.busOff.contains seg then .next s
  else
    let o := s.quadOwner (segmentQuad seg.toNat)
    .next ({ s with
      fab.busCount := satInc s.fab.busCount
      fab.busOff := s.fab.busOff ++ [seg]
      fab.busWait := s.fab.busWait ++ (s.busFrames seg).map fun a => (seg, a)
      fab.busLast := packW [(0, seg.toNat), (16, o.val)] }.raise 160 [0])

/-- CFG_BUSCON registers. -/
def State.busconRead (s : State) (off : Nat) : W32 :=
  if off = 0 then packW [(0, s.fab.busCount.toNat), (16, b2n !s.fab.busOff.isEmpty)]
  else if off = 4 then s.fab.busLast
  else 0#32

/-- A frame is rewritten: the drivers of a segment all of whose frames have been rewritten follow them again (R114). -/
def State.busRepaired (s : State) (a : Nat) : State :=
  let wait := s.fab.busWait.filter fun (e : BitVec 15 × Nat) => decide (e.2 ≠ a)
  { s with
    fab.busWait := wait
    fab.busOff := s.fab.busOff.filter fun (g : BitVec 15) =>
      (wait.any fun e => e.1 == g) || !(s.fab.busWait.any fun e => e.1 == g) }

/-! ### Fabric PLLs (R76, R118 to R120) -/

/-- FPLL_LOSS_OF_LOCK: the output continues at its last frequency. -/
def execFpllLossOfLock (n : PllId) (s : State) : Out :=
  let p := s.fpll n.val
  .next (if ¬ p.locked then s
    else (s.setFpll n.val { p with locked := false, lossS := true, khz := s.pllKhz n.val }).raise (96 + n.val) [p.owner])

/-- FPLL_RELOCK: also the first lock of a PLL that the image enables (R118). -/
def execFpllRelock (n : PllId) (s : State) : Out :=
  let p := s.fpll n.val
  .next (if p.en then s.setFpll n.val { p with locked := true } else s)

/-- Fabric clock limit of the speed grade in Hz (R128). -/
def State.fabricLimit (s : State) : Nat := if s.speed = 3 then 1050000000 else if s.speed = 2 then 950000000 else 850000000

/-- AXIS_LOCK_PLL (R76, R79, R119): the frequency at RATE_MAX lies within 5 MHz and the speed grade's limit. With the enable bit
0 the PLL leaves the axis: EN, AXIS and C0_KHZ stay, LOCKED clears without LOSS_S until its image reference locks it again, and a PLL
that is not axis-locked answers WRONG_STATE (DESIGN CHOICE, log 122: the spec says nothing of the release). -/
def axisLockPll (m : Mb) (r : Running) (s : State) : Ans :=
  let n := r.u32 0x10
  let ax := r.u32 0x14
  let mul := r.u32 0x18
  let div := r.u32 0x1C
  if 24 ≤ n ∨ 16 ≤ ax ∨ 1 < r.u32 0x20 then no .wrongState s
  else
    let p := s.fpll n
    let a := s.axis ax
    if p.owner ≠ s.issuer m then no .notOwner s
    else if ¬ r.bit 0x20 0 then
      if ¬ p.axisLocked then no .wrongState s
      else ok { s.setFpll n { p with
          axisLocked := false, axisHold := false, stuck := false, locked := false, khz := s.pllKhz n } with
        axu.lock := tput s.axu.lock none n none }
    else if div = 0 then no .wrongState s
    else if a.cfg.rateMax.toNat * 10 ^ 9 * mul < 5000000 * 2 ^ 32 * div ∨
        s.fabricLimit * 2 ^ 32 * div < a.cfg.rateMax.toNat * 10 ^ 9 * mul then no .refusedResources s
    else
      let hold := decide (a.st = .held) || decide (a.st = .stalled) || decide (a.st = .disabled)
      let s := s.setFpll n { p with
        en := true
        locked := true
        axisLocked := true
        axisHold := hold
        holdS := p.holdS || hold
        stuck := false
        ax := Fin.ofNat 16 ax }
      let s := { s with axu.lock := tput s.axu.lock none n (some { ax := Fin.ofNat 16 ax, m := BitVec.ofNat 32 mul, n := BitVec.ofNat 32 div }) }
      let s := if hold then s.modFpll n fun p => { p with khz := BitVec.ofNat 21 (s.lockKhz n) } else s
      ok s (leBytes 8 ((s.axisRate ax).toInt.natAbs * 10 ^ 9 * mul / div))

def execAxisLockPll (m : Mb) (s : State) : Out := .next (s.serve m 0x0330 anyForm 0x18 (axisLockPll m))

/-- PLL_AXIS_REALIGN (R76): within 10 µs after its axis resumes. A PLL that PTP_RESET_TIME left in hold keeps it (R95). -/
def execPllAxisRealign (n : PllId) (s : State) : Out :=
  let p := s.fpll n.val
  let a := s.axis p.ax.val
  .next (if p.axisLocked ∧ p.axisHold ∧ ¬ p.stuck ∧ (a.st = .running ∨ a.st = .extrap ∨ a.st = .clamped) then
    s.setFpll n.val { p with axisHold := false } else s)

end Sys2Proof.Machine
end

