-- ==== Sys2Proof/Machine/Vault.lean ====
section
/-!
DEFINITION. Machine/Vault.lean: the vault ports and the side port (R301 to R311), the secure wipe (R312), the scrubber and
the remap table (R314 to R316), the VLT registers and the commands of R319.
-/
namespace Sys2Proof.Machine

/-! ### Accesses (R303 to R311) -/

/-- Answer request `id`. -/
def State.answer (s : State) (id : Nat) (r : Req) (st : NocStatus) (data : List Byte) : State :=
  s.setReq id (some { r with stage := .answered st data })

/-- VAULT_ACCESS: the request at the vault port is served; `f` is what the code finds at its first word. A write to a word
of a locked sequence, and a LOCK of it, wait (R221). An UNLOCK is answered with whether the bank had released the word. -/
def State.vaultAccess (s : State) (id : Nat) (f : Finding) : State :=
  match s.req id with
  | none => s
  | some r =>
    if r.stage ≠ .target ∨ ¬ inVault r.addr r.len then s
    else
      let off := r.addr - vaultBase
      let t := (s.confTick r.src (spanOf 16 off r.len).length).vaultFind (off / 16) f
      match r.op with
      | .read =>
        let x := t.vaultRead r.who r.owner off r.len
        x.2.2.answer id r x.1 x.2.1
      | .write =>
        if s.vaultLocked r.who off r.data.length then s
        else
          let x := t.vaultWrite r.who r.owner off r.data
          x.2.answer id r x.1 []
      | .lock =>
        (match r.who with
        | .engine g =>
          if s.vlt.locks.any fun l => l.1 = off / 16 then s
          else let x := t.vaultGrant g r.owner (off / 16); x.2.2.answer id r x.1 x.2.1
        | _ => s.answer id r .error [])
      | .unlock =>
        (match r.who with
        | .engine g => let x := s.vaultClose g r.owner (off / 16) r.data; x.2.2.answer id r x.1 [if x.2.1 then 0#8 else 1#8]
        | _ => s.answer id r .error [])
      | .fence => s.answer id r .ok []

def execVaultAccess (id : Nat) (f : Finding) (s : State) : Out := .next (s.vaultAccess id f)

/-- The lanes of a side-port write that fall into word `v`: all 16 make a whole word, fewer one read-modify-write. -/
def State.vaultLanes (s : State) (who : Initiator) (o : Owner) (v : Nat) (lanes : List (Nat × Byte)) : NocStatus × State :=
  match lanes with
  | [] => (.ok, s)
  | l :: ls =>
    if lanes.length = 16 then s.vaultWriteWord who o v 0 (lanes.map fun x => x.2)
    else
      let r := s.vaultWriteWord who o v l.1 [l.2]
      (r.1, ls.foldl (fun (t : State) (x : Nat × Byte) => { t with vlt.mem := wrBytes t.vlt.mem (16 * v + x.1) [x.2] }) r.2)

/-- The requester of the side port as an initiator (R307). -/
def sideInit : SideRequester → Initiator
  | .kit k => .kit ⟨k.val, by omega⟩
  | .sector i => .sector ⟨i.val, by omega⟩

/-- The number of a side-port requester among the conflict counters (R313). -/
def sideSource : SideRequester → Nat
  | .kit k => 140 + k.val
  | .sector i => 144 + i.val

/-- VAULT_SIDE_CHANNEL_ACCESS (R307, R308): 16 bytes from `off`. `collides`: port A writes the same word in the same
cycle, so that a write is dropped whole, answered COLLIDED and counted. Data read is left in `readData`. -/
def State.sideAccess (s : State) (r : SideRequester) (off : Nat) (write : Bool) (be : BitVec 16) (data : BitVec 128)
    (collides : Bool) : State :=
  let who := sideInit r
  let o := s.ownerOf who
  let n := min 16 (0x200000 - off)
  match s.vaultCheck who o off n with
  | some st => { s.noteOwner who with vlt.sideStatus := st }
  | none =>
    if ¬ write then
      let x := (s.confTick (sideSource r) (spanOf 16 off n).length).vaultRead who o off n
      { x.2.2 with readData := x.2.1, vlt.sideStatus := x.1 }
    else if s.vaultLocked who off n then s
    else if collides then { s with vlt.collide := satInc s.vlt.collide, vlt.sideStatus := .collided }
    else
      let s := s.confTick (sideSource r) (spanOf 16 off n).length
      let bs := (leBytes 16 data.toNat).take n
      let lanes := (bs.zipIdx.filter fun x => bitOf be.toNat x.2).map fun x => (off + x.2, x.1)
      let word (v : Nat) : List (Nat × Byte) := (lanes.filter fun x => x.1 / 16 = v).map fun x => (x.1 % 16, x.2)
      let a := s.vaultLanes who o (off / 16) (word (off / 16))
      let b := a.2.vaultLanes who o (off / 16 + 1) (word (off / 16 + 1))
      { b.2 with vlt.sideStatus := if a.1 = .ok then b.1 else a.1 }

def execVaultSideChannelAccess (who : SideRequester) (off : BitVec 21) (write : Bool) (be : BitVec 16) (data : BitVec 128)
    (collides : Bool) (s : State) : Out :=
  .next (s.sideAccess who off.toNat write be data collides)

/-! ### The secure wipe (R312) -/

/-- A wipe starts: on a tamper response or a life-cycle change. -/
def State.startWipe (s : State) : State := { s with vlt.wiping := true, vlt.wipeWritten := false }

/-- SECURE_WIPE: the clear path writes every word of banks 60 to 63 and the spares of remapped secure words. -/
def execSecureWipe (s : State) : Out :=
  .next (if s.vlt.wiping then { s.vaultClear 0x1E0000 0x20000 with vlt.wipeWritten := true } else s)

def execSecureWipeComplete (s : State) : Out :=
  .next (if s.vlt.wiping ∧ s.vlt.wipeWritten then { s with
    vlt.wiping := false
    vlt.wipedS := true
    vlt.wipeWritten := false } else s)

/-! ### The scrubber and the remap table (R314 to R316) -/

def State.bankScrub (s : State) (b : Nat) : BankScrub := tget s.vlt.bank {} b
def State.setBankScrub (s : State) (b : Nat) (x : BankScrub) : State := { s with vlt.bank := tput s.vlt.bank {} b x }

/-- A lap ends once every bank with written words has passed its last one. -/
def State.vaultLap (s : State) : State :=
  let busy := (s.vlt.word.map fun e => vaultBank e.1).eraseDups
  if busy.all fun b => 0 < (s.bankScrub b).laps then
    { s with
      vlt.bank := busy.foldl (fun (t : Tab BankScrub) b => tput t {} b { s.bankScrub b with laps := (s.bankScrub b).laps - 1 }) s.vlt.bank
      vlt.lapPrev := s.vlt.lapUs
      vlt.lapUs := BitVec.ofNat 32 ((s.now - s.vlt.lapStart) / 1000)
      vlt.lapStart := s.now }
  else s

/-- VAULT_SCRUB_READ: the next written word of a bank in row order; a row not above the latest one starts the bank's next
lap. -/
def State.vaultScrub (s : State) (b row : Nat) (f : Finding) : State :=
  let v := vaultWordAt b row
  if ¬ s.vlt.scrubEn ∨ s.wordState v = .unwritten then s
  else
    let x := s.bankScrub b
    let s := s.setBankScrub b { x with row := row + 1, laps := if row < x.row then x.laps + 1 else x.laps }
    let s := if row < x.row then s.vaultLap else s
    let s := s.vaultFind v f
    match s.wordState v with
    | .correctable =>
      let s := s.setBankScrub b { s.bankScrub b with pending := some v }
      ({ s with vlt.ce := satInc s.vlt.ce }.vaultLast v 3).raise 448 []
    | .poisoned =>
      ({ s with vlt.ue := satInc s.vlt.ue }.vaultLast v 4).raise 451 [(s.vpage (v / 4096)).owner]
    | _ => s

def execVaultScrubRead (b : Fin 64) (row : Fin 32768) (f : Finding) (s : State) : Out := .next (s.vaultScrub b.val row.val f)

/-- VAULT_SCRUB_WRITEBACK: cancelled by any write since, and waiting while the word is locked (R315). -/
def State.vaultWriteback (s : State) (b row : Nat) : State :=
  let v := vaultWordAt b row
  let x := s.bankScrub b
  if x.pending ≠ some v ∨ s.vlt.locks.any fun l => l.1 = v then s
  else
    let s := s.setBankScrub b { x with pending := none }
    if s.wordState v = .correctable then
      { s.setWordState v .clean with vlt.once := if s.vlt.once.contains v then s.vlt.once else s.vlt.once ++ [v] }
    else s

def execVaultScrubWriteback (b : Fin 64) (row : Fin 32768) (s : State) : Out := .next (s.vaultWriteback b.val row.val)

def execBankStarved (b : Fin 64) (s : State) : Out :=
  .next ({ s with vlt.starved := true, vlt.starvedBank := BitVec.ofNat 6 b.val }.raise 455 [0])

/-- VAULT_REMAP (R316): an uncorrectable word, or one that shows a second correctable error after its write-back. -/
def State.vaultRemap (s : State) (v : Nat) : State :=
  let fails := decide (s.wordState v = .poisoned) || (decide (s.wordState v = .correctable) && s.vlt.once.contains v)
  if ¬ fails ∨ s.vlt.remap.contains v then s
  else if 32 ≤ s.vlt.remap.length then { s with vlt.remapFull := true }.raise 454 [0]
  else
    let s := if s.wordState v = .correctable then s.setWordState v .clean else s
    let s := { s with
      vlt.remap := s.vlt.remap ++ [v]
      vlt.stale := true
      vlt.once := s.vlt.once.filter (· ≠ v) }.raise 452 []
    if s.vlt.remap.length = 24 then (s.raise 453 [0]).healthCause 1 else s

def execVaultRemap (w : BitVec 21) (s : State) : Out := .next (s.vaultRemap w.toNat)

/-! ### Registers (R317, R318, R510) -/

def State.vltStat (s : State) : W32 :=
  packW [(0, b2n s.vlt.scrubEn), (1, b2n s.vlt.starved), (2, b2n s.vlt.wiping), (3, b2n s.vlt.wipedS),
    (4, b2n (24 ≤ s.vlt.remap.length)), (5, s.vlt.remap.length), (11, b2n s.vlt.remapFull), (12, s.vlt.starvedBank.toNat)]

/-- VLT_SCRUB_LAP as a read shows it: the first reading after a remap is one lap stale (KL-02). -/
def State.vltLap (s : State) : W32 × State :=
  if s.vlt.stale then (s.vlt.lapPrev, { s with vlt.stale := false }) else (s.vlt.lapUs, s)

/-- A VLT register. -/
def State.vltRead (s : State) (off : Nat) : W32 :=
  if off = 0 then s.vltStat
  else if off = 4 then packW [(0, b2n s.vlt.scrubEn), (8, s.vlt.div.toNat)]
  else if off = 8 then s.vltLap.1
  else if off = 0xC then s.vlt.ce
  else if off = 0x10 then s.vlt.ue
  else if off = 0x14 then s.vlt.last
  else if off = 0x18 then s.vlt.collide
  else if off = 0x1C then s.vlt.pmerge
  else if 0x100 ≤ off ∧ off < 0x180 then
    match s.vlt.remap[(off - 0x100) / 4]? with
    | some v => packW [(0, v), (31, 1)]
    | none => 0#32
  else if 0x1000 ≤ off ∧ off < 0x1400 then tget s.vlt.conf 0#32 ((off - 0x1000) / 4)
  else if 0x2000 ≤ off ∧ off < 0x2800 then
    let p := s.vpage ((off - 0x2000) / 4)
    packW [(0, p.owner.val), (4, b2n p.alloc), (5, b2n p.clearing)]
  else 0#32

/-! ### Commands (R319) -/

/-- First page and pages of a part (R301). -/
def partPages (part : Nat) : Nat × Nat := if part = 0 then (0, 32) else if part = 1 then (32, 448) else (480, 32)

/-- Is a page free: neither allocated nor being cleared? -/
def State.pageFree (s : State) (p : Nat) : Bool := !(s.vpage p).alloc && !(s.vpage p).clearing

def vaultAlloc (m : Mb) (r : Running) (s : State) : Ans :=
  let part := r.u32 0x10
  let n := r.u32 0x14
  let o := s.issuer m
  let pp := partPages part
  if 2 < part ∨ n = 0 ∨ pp.2 < n then no .wrongState s
  else if part = 2 ∧ ¬ s.isSecure o then no .notOwner s
  else match firstFree (pp.2 - n + 1) fun i => (List.range n).all fun j => s.pageFree (pp.1 + i + j) with
    | none => no .refusedResources s
    | some i =>
      ok ((List.range n).foldl (fun (t : State) (j : Nat) =>
        t.setVpage (pp.1 + i + j) { owner := o, alloc := true, clearing := false }) s) (leBytes 4 (pp.1 + i))

def execVaultAlloc (m : Mb) (s : State) : Out := .next (s.serve m 0x0640 anyForm 0x14 (vaultAlloc m))

/-- Does the storage of any queue lie in the pages [first, first + n)? -/
def State.queueIn (s : State) (first n : Nat) : Bool :=
  s.qcu.queue.any fun e =>
    decide (e.2.kind ≠ .free) && decide (e.2.base < vaultBase + 0x10000 * (first + n)) &&
      decide (vaultBase + 0x10000 * first < e.2.base + e.2.size * e.2.bytes)

def vaultFree (m : Mb) (r : Running) (s : State) : Ans :=
  let first := r.u32 0x10
  let n := r.u32 0x14
  let o := s.issuer m
  let ps := (List.range n).map (first + ·)
  if n = 0 ∨ 512 < first + n ∨ ¬ ps.all (fun p => (s.vpage p).alloc) then no .wrongState s
  else if ¬ ps.all fun p => decide ((s.vpage p).owner = o) then no .notOwner s
  else if s.queueIn first n then no .wrongState s
  else
    let s := ps.foldl (fun (t : State) (p : Nat) => t.setVpage p { owner := 0, alloc := false, clearing := true }) s
    .accepted { s with vlt.freeing := s.vlt.freeing ++ [(m, first, n)] }

def execVaultFree (m : Mb) (s : State) : Out := .next (s.serve m 0x0641 anyForm 0x10 (vaultFree m))

/-- VAULT_PAGE_CLEARED: CLEARING drops; a VAULT_FREE all of whose pages are clear completes. -/
def State.pageCleared (s : State) (p : Nat) : State :=
  if ¬ (s.vpage p).clearing then s
  else
    let s := (s.vaultClear (4096 * p) 4096).modVpage p fun x => { x with clearing := false }
    let done (e : Mb × Nat × Nat) : Bool := (List.range e.2.2).all fun j => !(s.vpage (e.2.1 + j)).clearing
    let s' := { s with vlt.freeing := s.vlt.freeing.filter fun e => !done e }
    (s.vlt.freeing.filter done).foldl (fun (t : State) (e : Mb × Nat × Nat) => t.finish e.1 .ok) s'

def execVaultPageCleared (p : Fin 512) (s : State) : Out := .next (s.pageCleared p.val)

def vaultQuery (m : Mb) (_r : Running) (s : State) : Ans :=
  let o := s.issuer m
  let lap := s.vltLap
  let mine := ((List.range 512).filter fun p => (s.vpage p).alloc && decide ((s.vpage p).owner = o)).length
  ok lap.2 ((([s.vltStat, lap.1, s.vlt.ce, s.vlt.ue, s.vlt.collide, s.vlt.pmerge, s.vlt.last].map fun w =>
    leBytes 4 w.toNat).flatten) ++ leBytes 4 mine)

def execVaultQuery (m : Mb) (s : State) : Out := .next (s.serve m 0x0642 anyForm 0x30 (vaultQuery m))

def vaultConfig (r : Running) (s : State) : Ans :=
  let f := r.u32 0x10
  let d := r.u32 0x14
  if 3 < f ∨ d < 4 ∨ 16 < d then no .wrongState s
  else ok { s with
    vlt.scrubEn := bitOf f 0
    vlt.div := BitVec.ofNat 5 d
    vlt.conf := if bitOf f 1 then [] else s.vlt.conf }

def execVaultConfig (m : Mb) (s : State) : Out :=
  .next (s.serve m 0x0643 anyForm 0x10 fun r s => s.withConfig m (vaultConfig r s))

end Sys2Proof.Machine
end

