-- ==== Sys2Proof/Machine/Dram.lean ====
section
/-!
DEFINITION. Machine/Dram.lean: the DRAM ports: requests and the line code (R322 to R330), refresh (R331 to R333), training,
retraining and patrol (R337 to R339), freezes and their repair (R340 to R343), regions, registers and the commands of
R346.
-/
namespace Sys2Proof.Machine

/-! ### Port addresses (R325, R327) -/

/-- Bytes of a port: 16 GiB, doubled by a second rank and by 32 Gb devices (R321). -/
def DPort.capacity (p : DPort) : Nat := 2 ^ (34 + b2n p.ranks + b2n p.density)

/-- Bank-select bits of a port (R327). -/
def DPort.nb (p : DPort) : Nat := if p.ranks then 6 else 5

/-- Parity of a number's set bits below `n`. -/
def parity (n v : Nat) : Bool := ((List.range n).filter (bitOf v)).length % 2 = 1

/-- Bank-select bit `k` of port address `pa` (R327). -/
def DPort.bankBit (p : DPort) (pa k : Nat) : Bool :=
  bitOf pa (13 + k) != parity 36 ((tget p.bmap 0#30 k).toNat * 64 &&& pa)

/-- Rank, bank group, bank, row and line in the row of a port address (R327). -/
def DPort.coord (p : DPort) (pa : Nat) : Nat × Nat × Nat × Nat × Nat :=
  let b (k : Nat) : Nat := b2n (p.bankBit pa k)
  (if p.ranks then b 5 else 0, b 0 + 2 * b 1 + 4 * b 2, b 3 + 2 * b 4, pa / 2 ^ (13 + p.nb), bitsOf pa 6 7)

/-- DRAM clocks at an instant: the clock runs at half the data rate, in units of 100 MT/s. -/
def DPort.clocks (p : DPort) (now : Nat) : Nat := now * p.rate.toNat / 20

/-- A COMMANDS entry of the freeze record (R341). -/
def commandEntry (cmd rank group bank row line clocks : Nat) : W64 :=
  BitVec.ofNat 64 (cmd + rank * 2 ^ 4 + group * 2 ^ 5 + bank * 2 ^ 8 + row % 2 ^ 17 * 2 ^ 10 + line * 2 ^ 27 + clocks % 2 ^ 30 * 2 ^ 34)

/-- The port issues a command: the last 32 are kept (R341). -/
def State.dramIssue (s : State) (k cmd rank group bank row line : Nat) : State :=
  s.modDport k fun p =>
    let l := p.commands ++ [commandEntry cmd rank group bank row line (p.clocks s.now)]
    { p with commands := l.drop (l.length - 32) }

/-- The region and global address that port address `pa` of port `k` belongs to (R325). -/
def State.portGlobal (s : State) (k pa : Nat) : Option (Nat × Nat) :=
  (List.range 16).findSome? fun r =>
    let g := s.region r
    let ports := maskList 8 g.ports.toNat
    let n := ports.length
    if g.defined ∧ n ≠ 0 ∧ g.pbase ≤ pa ∧ pa < g.pbase + g.size / n then
      match ports.findIdx? (· == k) with
      | some i =>
        let x := pa - g.pbase
        some (r, g.base + (x / 2 ^ g.gexp * n + i) * 2 ^ g.gexp + x % 2 ^ g.gexp)
      | none => none
    else none

/-! ### The line code (R323, R324, R344) -/

/-- A line corrected: counted for the port and for the device (R344, R345). Five symbols in one line qualify the device
for erasure as 64 corrections in a second do (R324). -/
def State.lineCorrected (s : State) (k : Nat) (rank : Fin 2) (dev : Fin 10) (symbols : Nat) : State :=
  let d := 10 * rank.val + dev.val
  let sec := s.now / 10 ^ 9
  let s := s.modDport k fun p =>
    let x := tget p.devsec (0, 0) d
    let n := (if x.1 = sec then x.2 else 0) + (if 5 ≤ symbols then 64 else symbols)
    { p with
      ce := satInc p.ce
      deverr := tput p.deverr 0#32 d (satAdd (tget p.deverr 0#32 d) symbols)
      devsec := tput p.devsec (0, 0) d (sec, n) }
  s.raise (256 + 16 * k) []

/-- What the line code finds at line `ln` of port `k`. -/
def State.lineFind (s : State) (k ln : Nat) : LineFinding → State
  | .clean => s
  | .corrected rank dev symbols => if symbols.val = 0 then s else s.lineCorrected k rank dev symbols.val
  | .uncorrectable => s.modDport k fun p => if p.bad.contains ln then p else { p with bad := p.bad ++ [ln] }

/-- A request that waits at a DRAM port, with its region, first port and port address. -/
def State.dramWaiting (s : State) (id : Nat) : Option (Req × Nat × Nat × Nat) :=
  match s.req id with
  | none => none
  | some r =>
    if r.stage ≠ .target then none
    else match s.regionAt r.addr with
      | some g => let m := regionMap (s.region g) r.addr; some (r, g, m.1, m.2)
      | none => none

/-- Is a REFsb of bank set `b` urgent: by the debt limit, by a rate switch (R332, R333)? -/
def DPort.debtUrgent (p : DPort) (b : Nat) : Bool := decide (3 ≤ p.debtOf b)
def DPort.rateUrgent (p : DPort) (b : Nat) : Bool := decide (0 < tget p.switchUrgent 0 b)

/-! ### Order of a port's commands (R328, R329, R331, R332, R338) -/

/-- Does a request at a port travel on an admitted contracted flow? -/
def State.contracted (s : State) (r : Req) : Bool := match s.flowOf r.src r.flow with
  | some c => decide (c.2.1.st = .admitted)
  | none => false

/-- Rank, bank group, bank and row of a request's first line; its bank, and its bank set. -/
def State.reqCoord (s : State) (k : Nat) (r : Req) : Nat × Nat × Nat × Nat := match s.regionAt r.addr with
  | some g => let c := (s.dport k).coord (regionMap (s.region g) r.addr).2; (c.1, c.2.1, c.2.2.1, c.2.2.2.1)
  | none => (0, 0, 0, 0)

def State.reqBank (s : State) (k : Nat) (r : Req) : Nat := let c := s.reqCoord k r; 32 * c.1 + 4 * c.2.1 + c.2.2.1
def State.reqSet (s : State) (k : Nat) (r : Req) : Nat := let c := s.reqCoord k r; 4 * c.1 + c.2.2.1

/-- Order of arrival at the port. -/
def arrivedBefore (a b : Nat × Req) : Bool := a.2.since < b.2.since || (a.2.since = b.2.since && a.1 < b.1)

/-- Do two requests touch a line in common? -/
def Req.meets (a b : Req) : Bool := a.addr / 64 ≤ (b.addr + b.len - 1) / 64 && b.addr / 64 ≤ (a.addr + a.len - 1) / 64

/-- Is bank `b` in in-order mode (R329): a pending read follows a pending write of its bank and row? -/
def State.inOrder (s : State) (k b : Nat) (pending : List (Nat × Req)) : Bool :=
  pending.any fun w => decide (w.2.op = .write ∧ s.reqBank k w.2 = b) && pending.any fun r =>
    decide (r.2.op = .read) && arrivedBefore w r && s.reqCoord k r.2 == s.reqCoord k w.2

/-- Requests of port `k` whose data is not yet issued, oldest data first only where R329 says so. -/
def State.unissued (s : State) (k : Nat) : List (Nat × Req) := (s.portPending k).filter fun e => !e.2.drawn

/-- R329: no earlier request touches its lines, and in a bank in in-order mode none to the bank is earlier. -/
def State.orderOk (s : State) (k : Nat) (e : Nat × Req) : Bool :=
  let l := s.unissued k
  let b := s.reqBank k e.2
  !(l.any fun x => arrivedBefore x e && (x.2.meets e.2 || (decide (s.reqBank k x.2 = b) && s.inOrder k b l)))

/-- Could a pending request issue now: R329 and the timings of its bank let it? -/
def State.issuable (s : State) (k : Nat) (e : Nat × Req) : Bool :=
  let p := s.dport k
  s.orderOk k e && Config.bankReady p.commands (p.clocks s.now) (s.reqBank k e.2)

/-- Item 1: no retraining slot is due or runs. -/
def State.slotFree (s : State) (k : Nat) : Bool :=
  let p := s.dport k
  decide (p.slotEnd ≤ s.now) && (match p.retrainAt with | some t => decide (s.now < t) | none => true)

/-- Item 2: may a rate-switch refresh of bank set `b` go ahead of the contracted requests that wait? -/
def State.rateTurn (s : State) (k b : Nat) : Bool :=
  (s.unissued k).all fun e => !s.contracted e.2 ||
    (let n := tget (s.dport k).ahead (0, 0) e.1; decide (n.1 < 8) && (decide (s.reqSet k e.2 ≠ b) || decide (n.2 < 1)))

def State.rateDue (s : State) (k : Nat) : Bool :=
  (List.range (s.dport k).sets).any fun b => (s.dport k).rateUrgent b && s.rateTurn k b

/-- Items 3 and 4: a contracted request waits; metadata lines of one do. -/
def State.conWaits (s : State) (k : Nat) : Bool := (s.unissued k).any fun e => s.contracted e.2
def State.metaWaits (s : State) (k : Nat) : Bool := (s.portPending k).any fun e => e.2.drawn && s.contracted e.2

/-- May the port serve a request now (R328 items 1 to 6)? That its own bank is ready is what the port's choice of it says. Metadata
lines are those of a request whose data has issued. -/
def State.requestTurn (s : State) (k id : Nat) (r : Req) : Bool :=
  let e := (id, r)
  let rest := (s.unissued k).filter fun x => x.1 != id
  let con := rest.filter fun x => s.contracted x.2
  let late (x : Nat × Req) : Bool := x.2.since + 10000 < s.now
  s.slotFree k && !s.rateDue k && (r.drawn || s.orderOk k e) &&
  (if s.contracted r then
    if r.drawn then !con.any (s.issuable k) else !con.any fun x => arrivedBefore x e && s.issuable k x
  else
    !con.any (s.issuable k) && !s.metaWaits k &&
    (s.conWaits k || !(List.range (s.dport k).sets).any (s.dport k).debtUrgent) &&
    (late e || !rest.any fun x => late x && !s.contracted x.2 && s.orderOk k x))

/-- May the port issue a REFsb to bank set `b` now (R328 items 1, 2, 5, 7; R331)? R331's condition on pending requests is that of
item 7; items 2 and 5 state their own (DEDUCED, log 125). -/
def State.refsbTurn (s : State) (k b : Nat) : Bool :=
  let p := s.dport k
  s.slotFree k &&
  (if p.rateUrgent b then s.rateTurn k b
  else if p.debtUrgent b then !s.rateDue k && !s.conWaits k && !s.metaWaits k
  else !s.rateDue k && !(s.portPending k).any fun e => s.reqSet k e.2 == b || e.2.drawn || s.issuable k e)

/-- Item 8: is the port idle, so that clears and the patrol may use it? -/
def State.portIdle (s : State) (k : Nat) : Bool := s.slotFree k && (s.portPending k).isEmpty && decide ((s.dport k).owed = 0)

/-- The request is performed and answered. -/
def State.dramServe (s : State) (id : Nat) (r : Req) : State :=
  match r.op with
  | .read =>
    let x := s.dramRead r.who r.owner r.addr r.len
    (x.2.2.answer id r x.1 x.2.1).settle
  | .write =>
    let x := s.dramWrite r.who r.owner r.addr r.data
    (x.2.answer id r x.1 []).settle
  | _ => s.answer id r .ok []

/-- DRAM_REQUEST (R328 to R330): the port serves a request whose turn it is; `f` is what the line code finds at its first line. A request to
a protected region is served by the MXE, which acts behind the code (R356). -/
def State.dramRequest (s : State) (id : Nat) (f : LineFinding) : State :=
  match s.dramWaiting id with
  | none => s
  | some (r, g, k, pa) =>
    if r.drawn ∨ ¬ s.requestTurn k id r then s
    else
    let c := (s.dport k).coord pa
    let s := s.dramIssue k (if r.op = .write then 3 else 2) c.1 c.2.1 c.2.2.1 c.2.2.2.1 c.2.2.2.2
    let s := s.lineFind k (pa / 64) f
    if (s.region g).enc.isSome then s.setReq id (some { r with drawn := true }) else s.dramServe id r

def execDramRequest (id : Nat) (f : LineFinding) (s : State) : Out := .next (s.dramRequest id f)

/-- DEVICE_ERASE (R324): at most one device of a rank, until chip reset. -/
def State.deviceErase (s : State) (k : Nat) (rank : Fin 2) (dev : Fin 10) : State :=
  let p := s.dport k
  let x := tget p.devsec (0, 0) (10 * rank.val + dev.val)
  let old := if rank = 0 then p.erased0 else p.erased1
  if x.2 < 64 ∨ old ≠ 0xF#4 ∨ ¬ s.dportPresent k then s
  else
    let v := BitVec.ofNat 4 dev.val
    let s := s.setDport k (if rank = 0 then { p with erased0 := v } else { p with erased1 := v })
    (s.raise (256 + 16 * k + 1) [0]).healthCause 0

def execDeviceErase (k : PortId) (rank : Fin 2) (dev : Fin 10) (s : State) : Out := .next (s.deviceErase k.val rank dev)

/-! ### Refresh (R331 to R333) -/

/-- REFRESH_INTERVAL: every bank set owes one REFsb more, at most 4. -/
def execRefreshInterval (k : PortId) (s : State) : Out :=
  let p := s.dport k.val
  .next (if p.st = .ready ∨ p.st = .frozen then
    s.setDport k.val { p with
      debtOld := (p.maxDebt, p.owed)
      debt := (List.range p.sets).foldl (fun (t : Tab Nat) b => tput t 0 b (min 4 (p.debtOf b + 1))) p.debt }
    else s)

/-- A rate-switch refresh of bank set `b` is counted for every contracted request that it precedes. -/
def State.countAhead (s : State) (k b : Nat) : State :=
  let con := (s.unissued k).filter fun e => s.contracted e.2
  s.modDport k fun p => { p with ahead := con.foldl (fun (t : Tab (Nat × Nat)) (e : Nat × Req) =>
    let n := tget p.ahead (0, 0) e.1
    tput t (0, 0) e.1 (n.1 + 1, n.2 + b2n (decide (s.reqSet k e.2 = b)))) [] }

/-- REFSB, where R328 gives it its turn. -/
def State.refsb (s : State) (k : Nat) (rank : Fin 2) (bank : Fin 4) : State :=
  let p := s.dport k
  let b := 4 * rank.val + bank.val
  if p.debtOf b = 0 ∨ p.sets ≤ b ∨ ¬ s.refsbTurn k b then s
  else
    let s := if p.rateUrgent b then s.countAhead k b else s
    let p := s.dport k
    let s := s.setDport k { p with
      debt := tput p.debt 0 b (p.debtOf b - 1)
      switchUrgent := tput p.switchUrgent 0 b (tget p.switchUrgent 0 b - 1)
      urgentCnt := if p.debtUrgent b || p.rateUrgent b then satInc p.urgentCnt else p.urgentCnt }
    let s := s.dramIssue k 5 rank.val 0 bank.val 0 0
    if p.debtUrgent b then s.raise (256 + 16 * k + 7) [] else s

def execRefsb (k : PortId) (rank : Fin 2) (bank : Fin 4) (s : State) : Out := .next (s.refsb k.val rank bank)

/-- MR4 OP[2:0] values that report a rate above 1× (DDR5; PRESUMED, log entry 49). -/
def mr4Fast (v : BitVec 3) : Bool := 3 ≤ v.toNat

/-- MR4_READING (R333, R513). -/
def State.mr4Reading (s : State) (k : Nat) (v : BitVec 3) : State :=
  let p := s.dport k
  if p.st ≠ .ready ∧ p.st ≠ .frozen then s
  else if mr4Fast v then
    let s' := s.setDport k { p with mr4 := v, cool := 0 }
    if p.rate2x then s'
    else
      (s.setDport k { p with
        mr4 := v
        cool := 0
        rate2x := true
        switchUrgent := p.debt
        debtStale := s.now + 4000 }).raise (256 + 16 * k + 6) [0]
  else if p.rate2x then
    s.setDport k (if p.cool = 0 then { p with mr4 := v, cool := 1 } else { p with mr4 := v, cool := 0, rate2x := false })
  else s.setDport k { p with mr4 := v, cool := 0 }

def execMr4Reading (k : PortId) (mr4 : BitVec 3) (s : State) : Out := .next (s.mr4Reading k.val mr4)

/-! ### Training, retraining, patrol (R337 to R339) -/

/-- The default mask of R327. -/
def DPort.defaultMask (p : DPort) (j : Nat) : BitVec 30 :=
  if j < p.nb then (if p.ranks then 0x00082000#30 else 0x00041000#30) <<< j else 0#30

/-- PORT_TRAINING: after READY; none where training fails. A bound is never below the figures of R334 (R335). -/
def State.portTraining (s : State) (k : Nat) (res : Option TrainResult) : State :=
  let p := s.dport k
  if ¬ s.mbx.ready ∨ ¬ s.dportPresent k ∨ (p.st ≠ .untrained ∧ p.st ≠ .training) then s
  else match res with
    | none => (s.setDport k { p with st := .failed }).raise (256 + 16 * k + 8) [0]
    | some t =>
      let p' := { p with
        st := .ready
        ranks := t.ranks
        density := t.density
        rate := t.rate
        b1x := if t.b1x.toNat < 480 then 480#16 else t.b1x
        b2x := if t.b2x.toNat < 560 then 560#16 else t.b2x
        tm := t.tm
        retrainAt := some (s.now + 128000)
        lapStart := s.now }
      s.setDport k { p' with
        bmap := (List.range 6).foldl (fun (b : Tab (BitVec 30)) j => tput b 0#30 j (p'.defaultMask j)) [] }

def execPortTraining (k : PortId) (res : Option TrainResult) (s : State) : Out := .next (s.portTraining k.val res)

/-- Is the retraining slot of port `k` due (R338)? -/
def State.retrainDue (s : State) (k : Nat) : Bool := match (s.dport k).retrainAt with
  | some t => decide (t ≤ s.now)
  | none => true

/-- RETRAINING_SLOT (R328, R338): a slot of 100 ns at its instant, 128 µs after the one before. -/
def execRetrainingSlot (k : PortId) (drift : Bool) (s : State) : Out :=
  if (s.dport k.val).st ≠ .ready ∨ ¬ s.retrainDue k.val then .next s
  else
    let s := (s.dramIssue k.val 9 0 0 0 0 0).modDport k.val fun p => { p with
      retrains := p.retrains + 1
      retrainAt := some (s.now + 128000)
      slotEnd := s.now + 100 }
    .next (if drift then s.raise (256 + 16 * k.val + 9) [0] else s)

/-- The port freezes on line address `pa` (R340, R341). -/
def State.freezeAt (s : State) (k cause pa : Nat) (syn : BitVec 128) : State :=
  (s.dportFreeze k cause pa (match s.portGlobal k pa with | some g => g.2 | none => 2 ^ 64 - 1) syn).settle

/-- PATROL_READ (R339): a line of a region in idle cycles. Corrections are written back; an uncorrectable line freezes the
port, but for one whose poison is known. -/
def State.patrolRead (s : State) (k ln : Nat) (f : LineFinding) : State :=
  let p := s.dport k
  match s.portGlobal k (64 * ln) with
  | none => s
  | some (r, _) =>
    if p.st ≠ .ready ∨ ¬ p.scrubEn ∨ (s.region r).clearing ∨ ¬ s.portIdle k then s
    else
      let lap := ln < p.patrol
      let s := s.setDport k { p with
        patrol := ln + 1
        lapS := if lap then BitVec.ofNat 32 ((s.now - p.lapStart) / 10 ^ 9) else p.lapS
        lapStart := if lap then s.now else p.lapStart }
      let s := s.lineFind k ln f
      let p := s.dport k
      if p.bad.contains ln ∧ ¬ p.poison.contains ln then
        ((s.setDport k { p with ue := satInc p.ue }).raise (256 + 16 * k + 2) [0]).freezeAt k 3 (64 * ln) 0#128
      else s

def execPatrolRead (k : PortId) (line : BitVec 30) (f : LineFinding) (s : State) : Out :=
  .next (s.patrolRead k.val line.toNat f)

/-- PATROL_LATE (R339): a lap beyond its target by more than 10 %. -/
def execPatrolLate (k : PortId) (s : State) : Out :=
  let p := s.dport k.val
  .next (if p.scrubEn ∧ p.st = .ready ∧ p.lapH.toNat * 3600 * 10 ^ 9 * 11 < (s.now - p.lapStart) * 10 then
    s.raise (256 + 16 * k.val + 10) [0] else s)

/-! ### Freezes (R340 to R342) -/

/-- PORT_FREEZE: causes 1 to 4 name an uncorrectable line, 5 the command path, 6 a repeated ALERT_n. -/
def State.portFreeze (s : State) (k cause line : Nat) (syn : BitVec 128) : State :=
  let p := s.dport k
  if cause = 0 ∨ (p.st ≠ .ready ∧ p.st ≠ .selfref) then s
  else if cause ≤ 4 then
    let owner : Owner := match s.portGlobal k line with
      | some g => if cause = 3 then 0 else (s.region g.1).owner
      | none => 0
    let s := s.setDport k { p with ue := satInc p.ue, bad := if p.bad.contains (line / 64) then p.bad else p.bad ++ [line / 64] }
    (s.raise (256 + 16 * k + 2) [owner]).freezeAt k cause (line / 64 * 64) syn
  else if cause = 5 then (s.raise (256 + 16 * k + 4) [0]).freezeAt k 5 line 0#128
  else s.freezeAt k 6 line 0#128

def execPortFreeze (k : PortId) (cause : Fin 7) (line : BitVec 36) (syndrome : BitVec 128) (s : State) : Out :=
  .next (s.portFreeze k.val cause.val line.toNat syndrome)

/-- ALERT_N (R340): replayed and counted, or, within 1 ms of another, a freeze. -/
def State.alertN (s : State) (k : Nat) : State :=
  let p := s.dport k
  if p.st ≠ .ready ∧ p.st ≠ .selfref then s
  else
    let again : Bool := match p.lastAlert with
      | some t => decide (s.now < t + 1000000)
      | none => false
    let s := s.setDport k { p with lastAlert := some s.now }
    if again then s.freezeAt k 6 0 0#128 else s.raise (256 + 16 * k + 5) []

def execAlertN (k : PortId) (s : State) : Out := .next (s.alertN k.val)

/-- The port is reset (R288, R342): outstanding requests are answered RESET_ABORT, contracts through it suspended. -/
def State.dportReset (s : State) (k : Nat) (m : Option Mb) : State :=
  let b : Block := .dport (Fin.ofNat 8 k)
  let s := { s with noc.req := (s.portPending k).foldl (fun (t : Tab (Option Req)) (e : Nat × Req) =>
    tput t none e.1 (some { e.2 with stage := .answered .resetAbort [] })) s.noc.req }
  let s := s.modDport k fun p => { p with
    st := .resetting
    resetBy := m
    switchUrgent := []
    failover := false }
  let s := { s with noc.window := (s.noc.window.filter fun (w : Block × Option Nat) => w.1 != b) ++ [(b, none)] }
  s.suspendWhere (fun _ c => s.conAt c b) 1 (dportRouter k) none

/-- PORT_RESET_COMPLETE (R342): the lines that are still uncorrectable enter the poison table while it has room, the port is
READY, and its contracts are revalidated 1 ms later; or the port is FAILED. -/
def State.portResetDone (s : State) (k : Nat) (okay : Bool) : State :=
  let p := s.dport k
  let b : Block := .dport (Fin.ofNat 8 k)
  if p.st ≠ .resetting then s
  else
    let named := match p.record with
      | some r => if r.cause ≤ 4 then [r.line.toNat / 64] else []
      | none => []
    let add := named.filter fun l => p.bad.contains l && !p.poison.contains l
    let s := if okay then s.setDport k { p with st := .ready, poison := (p.poison ++ add).take 64, resetBy := none, retrainAt := some (s.now + 128000) }
      else (s.setDport k { p with st := .failed, resetBy := none }).raise (256 + 16 * k + 8) [0]
    let s := { s with
      noc.window := (s.noc.window.filter fun (w : Block × Option Nat) => w.1 != b) ++ [(b, some (s.now + 1000000))]
      ckr.inReset := s.ckr.inReset.filter fun (x : Block) => x != b
      flt.inFault := s.flt.inFault.filter fun (x : Block) => x != b
      flt.errnLatch := s.flt.errnLatch.filter fun (x : Option Block) => x != some b }
    let s := if okay then s.revalWhere (fun _ c => s.conAt c b) (s.now + 1000000) else s
    let waits := s.ckr.resetWait.filter fun (w : Block × Mb) => w.1 == b
    let s := { s with ckr.resetWait := s.ckr.resetWait.filter fun (w : Block × Mb) => w.1 != b }
    let c := if okay then Code.ok else Code.wrongState
    let s := waits.foldl (fun (t : State) (w : Block × Mb) => t.finish w.2 c) s
    match p.resetBy with
    | some m => s.finish m c
    | none => s

def execPortResetComplete (k : PortId) (ok : Bool) (s : State) : Out := .next (s.portResetDone k.val ok)

/-! ### Self-refresh (R343) -/

/-- The port leaves self-refresh; contracts that wait for it are revalidated. -/
def State.selfrefExit (s : State) (k : Nat) : State :=
  (s.modDport k fun p => { p with st := .ready, failover := false, retrainAt := some (s.now + 128000) }).revalWhere
    (fun _ c => s.conAt c (.dport (Fin.ofNat 8 k))) s.now

/-- SELFREF_WAKE: a request waits at the port. -/
def execSelfrefWake (k : PortId) (s : State) : Out :=
  .next (if (s.dport k.val).st = .selfref ∧ s.portPending k.val ≠ [] then s.selfrefExit k.val else s)

/-- Contracts other than owner 0's on region 15 with a flow on port `k`. -/
def State.portBusy (s : State) (k : Nat) : Bool :=
  s.contracts.any fun e => decide (e.2.st = .admitted ∨ e.2.st = .suspended) &&
    e.2.flows.any (fun f => s.flowAt f (.dport (Fin.ofNat 8 k)) && !(decide (e.2.owner = 0) && decide (f.dst = .region 15)))

/-- REFab to every rank, then self-refresh. -/
def State.selfrefEnter (s : State) (k : Nat) : State :=
  let s := (s.dramIssue k 6 0 0 0 0 0).modDport k fun p => { p with st := .selfref, debt := [], switchUrgent := [] }
  s.suspendWhere (fun _ c => s.conAt c (.dport (Fin.ofNat 8 k))) 4 (dportRouter k) none

/-! ### Registers (R345) -/

/-- Σ RATE / n and Σ BURST of the contracted flows on port `k` (R336). -/
def State.portLoad (s : State) (k : Nat) : Nat × Nat :=
  let fl := (s.contracts.filter fun e => decide (e.2.st = .admitted ∨ e.2.st = .suspended)).flatMap fun e => e.2.flows
  fl.foldl (fun (a : Nat × Nat) (f : Flow) => match f.dst with
    | .region r =>
      let g := s.region r
      let n := (maskList 8 g.ports.toNat).length
      if inMask g.ports.toNat k then (a.1 + f.rate / n, a.2 + f.burst) else a
    | _ => a) (0, 0)

def portCode : PortState → Nat
  | .off => 0
  | .untrained => 1
  | .training => 2
  | .ready => 3
  | .selfref => 4
  | .frozen => 5
  | .resetting => 6
  | .failed => 7

/-- The registers at +0x000 to +0x028 of port `k`. -/
def State.dmcWord (s : State) (k i : Nat) : W32 :=
  let p := s.dport k
  match i with
  | 0 => packW [(0, portCode p.st), (3, b2n p.rate2x),
      (4, b2n ((List.range p.sets).any fun b => p.debtUrgent b || p.rateUrgent b)),
      (5, b2n (decide (p.erased0 ≠ 0xF#4) || decide (p.erased1 ≠ 0xF#4)))]
  | 1 => packW [(0, b2n p.ranks), (1, b2n p.density), (8, p.rate.toNat)]
  | 2 => packW [(0, p.b1x.toNat), (16, p.b2x.toNat)]
  | 3 => packW [(0, p.mr4.toNat), (16, p.urgentCnt.toNat)]
  | 4 =>
    let d := if s.now < p.debtStale then p.debtOld else (p.maxDebt, p.owed)
    packW [(0, d.1), (8, d.2)]
  | 5 => let l := s.portLoad k; packW [(0, l.1), (16, l.2)]
  | 6 => p.ce
  | 7 => packW [(0, p.erased0.toNat), (4, p.erased1.toNat), (16, p.ue.toNat)]
  | 8 => packW [(0, p.freezeCause), (3, b2n p.record.isSome), (8, p.freezeCnt.toNat)]
  | 9 => packW [(0, b2n p.scrubEn), (8, p.lapH.toNat)]
  | 10 => p.lapS
  | _ => 0#32

/-- A DMC register. -/
def State.dmcRead (s : State) (off : Nat) : W32 :=
  if off < 0x80000 then
    let k := off / 0x10000
    let x := off % 0x10000
    let p := s.dport k
    if ¬ s.dportPresent k then 0#32
    else if x < 0x2C then s.dmcWord k (x / 4)
    else if 0x40 ≤ x ∧ x < 0x58 then (tget p.bmap 0#30 ((x - 0x40) / 4)).setWidth 32
    else if 0x80 ≤ x ∧ x < 0xD0 then tget p.deverr 0#32 ((x - 0x80) / 4)
    else if 0x100 ≤ x ∧ x < 0x200 then
      match p.poison[(x - 0x100) / 4]? with
      | some l => packW [(0, l % 2 ^ 30), (31, 1)]
      | none => 0#32
    else 0#32
  else if off < 0x80200 then
    let g := s.region ((off - 0x80000) / 0x20)
    let half (v i : Nat) : W32 := BitVec.ofNat 32 (v / 2 ^ (32 * i))
    if ¬ g.defined then 0#32
    else match (off % 0x20) / 4 with
      | 0 => packW [(0, b2n !g.clearing), (1, g.owner.val), (5, g.ports.toNat), (13, g.gexp - 8),
          (17, match g.enc with | some e => e.val | none => 0), (20, b2n g.enc.isSome), (21, b2n g.clearing)]
      | 2 => half g.base 0
      | 3 => half g.base 1
      | 4 => half g.size 0
      | 5 => half g.size 1
      | 6 => half g.pbase 0
      | 7 => half g.pbase 1
      | _ => 0#32
  else 0#32

/-! ### Regions (R325, R326, R346) -/

/-- Bytes that region `g` takes on each of its ports. -/
def Region.share (g : Region) : Nat := g.size / (maskList 8 g.ports.toNat).length

/-- Is [pb, pb + len) of port `k` free? -/
def State.portFree (s : State) (k pb len : Nat) : Bool :=
  pb + len ≤ (s.dport k).capacity &&
  (List.range 16).all fun r =>
    let g := s.region r
    !g.defined || !inMask g.ports.toNat k || g.pbase + g.share ≤ pb || pb + len ≤ g.pbase

/-- The lowest PBASE, a multiple of 1 MiB, free on every port of a mask. -/
def State.findPbase (s : State) (ports len : Nat) : Option Nat :=
  (firstFree 65536 fun i => (maskList 8 ports).all fun k => s.portFree k (i * 2 ^ 20) len).map (· * 2 ^ 20)

/-- Does [base, base + size) overlap a region? -/
def State.regionOverlap (s : State) (base size : Nat) : Bool :=
  (List.range 16).any fun r =>
    let g := s.region r
    g.defined && decide (base < g.base + g.size) && decide (g.base < base + size)

def dramRegionCreate (m : Mb) (r : Running) (s : State) : Ans :=
  let n := r.u8 0x11
  let ports := r.u8 0x12
  let gexp := r.u8 0x13
  let enc := r.u32 0x14
  let base := r.u64 0x18
  let size := r.u64 0x20
  let o := s.issuer m
  let ks := maskList 8 ports
  let c := ks.length
  let rg := enc % 8
  let plain := bitOf enc 31
  if 14 < n ∨ ports = 0 ∨ gexp < 8 ∨ 16 < gexp ∨ bitsOf enc 3 28 ≠ 0 then no .wrongState s
  else if ¬ ks.all s.dportPresent ∨ (¬ plain ∧ ¬ s.variant.mxe) then no .absentUnit s
  else if base % 2 ^ 20 ≠ 0 ∨ size % 2 ^ 20 ≠ 0 ∨ size = 0 ∨ size % (c * 2 ^ gexp) ≠ 0 ∨ vaultBase < base + size ∨
      (s.region n).defined ∨ s.regionOverlap base size ∨ ¬ ks.all fun k => decide ((s.dport k).st = .ready) then
    no .wrongState s
  else if ¬ plain ∧ (rg = 7 ∨ ¬ (s.range rg).keyed) then no .wrongState s
  else if ¬ plain ∧ (s.range rg).owner ≠ o then no .notOwner s
  else if ¬ plain ∧ (s.range rg).region.isSome then no .wrongState s
  else match s.findPbase ports (size / c) with
    | none => no .refusedResources s
    | some pb =>
      let s := s.setRegion n {
        defined := true, owner := o, base := base, size := size, ports := BitVec.ofNat 8 ports, gexp := gexp, pbase := pb
        enc := if plain then none else some (Fin.ofNat 8 rg)
        clearing := true, creator := some m }
      .accepted (if plain then s else s.modRange rg fun x => { x with region := some n })

def execDramRegionCreate (m : Mb) (s : State) : Out :=
  .next (s.serve m 0x0601 (fun r => r.u8 0x10 = 1) 0x18 (dramRegionCreate m))

/-- REGION_CLEAR_COMPLETE (R326): every line reads zero with valid check bits, and the region is accessible. -/
def State.regionCleared (s : State) (r : Nat) : State :=
  let g := s.region r
  if ¬ g.clearing ∨ (maskList 8 g.ports.toNat).any fun k => decide ((s.dport k).st = .frozen) || !s.portIdle k then s
  else
    let mine (l : Nat) : Bool := g.pbase ≤ 64 * l && 64 * l < g.pbase + g.share
    let s := { s with dram.mem := s.dram.mem.filter fun c => !(g.base ≤ c.1 && c.1 < g.base + g.size) }
    let s := (maskList 8 g.ports.toNat).foldl (fun (t : State) (k : Nat) => t.modDport k fun p => { p with
      bad := p.bad.filter fun l => !mine l
      poison := p.poison.filter fun l => !mine l }) s
    let s := match g.enc with
      | some e => s.modRange e.val fun x => { x with major := [], minor := [], line := [] }
      | none => s
    let s := s.setRegion r { g with clearing := false, creator := none }
    let s := if r = 15 then { s with ovl.made := true } else s
    match g.creator with
    | some m => s.finish m .ok (leBytes 8 g.pbase)
    | none => s

def execRegionClearComplete (r : Fin 16) (s : State) : Out := .next (s.regionCleared r.val)

/-- Is a region in use by a contract or a queue's storage (R346)? -/
def State.regionUsed (s : State) (r : Nat) : Bool :=
  let g := s.region r
  (s.contracts.any fun e => decide (e.2.st ≠ .revoked) && e.2.flows.any fun f => decide (f.dst = .region r)) ||
  s.qcu.queue.any fun e => decide (e.2.kind ≠ .free) && decide (e.2.base < g.base + g.size) &&
    decide (g.base < e.2.base + e.2.size * e.2.bytes)

def dramRegionDelete (m : Mb) (r : Running) (s : State) : Ans :=
  let n := r.u8 0x11
  let g := s.region n
  if 14 < n ∨ ¬ g.defined then no .wrongState s
  else if g.owner ≠ s.issuer m then no .notOwner s
  else if s.regionUsed n then no .wrongState s
  else
    let s := s.setRegion n {}
    let s := match g.enc with
      | some e => s.modRange e.val fun x => { x with region := none }
      | none => s
    ok (match g.creator with
      | some c => s.finish c .wrongState
      | none => s)

def execDramRegionDelete (m : Mb) (s : State) : Out :=
  .next (s.serve m 0x0601 (fun r => r.u8 0x10 = 2) 0x18 (dramRegionDelete m))

/-! ### Port commands (R346) -/

/-- A command that names a present port at 0x10. -/
def State.withPort (s : State) (r : Running) (f : Nat → Ans) : Ans :=
  let k := r.u32 0x10
  if 8 ≤ k then no .wrongState s else if ¬ s.dportPresent k then no .absentUnit s else f k

def execDramQuery (m : Mb) (s : State) : Out :=
  .next (s.serve m 0x0602 anyForm 0x3C fun r s => s.withPort r fun k =>
    ok s ((List.range 11).map fun i => leBytes 4 (s.dmcWord k i).toNat).flatten)

/-- A mask that R327 allows for bank-select bit `j` of a port. -/
def DPort.maskOk (p : DPort) (v : Nat) : Bool :=
  let bits := maskList 32 v
  decide (bits.length ≤ 7) && bits.all fun b => decide (2 ^ (b + 6) < p.capacity) && !(decide (7 ≤ b) && decide (b < 7 + p.nb))

def dramMap (r : Running) (s : State) (k : Nat) : Ans :=
  let v (j : Nat) : Nat := r.u32 (0x14 + 4 * j)
  let p := s.dport k
  if ((List.range 16).any fun g => (s.region g).defined && inMask (s.region g).ports.toNat k) ∨
      ¬ (List.range 6).all fun j => p.maskOk (v j) then no .wrongState s
  else ok (s.setDport k { p with
    bmap := (List.range 6).foldl (fun (b : Tab (BitVec 30)) j => tput b 0#30 j (BitVec.ofNat 30 (v j))) p.bmap })

def execDramMap (m : Mb) (s : State) : Out :=
  .next (s.serve m 0x0603 anyForm 0x10 fun r s => s.withConfig m (s.withPort r (dramMap r s)))

def execDramSelfrefEnter (m : Mb) (s : State) : Out :=
  .next (s.serve m 0x0604 (fun r => r.u32 0x14 = 1) 0x10 fun r s => s.withConfig m (s.withPort r fun k =>
    if (s.dport k).st ≠ .ready ∨ s.portBusy k then no .wrongState s else ok (s.selfrefEnter k)))

def execDramSelfrefExit (m : Mb) (s : State) : Out :=
  .next (s.serve m 0x0604 (fun r => r.u32 0x14 = 2) 0x10 fun r s => s.withConfig m (s.withPort r fun k =>
    if (s.dport k).st ≠ .selfref then no .wrongState s else ok (s.selfrefExit k)))

def dramPortReset (m : Mb) (r : Running) (s : State) (k : Nat) : Ans :=
  let f := r.u32 0x14
  let st := (s.dport k).st
  if 1 < f ∨ ¬ (st = .frozen ∨ (f = 1 ∧ (st = .ready ∨ st = .failed))) then no .wrongState s
  else .accepted (s.dportReset k (some m))

def execDramPortReset (m : Mb) (s : State) : Out :=
  .next (s.serve m 0x0605 anyForm 0x10 fun r s => s.withConfig m (s.withPort r (dramPortReset m r s)))

/-- The 512 bytes of a freeze record (R341). -/
def FreezeRec.bytes (f : FreezeRec) : List Byte :=
  leBytes 8 f.stamp.toNat ++ leBytes 1 f.cause ++ [f.erased, f.refresh] ++ leBytes 1 0 ++ leBytes 4 f.pending.toNat ++
    leBytes 8 f.line.toNat ++ leBytes 8 f.glob.toNat ++ leBytes 16 f.syndrome.toNat ++ padTo 10 f.symerr ++ leBytes 6 0 ++
    padTo 256 (f.commands.map fun c => leBytes 8 c.toNat).flatten ++ padTo 128 (f.queue.map fun c => leBytes 8 c.toNat).flatten ++
    leBytes 64 0

def freezeRecord (m : Mb) (r : Running) (s : State) (k : Nat) : Ans :=
  let o := s.issuer m
  if ¬ s.hasConfig o ∧ ¬ (s.portOwners k).contains o then no .notOwner s
  else match (s.dport k).record with
    | none => no .wrongState s
    | some f => ok (if r.bit 0x14 0 then s.modDport k fun p => { p with record := none } else s) f.bytes

def execFreezeRecord (m : Mb) (s : State) : Out :=
  .next (s.serve m 0x0606 anyForm 0x210 fun r s => s.withPort r (freezeRecord m r s))

end Sys2Proof.Machine
end

