-- ==== Sys2Proof/Machine/Mxe.lean ====
section
/-!
DEFINITION. Machine/Mxe.lean: memory encryption and integrity: requests to protected regions (R353, R356), page
re-encryption (R354), the counter cache (R355), the MXE registers (R360) and the range commands (R361).
-/
namespace Sys2Proof.Machine

/-! ### Requests (R353 to R356) -/

/-- Line `i` of range `r` with a tag that does not verify. -/
def State.mxeSpoil (s : State) (r i : Nat) : State :=
  let maj := s.mxeMajor r i
  let min := tget (s.range r).minor 0#7 i
  s.modRange r fun g =>
    let c := (match tget g.line none i with
      | some l => l.cipher
      | none => mxePad g.key r i maj min)
    { g with line := tput g.line none i (some { cipher := c, tag := ~~~(mxeTag g.key r i maj min c) }) }

/-- A request that waits at a port of a protected region: the request, its region, range, port and port address. -/
def State.mxeWaiting (s : State) (id : Nat) (op : NocOp) : Option (Req × Region × Nat × Nat × Nat) :=
  match s.dramWaiting id with
  | some (r, g, k, pa) => match (s.region g).enc with
    | some e => if r.op = op then some (r, s.region g, e.val, k, pa) else none
    | none => none
  | none => none

/-- A request as the MXE serves it with what it finds for the first line: a tag that fails, a counter block or tree node
that fails (nothing written), or an uncorrectable metadata line, which freezes the port (R356). -/
def State.mxeServe (s : State) (id : Nat) (r : Req) (g : Region) (e k pa : Nat) (f : MxeFinding) : State :=
  match s.dramCheck r.who r.owner r.addr r.len with
  | .error _ => s.dramServe id r
  | .ok _ =>
    match f with
    | .ok => s.dramServe id r
    | .tagFail => (s.mxeSpoil e ((r.addr - g.base) / 64)).dramServe id r
    | .treeFail => (s.mxeAlarm e r.addr true).answer id r .integrity (if r.op = .read then leBytes r.len 0 else [])
    | .memError => s.portFreeze k 4 pa 0#128

/-- MXE_WRITE: waits while it would start a 17th re-encryption, which FSRC 410 counts (R354). -/
def State.mxeWrite (s : State) (id : Nat) (f : MxeFinding) : State :=
  match s.mxeWaiting id .write with
  | none => s
  | some (r, g, e, k, pa) =>
    if ¬ s.requestTurn k id r then s
    else if (spanOf 64 (r.addr - g.base) r.len).any fun i => s.mxeMustWait e i then s.raise 410 []
    else s.mxeServe id r g e k pa f

def execMxeWrite (id : Nat) (f : MxeFinding) (s : State) : Out := .next (s.mxeWrite id f)

/-- MXE_READ. -/
def State.mxeRead (s : State) (id : Nat) (f : MxeFinding) : State :=
  match s.mxeWaiting id .read with
  | none => s
  | some (r, g, e, k, pa) => if s.requestTurn k id r then s.mxeServe id r g e k pa f else s

def execMxeRead (id : Nat) (f : MxeFinding) (s : State) : Out := .next (s.mxeRead id f)

/-- PAGE_REENCRYPT (R354): the lines of the page not yet done move to the new major counter with minor 0. A line whose tag
fails is re-enciphered with a tag that still fails. -/
def State.pageReencrypt (s : State) (r page : Nat) : State :=
  match s.mxe.reenc.find? fun e => e.range.val = r && e.page = page with
  | none => s
  | some e =>
    let maj := tget (s.range r).major 0#64 page
    let todo := (List.range 64).filter fun j => !inMask e.done.toNat j && (tget (s.range r).line none (64 * page + j)).isSome
    let s' := todo.foldl (fun (t : State) (j : Nat) =>
      let i := 64 * page + j
      let u := t.mxeStore r i (s.mxePlain r i) maj 0#7
      if s.mxeTagOk r i then u else u.mxeSpoil r i) (({ s with mxe.reenc := s.mxe.reenc.erase e } : State).mxeDone r page (~~~e.done))
    (List.range 64).foldl (fun (t : State) (j : Nat) =>
      if inMask e.done.toNat j then t else t.modRange r fun g => { g with minor := tput g.minor 0#7 (64 * page + j) 0#7 }) s'

def execPageReencrypt (r : Fin 8) (page : Nat) (s : State) : Out := .next (s.pageReencrypt r.val page)

/-! ### The counter cache (R355) -/

def execCounterCacheWriteback (line : Fin 8192) (s : State) : Out :=
  .next (match tget s.mxe.cache none line.val with
    | some (r, p, true) => { s with mxe.cache := tput s.mxe.cache none line.val (some (r, p, false)) }
    | _ => s)

/-- The range becomes FAILED. -/
def State.rangeFail (s : State) (r : Nat) : State := (s.modRange r fun g => { g with failed := true }).raise (400 + r) [0]

/-- COUNTER_CACHE_ERROR: lines 0 to 511 are the pinned root levels, 64 to a range; the others hold what the cache table
lists. -/
def State.cacheError (s : State) (line : Nat) (r : Fin 8) : Finding → State
  | .clean => s
  | .corrected => s.raise 408 []
  | .uncorrectable =>
    match tget s.mxe.cache none line with
    | some (q, _, true) => s.rangeFail q.val
    | some (_, _, false) => { s with mxe.cache := tput s.mxe.cache none line none }.raise 409 [0]
    | none => if line < 512 then s.rangeFail r.val else s.raise 409 [0]

def execCounterCacheError (line : Fin 8192) (r : Fin 8) (f : Finding) (s : State) : Out := .next (s.cacheError line.val r f)

/-- Every key is zeroised (R349, R479): requests to the regions of zeroised ranges receive INTEGRITY. -/
def State.mxeZeroise (s : State) : State :=
  { s with
    mxe.keyless := true
    mxe.range := s.mxe.range.map fun (e : Nat × MRange) => (e.1, { e.2 with keyed := false, key := 0#256 }) }

/-! ### Registers (R360) -/

/-- Tree levels in DRAM of a region of `size` bytes (R351): nodes of each level until at most 64. -/
def treeLevels : Nat → Nat → Nat
  | 0, _ => 0
  | fuel + 1, n => if n ≤ 64 then 0 else 1 + treeLevels fuel (ceilDiv n 8)

/-- L of a protected region (R351). -/
def mxeL (size : Nat) : Nat := treeLevels 16 (ceilDiv (mxeData size / 4096) 8)

def State.mxeStat (s : State) : W32 :=
  packW [(0, maskOf ((List.range 8).map fun r => (s.range r).keyed)), (8, maskOf ((List.range 8).map fun r => (s.range r).failed)),
    (16, b2n s.mxe.keyless), (17, min 16 s.mxe.reenc.length)]

/-- The four registers of range `r`. -/
def State.rangeWord (s : State) (r i : Nat) : W32 :=
  let g := s.range r
  let size := match g.region with
    | some n => (s.region n).size
    | none => 0
  match i with
  | 0 => packW [(0, b2n g.keyed), (1, b2n g.region.isSome), (2, g.region.getD 0), (6, g.owner.val), (10, b2n g.failed),
      (11, b2n g.imported), (12, if g.region.isSome then mxeL size else 0)]
  | 1 => packW [(0, mxeData size / 4096)]
  | 2 => g.reenc
  | _ => g.fail

/-- An MXE register; the unit is absent on variants C and S. -/
def State.mxeReg (s : State) (off : Nat) : W32 :=
  if ¬ s.variant.mxe then 0#32
  else if off = 0 then s.mxeStat
  else if off = 4 then s.mxe.alarm
  else if off = 8 then s.mxe.last.setWidth 32
  else if off = 0xC then (s.mxe.last >>> 32).setWidth 32
  else if off = 0x10 then s.mxe.hit
  else if off = 0x14 then s.mxe.miss
  else if 0x20 ≤ off ∧ off < 0x40 then (s.dport ((off - 0x20) / 4)).tm.setWidth 32
  else if 0x100 ≤ off ∧ off < 0x180 then s.rangeWord ((off - 0x100) / 0x10) (off % 0x10 / 4)
  else 0#32

/-! ### Commands (R361) -/

/-- A range command on a variant with the unit. -/
def State.withMxe (s : State) (f : Ans) : Ans := if s.variant.mxe then f else no .absentUnit s

def mxeRangeCreate (m : Mb) (r : Running) (s : State) : Ans :=
  let n := r.u8 0x10
  let src := r.u8 0x11
  if 6 < n ∨ 1 < src ∨ r.fld 0x12 6 ≠ 0 ∨ (src = 0 ∧ r.fld 0x18 40 ≠ 0) ∨ (s.range n).keyed ∨
      (src = 1 ∧ s.sec.lc = .blank) then no .wrongState s
  else
    let keep (s : State) (k : BitVec 256) (imported : Bool) : Ans :=
      ok { s.setRange n { keyed := true, key := k, owner := s.issuer m, imported := imported
                          reenc := (s.range n).reenc, fail := (s.range n).fail } with mxe.keyless := false }
    if src = 0 then let f := s.fresh 256; keep f.2 f.1 false
    else match s.sec.devKey with
      | none => no .authFailed s
      | some dk => match Config.kwUnwrap dk (r.bytes 0x18 40) with
        | some k => keep s (BitVec.ofNat 256 (leNat k)) true
        | none => no .authFailed s

def execMxeRangeCreate (m : Mb) (s : State) : Out :=
  .next (s.serve m 0x0620 anyForm 0x10 fun r s => s.withMxe (mxeRangeCreate m r s))

/-- A range that a tamper response zeroised keeps its owner and can still be deleted once no region is bound (R349). -/
def mxeRangeDelete (m : Mb) (r : Running) (s : State) : Ans :=
  let n := r.u8 0x10
  let g := s.range n
  if 7 < n then no .wrongState s
  else if g.owner ≠ s.issuer m then no .notOwner s
  else if g.region.isSome ∨ n = 7 then no .wrongState s
  else ok (s.setRange n { reenc := g.reenc, fail := g.fail })

def execMxeRangeDelete (m : Mb) (s : State) : Out :=
  .next (s.serve m 0x0621 anyForm 0x10 fun r s => s.withMxe (mxeRangeDelete m r s))

def execMxeQuery (m : Mb) (s : State) : Out :=
  .next (s.serve m 0x0622 anyForm 0x28 fun r s => s.withMxe (
    if 7 < r.u8 0x10 then no .wrongState s
    else ok s (([s.mxeStat, s.mxe.alarm] ++ (List.range 4).map (s.rangeWord (r.u8 0x10))).map fun w => leBytes 4 w.toNat).flatten))

end Sys2Proof.Machine
end

