-- ==== Sys2Proof/Machine/Noc.lean ====
section
/-!
DEFINITION. Machine/Noc.lean: the mesh (R274 to R290): routes, links, epochs, router checks; the contracts: bounds,
admission, revalidation and their commands (R291 to R297, R299, R387); the NOC registers (R298).
-/
namespace Sys2Proof.Machine

/-! ### Routes (R274, R282, R285) -/

/-- The neighbour of router `n` at port 0 N, 1 E, 2 S, 3 W. -/
def neighbour (n p : Nat) : Option Nat :=
  if p = 0 then (if n < 126 then some (n + 14) else none)
  else if p = 1 then (if n % 14 < 13 then some (n + 1) else none)
  else if p = 2 then (if 14 ≤ n then some (n - 14) else none)
  else if 0 < n % 14 then some (n - 1) else none

/-- Dimension-order routing: X first, then Y; 4 is the NI. -/
def xyPort (n dst : Nat) : Fin 5 :=
  if n % 14 < dst % 14 then 1 else if dst % 14 < n % 14 then 3
  else if n / 14 < dst / 14 then 0 else if dst / 14 < n / 14 then 2 else 4

/-- The routing table of an epoch. -/
def State.table (s : State) (epoch : Bool) : Tab (Option (Option (Fin 5))) := if epoch then s.noc.table1 else s.noc.table0

/-- The output port of router `n` toward `dst` in an epoch. -/
def State.routePort (s : State) (epoch : Bool) (n dst : Nat) : Option (Fin 5) :=
  match tget (s.table epoch) none (n * 140 + dst) with
  | some p => p
  | none => some (xyPort n dst)

/-- Is the link at port `p` of router `n` out of use? A fenced link carries traffic until its detour is installed. -/
def State.linkDead (s : State) (n p : Nat) : Bool := inMask (s.rtr n).fence.toNat p && !s.noc.changing

/-- The routers from `n` to `dst`, both included; none where no route reaches it. -/
def State.pathFrom (s : State) (epoch : Bool) (dst : Nat) : Nat → Nat → Option (List Nat)
  | 0, _ => none
  | fuel + 1, n =>
    if n = dst then some [n]
    else match s.routePort epoch n dst with
      | none => none
      | some p => if s.linkDead n p.val then none else match neighbour n p.val with
        | some m => (s.pathFrom epoch dst fuel m).map (n :: ·)
        | none => none

/-- The present path between two routers. -/
def State.path (s : State) (src dst : Nat) : Option (List Nat) := s.pathFrom s.noc.epoch dst 140 src

/-- The links of a path: (from, to), then the final link into the destination NI, written (router, 140). -/
def pathLinks : List Nat → List (Nat × Nat)
  | [] => []
  | [n] => [(n, 140)]
  | n :: m :: l => (n, m) :: pathLinks (m :: l)

/-! ### Endpoints -/

/-- Is the endpoint of router `n` absent from the variant (R6)? -/
def State.routerAbsent (s : State) (n : Nat) : Bool :=
  match routerBlock n with
  | some b => !s.blockPresent b
  | none => false

/-- NI of NOC_RTR_STAT_n. -/
def State.niCode (s : State) (n : Nat) : Nat :=
  match (s.rtr n).ni with
  | some v => v
  | none => if s.routerAbsent n then 4 else 1

/-- PROXY of NOC_RTR_STAT_n. -/
def State.proxyCode (s : State) (n : Nat) : Nat :=
  match (s.rtr n).proxy with
  | some v => v
  | none => if s.routerAbsent n then 1 else 0

/-! ### Bounds (R292 to R294, R387) -/

/-- The kit routers of a kit set. -/
def kitRouters (kits : BitVec 16) : List Nat := (maskList 16 kits.toNat).map kitRouter

def Flow.srcs (f : Flow) : List Nat := match f.src with | some n => [n] | none => kitRouters f.kits

/-- The ring port that reaches peer `q`: the one with the lower path latency, ties to port A (R382). -/
def State.peerPort (s : State) (q : Nat) : Option (Fin 2) :=
  let a := tget (s.ring 0).path {} q
  let b := tget (s.ring 1).path {} q
  if a.reach then (if b.reach ∧ b.h < a.h then some 1 else some 0) else if b.reach then some 1 else none

def portRouter (p : Nat) : Nat := if p = 0 then 0 else 13

def State.flowDsts (s : State) (f : Flow) : List Nat :=
  match f.dst with
  | .ni n => [n]
  | .region r => (maskList 8 (s.region r).ports.toNat).map dportRouter
  | .peer q => match s.peerPort q with
    | some p => [portRouter p.val]
    | none => []

/-- Flits of the packets of one direction (R293). -/
def Flow.flits (f : Flow) (resp : Bool) : Nat := if f.write = resp then 1 else 1 + f.max / 64

/-- n_b and P. -/
def Flow.nb (f : Flow) : Nat := ceilDiv f.burst f.max
def Flow.pbytes (f : Flow) (resp : Bool) : Nat := 64 * f.flits resp

/-- The paths of a flow in one direction, by member of its sources and then by destination port. -/
def State.flowPaths (s : State) (f : Flow) (resp : Bool) : List (List (Option (List Nat))) :=
  f.srcs.map fun a => (s.flowDsts f).map fun b => if resp then s.path b a else s.path a b

/-- Does a path cross a link? -/
def crosses (l : Nat × Nat) : Option (List Nat) → Bool
  | some p => (pathLinks p).contains l
  | none => false

/-- The burst n_b × P that a flow puts on a link in one direction. -/
def State.flowBurst (s : State) (f : Flow) (resp : Bool) (l : Nat × Nat) : Nat :=
  if (s.flowPaths f resp).any fun ps => ps.any (crosses l) then f.nb * f.pbytes resp else 0

/-- The load RATE × P / MAX in MB/s that a flow puts on a link in one direction: the members of a kit set share one
bucket, and a region's rate is divided among its ports. -/
def State.flowLoad (s : State) (f : Flow) (resp : Bool) (l : Nat × Nat) : Rat :=
  let worst := ((s.flowPaths f resp).map fun ps => (ps.filter (crosses l)).length).foldl max 0
  (worst : Rat) * f.rate * f.pbytes resp / (f.max * max 1 (s.flowDsts f).length)

/-- Flows that hold admission: those of ADMITTED and SUSPENDED contracts. -/
def State.heldFlows (s : State) : List Flow :=
  (s.contracts.filter fun (e : Nat × Contract) => decide (e.2.st = .admitted ∨ e.2.st = .suspended)).flatMap
    fun (e : Nat × Contract) => e.2.flows

/-- Σ n_b × P of flows on a link. -/
def State.linkBurst (s : State) (fl : List Flow) (l : Nat × Nat) : Nat :=
  (fl.map fun f => s.flowBurst f false l + s.flowBurst f true l).foldl (· + ·) 0

/-- Σ of loads of flows on a link. -/
def State.linkLoad (s : State) (fl : List Flow) (l : Nat × Nat) : Rat :=
  sumRat (fl.map fun f => s.flowLoad f false l + s.flowLoad f true l)

/-- t_d of R293 in ps for one path beside other flows. -/
def State.pathTime (s : State) (others : List Flow) (f : Flow) (resp : Bool) (p : List Nat) : Nat :=
  let i := ((pathLinks p).map (s.linkBurst others)).foldl (· + ·) 0
  8000 + p.length * 5000 + (f.flits resp - 1) * 625 + ((f.nb - 1) * f.pbytes resp + i) * 625 / 64

/-- ns figures of a ring lane rate code in Gb/s. -/
def ringGbps (rate : Nat) : Nat := [2, 4, 8, 16, 25, 32].getD rate 2

/-- S of a flow to a ring peer (R387) in ps, with the S that the peer's Atmon grants. -/
def State.ringService (s : State) (others : List Flow) (f : Flow) (q : Nat) : Option Nat :=
  match s.peerPort q with
  | none => none
  | some p =>
    let r := s.ring p.val
    let w := tget r.path {} q
    let h := w.h.toNat * 1000 / 256
    let g := ringGbps r.rate
    let cell := 130000 / g
    let more := (others.filter fun o => match o.dst with | .peer _ => true | _ => false)
    let i (resp : Bool) : Nat := (more.map fun o => o.nb * o.pbytes resp).foldl (· + ·) 0
    let move (resp : Bool) : Nat := (f.nb * f.pbytes resp + i resp) * 130000 / (64 * g)
    some (2 * h + w.hops.toNat * (move false + move true + 16 * cell) + 4 * h + f.peerS)

/-- The metadata bound T_m of R359 at a port. -/
def State.worstOf (s : State) (ports : List Nat) (f : DPort → Nat) : Nat := (ports.map fun k => f (s.dport k)).foldl max 0

/-- S in ps (R293, R335, R359). -/
def State.service (s : State) (others : List Flow) (f : Flow) : Option Nat :=
  match f.dst with
  | .ni n =>
    if 5 ≤ n ∧ n ≤ 8 then some 8000
    else if n = 132 then some 16000
    else match routerBlock n with
      | some (.kit _) => some 16000
      | some (.fport _) => some (f.sdecl * 1000)
      | _ => none
  | .region r =>
    let g := s.region r
    let ports := maskList 8 g.ports.toNat
    if g.enc.isSome then some ((max (s.worstOf ports fun p => p.b2x.toNat) (s.worstOf ports fun p => p.tm.toNat) + 24) * 1000)
    else some (s.worstOf ports (fun p => p.b2x.toNat) * 1000)
  | .peer q => s.ringService others f q

/-- The figures of a flow beside others: D in ns, then t_req, S and t_resp in ps of the path with the largest sum. None
where a path or S is missing. -/
def State.flowBound (s : State) (others : List Flow) (f : Flow) : Option (Nat × Nat × Nat × Nat) :=
  match s.service others f with
  | none => none
  | some sv =>
    let pairs := f.srcs.flatMap fun a => (s.flowDsts f).map fun b => (s.path a b, s.path b a)
    let times := pairs.filterMap fun (x : Option (List Nat) × Option (List Nat)) => match x.1, x.2 with
      | some q, some r => some (s.pathTime others f false q, s.pathTime others f true r)
      | _, _ => none
    if pairs = [] ∨ times.length ≠ pairs.length then none
    else
      let w := times.foldl (fun (a x : Nat × Nat) => if a.1 + a.2 < x.1 + x.2 then x else a) (0, 0)
      some (ceilDiv (w.1 + sv + w.2) 1000, w.1, sv, w.2)

/-! ### Admission (R294, R336, R358, R387) -/

/-- Rate limit of an endpoint's link in MB/s: fabric ports and kits at 51.2 GB/s, others at the link's own rate. -/
def endpointRate (n : Nat) : Nat :=
  match routerBlock n with
  | some (.fport _) => 51200
  | some (.kit _) => 51200
  | _ => 102400

/-- Data rates that flows bring into and take out of the NI of router `n`, in MB/s. -/
def State.endpointLoad (s : State) (fl : List Flow) (n : Nat) : Rat × Rat :=
  fl.foldl (fun (a : Rat × Rat) (f : Flow) =>
    let ds := s.flowDsts f
    let atSrc : Rat := if f.srcs.contains n then f.rate else 0
    let atDst : Rat := if ds.contains n then (f.rate : Rat) / max 1 ds.length else 0
    if f.write then (a.1 + atDst, a.2 + atSrc) else (a.1 + atSrc, a.2 + atDst)) (0, 0)

/-- The DRAM conditions of R336 and R358 at port `k` for a set of flows. -/
def State.portAdmits (s : State) (fl : List Flow) (k : Nat) : Bool :=
  let on := fl.filter fun f => match f.dst with | .region r => inMask (s.region r).ports.toNat k | _ => false
  let n (f : Flow) : Nat := max 1 (s.flowDsts f).length
  let m (f : Flow) : Nat := match f.dst with
    | .region r => if (s.region r).enc.isSome then 2 * (2 + mxeL (s.region r).size) else 0
    | _ => 0
  (s.dport k).st = .ready && decide (sumRat (on.map fun f => (f.rate : Rat) / n f) ≤ 24000) &&
    decide ((on.map (·.burst)).foldl (· + ·) 0 ≤ 4096) &&
    decide (sumRat (on.map fun f => (f.rate : Rat) / n f * 64 * m f / f.max) ≤ 2000) &&
    decide ((on.map fun f => f.nb * m f * 64).foldl (· + ·) 0 ≤ 2048)

/-- Flows into a protected region must be READ (R357). -/
def State.protectedWrite (s : State) (f : Flow) : Bool :=
  match f.dst with
  | .region r => f.write && (s.region r).enc.isSome
  | _ => false

/-- The ring's ledger for the peers' flows (R387): rate and burst on the ring port. -/
def State.ringAdmits (s : State) (fl : List Flow) : Nat :=
  let fs : List Flow := fl.filter fun (f : Flow) => match f.dst with | .peer _ => true | _ => false
  let rate : Nat := (fs.map fun (f : Flow) => f.rate).foldl (· + ·) 0
  let burst : Nat := (fs.map fun (f : Flow) => f.nb * max (f.pbytes false) (f.pbytes true)).foldl (· + ·) 0
  let cap : Nat := (fs.map fun (f : Flow) => match f.dst with
    | .peer q => match s.peerPort q with
      | some p => ringGbps (s.ring p.val).rate * 64000 / 130 * 3 / 4
      | none => 0
    | _ => 0).foldl min 1000000
  if fs = [] then 0 else if cap < rate then 1 else if 32768 < burst then 2 else 0

/-- The outcome of admission: REASON of R299 and the figures of each flow. -/
structure Admission where
  reason : Nat
  figs : List (Nat × Nat × Nat × Nat)

/-- Every element of a list with the rest of it. -/
def splits {α : Type} : List α → List (α × List α)
  | [] => []
  | a :: l => (a, l) :: (splits l).map fun (x : α × List α) => (x.1, a :: x.2)

/-- R294 and R336 for new flows beside those that hold admission. -/
def State.admission (s : State) (old new : List Flow) : Admission :=
  let all := old ++ new
  let links := ((new.flatMap fun f => (s.flowPaths f false ++ s.flowPaths f true).flatten.flatMap fun
    | some p => pathLinks p
    | none => []).eraseDups)
  let ends := (new.flatMap fun f => f.srcs ++ s.flowDsts f).eraseDups
  let ports := (new.flatMap fun f => match f.dst with
    | .region r => maskList 8 (s.region r).ports.toNat
    | _ => []).eraseDups
  let figs := (splits new).map fun (x : Flow × List Flow) => s.flowBound (old ++ x.2) x.1
  let shown := figs.map fun (x : Option (Nat × Nat × Nat × Nat)) => x.getD (0, 0, 0, 0)
  let kept := (splits old).all fun (x : Flow × List Flow) => match s.flowBound (x.2 ++ new) x.1 with
    | some b => decide (b.1 ≤ x.1.bound)
    | none => true
  let wants := (new.zip figs).all fun (x : Flow × Option (Nat × Nat × Nat × Nat)) => match x.2 with
    | some b => decide (x.1.want = 0 ∨ b.1 ≤ x.1.want)
    | none => false
  let ring := s.ringAdmits all
  let reason :=
    if links.any fun l => decide ((76800 : Rat) < s.linkLoad all l) then 1
    else if ring = 1 then 1
    else if links.any fun l => decide (32768 < s.linkBurst all l) then 2
    else if ring = 2 then 2
    else if ends.any fun n => let e := s.endpointLoad all n; decide ((endpointRate n : Rat) < e.1 ∨ (endpointRate n : Rat) < e.2) then 3
    else if new.any s.protectedWrite || ports.any fun k => !s.portAdmits all k then 4
    else if !wants then 6
    else if !kept then 7
    else 0
  { reason := reason, figs := shown }

/-- The new flows to ring peers with the S that each peer's Atmon grants at its end (R387), which is free. -/
def State.peerGrants (s : State) (fl : List Flow) : List Flow × State :=
  fl.foldl (fun (a : List Flow × State) (f : Flow) => match f.dst with
    | .peer _ => let g := a.2.fresh 32; (a.1 ++ [{ f with peerS := g.1.toNat }], g.2)
    | _ => (a.1 ++ [f], a.2)) ([], s)

/-- Admission of a task set into group `n` (R260, R265): the contexts become ADMITTED with their RESERVE, for which the ready store
has the places. None where the test fails. -/
def State.admitTasks (s : State) (n : Nat) (cs : List Nat) : Option State :=
  if cs = [] then some s
  else
    let s' := cs.foldl (fun (t : State) (c : Nat) => t.modCtx c fun x =>
      { x with admitted := true, reserve := ceilDiv x.deadline.toNat (max 1 x.period.toNat) + 1 }) s
    let loose := (s'.tdu.ready.filter fun t => !(s'.ctx t.ctx).admitted).length
    if s'.reserved + loose ≤ 65536 ∧ s'.grpFits n then some s' else none

/-- What demotion, closing and revocation give back (R296): the admission of the task set. -/
def State.releaseTasks (s : State) (cs : List Nat) : State :=
  cs.foldl (fun (t : State) (c : Nat) => t.modCtx c fun x => { x with admitted := false, reserve := 0 }) s

/-! ### CONTRACT_OPEN, CONTRACT_CLOSE, CONTRACT_QUERY (R295, R299) -/

/-- Entries that a contract takes in the contract table (R297). -/
def Contract.entries (k : Contract) : Nat := max 1 k.flows.length

/-- Is entry `e` of the contract table in use? -/
def State.entryUsed (s : State) (e : Nat) : Bool := s.contracts.any fun c => c.1 ≤ e && e < c.1 + c.2.entries

/-- The lowest run of `n` free entries. -/
def State.entryRun (s : State) (n : Nat) : Option Nat :=
  firstFree (16384 - n + 1) fun b => (List.range n).all fun i => !s.entryUsed (b + i)

/-- Sources that share an NI. -/
def Flow.meets (f g : Flow) : Bool := f.srcs.any fun n => g.srcs.contains n

/-- Is a flow number already bound at a source, or named twice (R291)? -/
def State.flowBusy (s : State) (new : List Flow) : Bool :=
  let held := (s.contracts.filter fun (e : Nat × Contract) => decide (e.2.st ≠ .revoked)).flatMap fun (e : Nat × Contract) => e.2.flows
  (splits new).any fun (x : Flow × List Flow) => (held ++ x.2).any fun g => g.num == x.1.num && g.meets x.1

/-- A flow descriptor of CONTRACT_OPEN. -/
def Running.flow (r : Running) (s : State) (i : Nat) : Flow :=
  let o := 0x18 + 32 * i
  let grp := r.u8 0x16
  { src := if r.u8 o = 1 then none else some (r.u8 (o + 1))
    kits := if r.u8 o = 1 then s.grpKits grp else 0#16
    dst := if r.u8 (o + 2) = 0 then .ni (r.u8 (o + 3)) else if r.u8 (o + 2) = 1 then .region (r.u8 (o + 3)) else .peer (r.u8 (o + 3))
    num := r.u8 (o + 4)
    write := r.u8 (o + 5) = 1
    max := r.u16 (o + 6)
    rate := r.u32 (o + 8)
    burst := r.u32 (o + 0xC)
    want := r.u32 (o + 0x10)
    sdecl := r.u32 (o + 0x14)
    bound := 0
    tokens := r.u32 (o + 0xC) * 1000
    tokenTime := s.now }

/-- Field ranges of a descriptor (R299). -/
def Running.flowOk (r : Running) (s : State) (i : Nat) : Bool :=
  let o := 0x18 + 32 * i
  let f := r.flow s i
  r.u8 o ≤ 1 && r.u8 (o + 2) ≤ 2 && r.u8 (o + 5) ≤ 1 && 1 ≤ f.num && f.num ≤ 15 && 64 ≤ f.max && f.max ≤ 512 && f.max % 64 = 0 &&
    1 ≤ f.rate && f.max ≤ f.burst &&
    (match f.dst with | .ni n => n < 140 | .region n => n < 16 | .peer n => n < 16) &&
    (match f.dst with
      | .ni n => (match routerBlock n with
        | some (.fport sec) => 1 ≤ f.sdecl && f.sdecl ≤ Config.portLimit ((sectorQuads sec.val).map s.quadFrames)
        | _ => f.sdecl = 0)
      | _ => f.sdecl = 0)

/-- What R291 says of a source: WRONG_STATE where it can carry no contracted request, NOT_OWNER where it is another owner's,
ABSENT_UNIT. -/
def State.sourceCheck (s : State) (o : Owner) (grp : Nat) (f : Flow) : Option Code :=
  match f.src with
  | none => if 16 ≤ grp ∨ ¬ (s.grp grp).defined then some .wrongState else if (s.grp grp).owner ≠ o then some .notOwner else none
  | some n =>
    if 140 ≤ n then some .wrongState
    else if n = 134 then (if f.dst = .region 15 then none else some .wrongState)
    else if s.routerAbsent n then some .absentUnit
    else match routerBlock n with
      | some (.fport sec) => if s.sectorOwner sec.val = o then none else some .notOwner
      | some (.kit k) => if (s.kitAt k.val).owner = o then none else some .notOwner
      | some (.lane k) => if k = 2 ∨ k = 3 then (if s.ptuOwner (k.val - 2) = o then none else some .notOwner) else some .wrongState
      | some (.ring _) => if o = 0 then none else some .notOwner
      | _ => some .wrongState

/-- What R291 and R293 say of a destination. -/
def State.destCheck (s : State) (o : Owner) (f : Flow) : Option Code :=
  match f.dst with
  | .ni n =>
    if s.routerAbsent n then some .absentUnit
    else if (5 ≤ n ∧ n ≤ 8) ∨ n = 132 then none
    else match routerBlock n with
      | some (.fport _) => none
      | some (.kit _) => none
      | _ => some .wrongState
  | .region r =>
    let g := s.region r
    if ¬ g.defined ∨ g.clearing then some .wrongState
    else if r = 15 then (if f.src = some 134 then none else some .wrongState)
    else if g.owner ≠ o then some .notOwner
    else if (maskList 8 g.ports.toNat).any fun k => decide ((s.dport k).st = .failed) then some .wrongState
    else none
  | .peer q =>
    if ¬ s.ringPresent 0 then some .absentUnit
    else if (s.peerPort q).isNone ∨ q = (s.ring 0).ringId.toNat then some .wrongState
    else none

/-- Does a flow end in DRAIN, at a powered-down endpoint, or in a block inside its window (R36, R290)? -/
def State.flowDrain (s : State) (f : Flow) : Bool := (f.srcs ++ s.flowDsts f).any fun n => s.niCode n ≠ 1 && s.niCode n ≠ 4
def State.flowWindow (s : State) (f : Flow) : Bool := allBlocks.any fun b => s.inWindow b && s.flowAt f b

/-- Is a kit of an engine group inside its window (R36)? -/
def State.groupWindow (s : State) (n : Nat) : Bool :=
  (maskList 16 (s.grpKits n).toNat).any fun k => s.inWindow (.kit (Fin.ofNat 16 k))

/-- The first refusal of a list of checks. -/
def firstCode : List (Option Code) → Option Code
  | [] => none
  | some c :: _ => some c
  | none :: l => firstCode l

/-- A context of the task set. -/
def State.taskCheck (s : State) (o : Owner) (grp : Nat) (fl : List Flow) (c : Nat) : Option Code :=
  let x := s.ctx c
  if c = 0 ∨ 16384 ≤ c ∨ ¬ x.valid then some .wrongState
  else if x.owner ≠ o then some .notOwner
  else if x.group ≠ grp ∨ x.admitted then some .wrongState
  else if x.argSize ≠ 0 ∧ ¬ fl.any (fun f => f.num = x.pflow && f.src.isNone && !f.write) then some .refusedBound
  else none

/-- Response payload: CONTRACT, REASON, and for each flow BOUND, T_REQ, S, T_RESP. -/
def openPayload (n reason : Nat) (figs : List (Nat × Nat × Nat × Nat)) : List Byte :=
  leBytes 4 n ++ leBytes 4 reason ++ figs.flatMap fun (f : Nat × Nat × Nat × Nat) =>
    leBytes 4 f.1 ++ leBytes 4 f.2.1 ++ leBytes 4 f.2.2.1 ++ leBytes 4 f.2.2.2

def contractOpen (m : Mb) (r : Running) (s : State) : Ans :=
  let o := s.issuer m
  let nf := r.u8 0x14
  let nc := r.u8 0x15
  let grp := r.u8 0x16
  let nq := r.u32 0x10
  let q := s.queue (bitsOf nq 0 18)
  let fl := (List.range nf).map (r.flow s)
  let cs := (List.range nc).map fun i => r.u32 (0x18 + 32 * nf + 4 * i)
  let rejects (c : Code) (n : Nat) (figs : List (Nat × Nat × Nat × Nat)) : Ans := .reply c 0 (openPayload 0 n figs) s
  if s.ckr.ref = 0 ∨ 4 < nf ∨ 32 < nc ∨ ¬ (List.range nf).all (r.flowOk s) ∨ bitsOf nq 18 13 ≠ 0 then no .wrongState s
  else if ¬ bitOf nq 31 ∧ q.kind = .free then no .wrongState s
  else if ¬ bitOf nq 31 ∧ q.owner ≠ o then no .notOwner s
  else if ¬ bitOf nq 31 ∧ q.kind ≠ .message then no .wrongState s
  else if nc ≠ 0 ∧ (16 ≤ grp ∨ ¬ (s.grp grp).defined) then no .wrongState s
  else if nc ≠ 0 ∧ (s.grp grp).owner ≠ o then no .notOwner s
  else match firstCode (fl.map (s.sourceCheck o grp) ++ fl.map (s.destCheck o)) with
    | some c => no c s
    | none =>
      match firstCode (cs.map (s.taskCheck o grp fl)) with
      | some .refusedBound => rejects .refusedBound 5 []
      | some c => no c s
      | none =>
        if ¬ noDup cs ∨ fl.any s.flowDrain then no .wrongState s
        else if fl.any s.flowWindow ∨ (nc ≠ 0 ∧ s.groupWindow grp) then .reply .busy 7 [] s
        else if s.flowBusy fl then rejects .refusedResources 8 []
        else
          let g := s.peerGrants fl
          let a := s.admission s.heldFlows g.1
          if a.reason ≠ 0 then rejects (if a.reason ≤ 4 then .refusedResources else .refusedBound) a.reason a.figs
          else match s.entryRun (max 1 nf) with
            | none => rejects .refusedResources 9 a.figs
            | some n =>
              let k : Contract := {
                owner := o
                st := .admitted
                notify := if bitOf nq 31 then none else some (bitsOf nq 0 18)
                group := grp
                flows := (g.1.zip a.figs).map fun (x : Flow × Nat × Nat × Nat × Nat) => { x.1 with bound := max x.2.1 x.1.want }
                ctxs := cs }
              match (g.2.setCon n (some k)).admitTasks grp cs with
              | none => rejects .refusedBound 5 a.figs
              | some s' => ok s' (openPayload n 0 ((k.flows.zip a.figs).map fun (x : Flow × Nat × Nat × Nat × Nat) => (x.1.bound, x.2.2)))

def execContractOpen (m : Mb) (s : State) : Out :=
  .next (s.serve m 0x0401 anyForm 0x18 fun r s => if s.mbx.ready then contractOpen m r s else no .busy s)

/-- A contract that its owner names. -/
def State.withCon (s : State) (o : Owner) (n : Nat) (f : Contract → Ans) : Ans :=
  match s.con n with
  | none => no .wrongState s
  | some k => if k.owner = o then f k else no .notOwner s

/-- Does a staging or an armed swap depend on contract `n` (R299)? -/
def State.conNeeded (s : State) (n : Nat) : Bool :=
  (List.range 32).any fun r =>
    let g := s.ovlRegion r
    (match g.staging with | some t => t.con == n | none => false) ||
      (g.con = some n && ((s.strike r).valid || s.stk.swaps.any fun w => w.1 = r))

def execContractClose (m : Mb) (s : State) : Out :=
  .next (s.serve m 0x0402 anyForm 0x10 fun r s => s.withCon (s.issuer m) (r.u32 0x10) fun k =>
    if s.conNeeded (r.u32 0x10) then no .wrongState s
    else ok ((s.releaseTasks (if k.st = .admitted ∨ k.st = .suspended then k.ctxs else [])).setCon (r.u32 0x10) none))

/-- STATE of a table entry. -/
def conCode : ConState → Nat
  | .admitted => 1
  | .suspended => 2
  | .demoted => 3
  | .revoked => 4

/-- Bucket content in thousandths of a byte at an instant (R292): RATE MB/s are as many thousandths of a byte per ns. -/
def Flow.bucket (f : Flow) (now : Nat) : Nat := min (f.burst * 1000) (f.tokens + f.rate * (now - f.tokenTime))

/-- One table entry (R297); `f` is none for a contract without a flow. -/
def Contract.entry (k : Contract) (now n part : Nat) (f : Option Flow) : List Byte :=
  let kind := match f with | some f => b2n f.write | none => 2
  let dst : Nat × Nat := match f with
    | some f => (match f.dst with | .ni n => (n, 0) | .region r => (r, 1) | .peer q => (q, 2))
    | none => (0, 0)
  let src : Nat := match f with | some f => f.src.getD 0xFF | none => 0
  let g (h : Flow → Nat) : Nat := match f with | some f => h f | none => 0
  leBytes 2 (n + part * 16384) ++ leBytes 1 src ++ leBytes 1 dst.1 ++ leBytes 1 (g (·.num) + dst.2 * 16 + kind * 64) ++
    leBytes 1 (k.owner.val + conCode k.st * 16) ++ leBytes 1 (g (fun f => f.max / 64) + k.group % 16 * 16) ++
    leBytes 1 k.flows.length ++ leBytes 4 (g (·.rate)) ++ leBytes 4 (g (·.burst)) ++ leBytes 4 (g (·.bound)) ++
    leBytes 4 (match k.notify with | some q => q | none => 2 ^ 31) ++ leBytes 4 (g fun f => f.bucket now / 1000) ++
    leBytes 2 (g fun f => f.kits.toNat) ++ leBytes 2 0

def execContractQuery (m : Mb) (s : State) : Out :=
  .next (s.serve m 0x0403 anyForm 0x30 fun r s => s.withCon (s.issuer m) (r.u32 0x10) fun k =>
    ok s (if k.flows = [] then k.entry s.now (r.u32 0x10) 0 none
      else (List.range k.flows.length).flatMap fun i => k.entry s.now (r.u32 0x10) i k.flows[i]?))

/-- NOC_ROUTE: H, the routers of the request path, and Σ n_b × P of admitted flows on each of its H links. -/
def nocRoute (r : Running) (s : State) : Ans :=
  let a := r.u8 0x10
  let b := r.u8 0x11
  if 140 ≤ a ∨ 140 ≤ b then no .wrongState s
  else if s.routerAbsent a ∨ s.routerAbsent b then no .absentUnit s
  else match s.path a b with
    | none => no .wrongState s
    | some p => ok s (leBytes 4 p.length ++ padTo 44 (p.flatMap (leBytes 1)) ++
        (pathLinks p).flatMap fun l => leBytes 4 (s.linkBurst s.heldFlows l))

def execNocRoute (m : Mb) (s : State) : Out := .next (s.serve m 0x0410 anyForm 0x40 nocRoute)

/-! ### Revalidation (R288, R296) -/

/-- Does a segment heal on the ring that a flow travels, which defers its revalidation to 1 ms after the heal (R386)? -/
def State.flowHeals (s : State) (f : Flow) : Bool := match f.dst with
  | .peer _ => decide ((s.ring 0).st = .healing) || decide ((s.ring 1).st = .healing)
  | _ => false

/-- Atmon re-runs admission for a suspended contract on the present routes, with its grants as WANT. Where it fails the contract is
DEMOTED, but one whose detour exceeds its bound stays SUSPENDED and is reported (R35), until routes change again (log 71). -/
def State.revalidate (s : State) (c : Nat) : State :=
  match s.con c with
  | none => s
  | some k =>
    match k.revalAt with
    | none => s
    | some t =>
      if k.st ≠ .suspended ∨ s.now < t ∨ k.flows.any s.flowHeals then s
      else
        let old := (s.contracts.filter fun (e : Nat × Contract) => e.1 != c && decide (e.2.st = .admitted ∨ e.2.st = .suspended)).flatMap
          fun (e : Nat × Contract) => e.2.flows
        let a := s.admission old (k.flows.map fun f => { f with want := f.bound })
        let s' := s.setCon c (some { k with st := .admitted })
        if a.reason = 0 ∧ ¬ k.flows.any s.flowDrain ∧ (k.ctxs = [] ∨ s'.grpFits k.group) then
          s.conSet c k .admitted k.cause 0xFFFF none
        else if k.cause = 2 ∧ (a.reason = 6 ∨ a.reason = 7) then s.conSet c k .suspended 2 0xFFFF none
        else (s.releaseTasks k.ctxs).conSet c k .demoted k.cause 0xFFFF none

def execContractRevalidate (c : ContractId) (s : State) : Out := .next (s.revalidate c.val)

/-! ### Requests that a fault or reset answers (R287 to R290) -/

/-- A request is outstanding: injected, and its response has not yet reached its NI. -/
def Req.out (r : Req) : Bool :=
  r.sent && (match r.stage with
    | .mesh => true
    | .target => true
    | .answered _ _ => true
    | _ => false)

/-- An outstanding request is answered RESET_ABORT by its initiator NI; its TAG is not reused for 1 ms (R289). -/
def State.abortReq (s : State) (id : Nat) : State :=
  match s.req id with
  | none => s
  | some r =>
    let s := s.setReq id (some { r with stage := .answered .resetAbort [], sent := false })
    { s.modRtr r.src fun x => { x with abort := satInc x.abort } with
      noc.aborted := s.noc.aborted ++ [(r.src, r.tag, s.now + 1000000)] }

/-- Every outstanding request that `p` names is answered RESET_ABORT. -/
def State.abortWhere (s : State) (p : Req → Bool) : State :=
  s.noc.req.foldl (fun (t : State) (e : Nat × Option Req) => match e.2 with
    | some r => if r.out && p r then t.abortReq e.1 else t
    | none => t) s

/-- Does the request or response route of a request use a link, in either direction? -/
def State.usesLink (s : State) (r : Req) (n m : Nat) : Bool :=
  let on (a b : Nat) : Bool := match s.pathFrom r.epoch b 140 a with
    | some p => (pathLinks p).contains (n, m) || (pathLinks p).contains (m, n)
    | none => true
  on r.src r.dst || on r.dst r.src

/-- A link fails (R287): the requests whose routes use it are aborted. Atmon then fences it. -/
def State.linkFail (s : State) (n p : Nat) : State :=
  match neighbour n p with
  | none => s
  | some m => s.abortWhere fun r => s.usesLink r n m

def execLinkFailure (n : RouterId) (dir : Fin 4) (s : State) : Out := .next (s.linkFail n.val dir.val)

/-- Header corrections of a link within its present millisecond (R286). -/
def Router.corrections (x : Router) (now dir : Nat) : Nat :=
  let e := tget x.linkCe (0, 0) dir
  if e.1 = now / 1000000 then e.2 else 0

/-- Does the packet of a request, or of its response, arrive at router `n` from direction `dir`? -/
def State.arrivesFrom (s : State) (id n dir : Nat) : Bool :=
  match s.req id, neighbour n dir with
  | some r, some m => r.out && s.usesLink r n m
  | _, _ => false

/-- ROUTER_HEADER: the header check of a packet that arrives at router `n` from direction `dir` (R279). -/
def State.routerHeader (s : State) (n dir id : Nat) (f : Finding) : State :=
  if ¬ s.arrivesFrom id n dir then s
  else match f with
    | .clean => s
    | .corrected =>
      (s.modRtr n fun x => { x with
        hdrCe := satInc x.hdrCe
        linkCe := tput x.linkCe (0, 0) dir (s.now / 1000000, x.corrections s.now dir + 1) }).raise 192 []
    | .uncorrectable =>
      (((s.modRtr n fun x => { x with hdrUe := satInc x.hdrUe }).raise 193 [0]).linkFail n dir)

def execRouterHeader (n : RouterId) (dir : Fin 4) (id : Nat) (f : Finding) (s : State) : Out :=
  .next (s.routerHeader n.val dir.val id f)

/-! ### Routing changes (R285, R286) -/

/-- The present table with the named entries replaced. -/
def State.detour (s : State) (rs : List (RouterId × RouterId × Fin 5)) : Tab (Option (Option (Fin 5))) :=
  rs.foldl (fun (t : Tab (Option (Option (Fin 5)))) (r : RouterId × RouterId × Fin 5) =>
    tput t none (r.1.val * 140 + r.2.1.val) (some (some r.2.2))) (s.table s.noc.epoch)

/-- Atmon writes the new table into the inactive table of every router; a second change waits for the first. -/
def State.changeRoutes (s : State) (rs : List (RouterId × RouterId × Fin 5)) : State :=
  if s.noc.changing then s
  else if s.noc.epoch then { s with noc.table0 := s.detour rs, noc.changing := true, noc.pendingFlip := true }
  else { s with noc.table1 := s.detour rs, noc.changing := true, noc.pendingFlip := true }

def execRoutingChange (routes : List (RouterId × RouterId × Fin 5)) (s : State) : Out := .next (s.changeRoutes routes)

/-- EPOCH_FLIP: packets injected from here on carry the new epoch, and request injection pauses. -/
def execEpochFlip (s : State) : Out :=
  .next (if s.noc.pendingFlip then { s with noc.epoch := !s.noc.epoch, noc.pendingFlip := false, noc.flipAt := s.now } else s)

/-- Old-epoch packets are draining, and request injection is paused. -/
def State.draining (s : State) : Bool := s.noc.changing && !s.noc.pendingFlip

/-- Is the link at port `p` of router `n` on a path of the flow, in either direction? -/
def State.flowOn (s : State) (f : Flow) (n m : Nat) : Bool :=
  [(n, m), (m, n)].any fun l => (s.flowPaths f false ++ s.flowPaths f true).any fun ps => ps.any (crosses l)

/-- EPOCH_DRAIN_END: injection resumes; contracts suspended for a fenced link are revalidated 1 ms later. -/
def execEpochDrainEnd (ns : BitVec 16) (s : State) : Out :=
  .next (if s.draining then
    ({ s with noc.changing := false, noc.changes := s.noc.changes + 1, noc.drainNs := ns } : State).revalWhere
      (fun _ c => c.cause = 2 && c.revalAt.isNone) (s.now + 1000000)
  else s)

def execEpochDrainTimeout (s : State) : Out :=
  .next (if s.draining ∧ s.noc.flipAt + 4000 ≤ s.now then s.raise 197 [0] else s)

/-- LINK_FENCE (R286): the link is fenced at both ends, health notes it, its contracts are suspended, and the detour
tables are written. -/
def State.fenceLink (s : State) (n p : Nat) (rs : List (RouterId × RouterId × Fin 5)) : State :=
  match neighbour n p with
  | none => s
  | some m =>
    if inMask (s.rtr n).fence.toNat p then s
    else
      let hit (_ : Nat) (c : Contract) : Bool := c.flows.any fun f => s.flowOn f n m
      let mark (x : Router) (b : Nat) : Router := { x with fence := x.fence ||| BitVec.ofNat 4 (2 ^ b) }
      let s := (s.modRtr n fun x => mark x p).modRtr m fun x => mark x ((p + 2) % 4)
      let s := ((s.raise 196 [0]).healthCause 3).suspendWhere hit 2 n none
      s.changeRoutes rs

def execLinkFence (n : RouterId) (dir : Fin 4) (routes : List (RouterId × RouterId × Fin 5)) (s : State) : Out :=
  .next (s.fenceLink n.val dir.val routes)

/-! ### Powering an endpoint down (R290) -/

/-- NI_DRAINED: no request from the NI and none accepted by it is left, so the proxy turns on. -/
def State.niBusy (s : State) (n : Nat) : Bool :=
  s.noc.req.any fun (e : Nat × Option Req) => match e.2 with
    | some r => (r.src = n && (r.out || r.stage = .retry)) || (r.dst = n && r.stage = .target)
    | none => false

/-- A power domain is on (R433, R437). -/
def State.powerOn (s : State) (unit idx : Nat) : Bool :=
  match unit with
  | 0 => bitOf s.ckr.pwrUnit.toNat idx
  | 1 => bitOf s.ckr.pwrUnit.toNat (16 + idx)
  | 2 => bitOf s.ckr.pwrUnit.toNat (24 + idx)
  | 5 => bitOf s.ckr.pwrMisc.toNat (1 + idx)
  | 7 => bitOf s.ckr.pwrSec.toNat idx
  | _ => bitOf s.ckr.pwrMisc.toNat 0

/-- The power switch of a domain. -/
def State.setPower (s : State) (unit idx : Nat) (on : Bool) : State :=
  let u (i : Nat) : State := { s with ckr.pwrUnit := BitVec.ofNat 32 (setBits s.ckr.pwrUnit.toNat i 1 (b2n on)) }
  let m (i : Nat) : State := { s with ckr.pwrMisc := BitVec.ofNat 3 (setBits s.ckr.pwrMisc.toNat i 1 (b2n on)) }
  match unit with
  | 0 => u idx
  | 1 => u (16 + idx)
  | 2 => u (24 + idx)
  | 5 => m (1 + idx)
  | 7 => { s with ckr.pwrSec := BitVec.ofNat 96 (setBits s.ckr.pwrSec.toNat idx 1 (b2n on)) }
  | _ => m 0

/-- What a domain loses as its supply switch opens (R433). -/
def State.powerLoss (s : State) (unit idx : Nat) : State :=
  match unit with
  | 0 =>
    let s := (List.range 8).foldl (fun (t : State) (i : Nat) => t.modEngAt (8 * idx + i) fun e => { e with
      st := .off
      p := []
      x := []
      y := []
      marks := []
      fixed := [] }) s
    s.modKitAt idx fun k => { k with
      mem := []
      marks := []
      fixed := []
      locks := [] }
  | 1 => s.modDport idx fun p => { p with st := .off }
  | 2 => (List.range 8).foldl (fun (t : State) (i : Nat) => t.modLane (8 * idx + i) fun l => { l with lock := false }) s
  | 7 =>
    let mine (q : Nat) : Bool := quadSector q == idx
    { s with
      fab.ff := s.fab.ff.filter fun (e : Nat × Option Bool) => !mine (quadAt (cellX e.1) (cellY e.1))
      fab.wire := s.fab.wire.filter fun (e : Nat × Option Bool) => match wirePlace e.1 with
        | some p => !mine (quadAt p.1 p.2)
        | none => true
      fab.word := s.fab.word.filter fun (e : Nat × BWord) => !mine (e.1 / 2048 / 12)
      fab.bport := s.fab.bport.filter fun (e : Nat × BPort) => !mine (e.1 / 24)
      fab.slice := s.fab.slice.filter fun (e : Nat × Slice) => !mine (e.1 / 32) }
  | 8 => { s with pce.linkUp := false }
  | _ => s

/-- The router behind a power domain. -/
def powerRouter (unit idx : Nat) : Nat :=
  match unit with
  | 7 => sectorRouter idx
  | _ => match unitBlock unit idx with
    | some b => blockRouter b
    | none => 0

/-- The NI is DRAINED and the proxy on; a POWER_DOMAIN that waits for it gates and isolates the domain, opens its supply
switch and completes (R290, R434). -/
def State.drained (s : State) (n : Nat) : State :=
  let s := s.modRtr n fun x => { x with ni := some 3, proxy := some 2, drainSince := none }
  match s.ckr.powering with
  | none => s
  | some (u, i, m) =>
    if powerRouter u i ≠ n then s
    else
      let s : State := { s.modRtr n (fun x => { x with ni := some 0 }) with ckr.powering := none }
      ((s.setPower u i false).powerLoss u i).finish (Fin.ofNat 33 m) .ok

def execNiDrained (n : RouterId) (s : State) : Out :=
  .next (if (s.rtr n.val).drainSince.isSome ∧ ¬ s.niBusy n.val then s.drained n.val else s)

/-- DRAIN_TIMEOUT: 10 ms after DRAIN began the remaining requests in both directions are aborted, FSRC 75 is raised and the
power-down continues (R290, R434). -/
def execDrainTimeout (n : RouterId) (s : State) : Out :=
  .next (match (s.rtr n.val).drainSince with
    | some t =>
      if t + 10000000 ≤ s.now then
        ((s.abortWhere fun r => r.src == n.val || r.dst == n.val).raise 75 [0]).drained n.val
      else s
    | none => s)

/-! ### Registers (R298) -/

/-- Fenced links, each counted once. -/
def State.fencedLinks (s : State) : Nat :=
  (s.noc.rtr.map fun e => b2n (inMask e.2.fence.toNat 0) + b2n (inMask e.2.fence.toNat 1)).foldl (· + ·) 0

/-- Entries of the contract table in the states that `p` names. -/
def State.conCount (s : State) (p : ConState → Bool) : Nat :=
  ((s.contracts.filter fun e => p e.2.st).map fun e => e.2.entries).foldl (· + ·) 0

/-- Requests that `p` names. -/
def State.reqCount (s : State) (p : Req → Bool) : Nat :=
  (s.noc.req.filter fun (e : Nat × Option Req) => match e.2 with | some r => p r | none => false).length

/-- The five registers of router `n`. -/
def State.rtrWord (s : State) (n i : Nat) : W32 :=
  let x := s.rtr n
  match i with
  | 0 => packW [(0, x.fence.toNat), (4, s.niCode n), (7, s.proxyCode n)]
  | 1 => packW [(0, x.hdrCe.toNat), (16, x.hdrUe.toNat)]
  | 2 => packW [(0, x.dataCe.toNat), (16, x.dataUe.toNat)]
  | 3 => packW [(0, min 1023 (s.reqCount fun r => r.src == n && r.out)),
      (10, min 1023 (s.reqCount fun r => r.dst == n && decide (r.stage = .target)))]
  | 4 => x.abort
  | _ => 0#32

/-- A NOC register. -/
def State.nocRead (s : State) (off : Nat) : W32 :=
  if off = 0 then packW [(0, b2n s.noc.epoch), (1, b2n s.noc.changing), (8, min 255 s.fencedLinks)]
  else if off = 4 then packW [(0, s.conCount fun c => c == .admitted), (16, s.conCount fun c => c == .suspended || c == .demoted)]
  else if off = 8 then packW [(0, s.noc.changes.toNat), (16, s.noc.drainNs.toNat)]
  else if 0x1000 ≤ off ∧ off < 0x1000 + 140 * 0x20 then s.rtrWord ((off - 0x1000) / 0x20) (off % 0x20 / 4)
  else 0#32

end Sys2Proof.Machine
end

