-- ==== Sys2Proof/Machine/Mailbox.lean ====
section
/-!
DEFINITION. Machine/Mailbox.lean: the mailbox page (R396 to R399), doorbells, responses, sessions and notification (R401
to R409), and the commands INVENTORY, HEALTH and ECHO (R413).
-/
namespace Sys2Proof.Machine

/-- The JTAG page (R463). -/
def jtagBox : Mb := 32

/-- Is the device in config-only (R172)? -/
def State.configOnly (s : State) : Bool := s.cfg.st = .configOnly

/-- Does a program report READY (R395)? -/
def State.progReady (s : State) : Bool :=
  match s.mbx.prog with
  | .hardware => false
  | .recovery => true
  | .atmon => s.mbx.ready

/-- READY of MBX_STATUS_m: in config-only only mailboxes 0 and 10 and the JTAG page are served (R172). -/
def State.boxReady (s : State) (m : Mb) : Bool := s.progReady && (!s.configOnly || m = 0 || m = 10 || m = jtagBox)

def mbCode : MbState → Nat
  | .idle => 0
  | .posted => 1
  | .running => 2
  | .complete => 3

/-- STATUS of the response in the buffer. -/
def Mailbox.status (b : Mailbox) : Nat := rdLE b.resp 0 2

/-- MBX_RPOP_m as a read in the present state returns it (R403). -/
def Mailbox.rpop (b : Mailbox) : W32 := if b.st = .complete then packW [(0, b.status), (16, 1)] else 0#32

/-- A word of the page of mailbox `m` (R398); a read of MBX_RPOP_m also pops. -/
def State.boxWord (s : State) (m : Mb) (off : Nat) : W32 :=
  let b := s.box m
  if off = 4 then packW [(0, mbCode b.st), (2, b2n b.interim), (3, b2n (s.boxReady m)), (4, b2n s.configOnly),
    (5, b2n b.dropped), (6, b2n b.nlost), (8, b.owner.val), (12, b2n b.bound)]
  else if off = 8 then packW [(0, b.cseq.toNat), (16, b.rseq.toNat)]
  else if off = 0xC then b.rpop
  else if off = 0x10 then b.token
  else if off = 0x14 then b.notify
  else if 0x100 ≤ off ∧ off < 0x500 then BitVec.ofNat 32 (rdLE b.cmd (off - 0x100) 4)
  else if 0x800 ≤ off ∧ off < 0xC00 then BitVec.ofNat 32 (rdLE b.resp (off - 0x800) 4)
  else 0#32

/-- MBX_ATMON and MBX_FWERR (R399). -/
def State.mbxGlobal (s : State) (off : Nat) : W32 :=
  if off = 0x20000 then packW [(0, b2n s.mbx.ready), (1, b2n s.configOnly), (2, b2n (decide (s.mbx.prog = .recovery))),
    (3, b2n s.mbx.fwFail), (8, if s.mbx.prog = .hardware then 0 else 3),
    (16, if s.mbx.prog = .atmon then s.mbx.fwVersion.toNat / 65536 else 0)]
  else if off = 0x20004 then BitVec.ofNat 32 s.mbx.fwErr
  else 0#32

/-! ### Doorbell and pop -/

/-- A doorbell written by one who passes the check of R397 (R401). -/
def State.doorbell (s : State) (who : Initiator) (m : Mb) : State :=
  let b := s.box m
  if b.st = .idle then
    let s := s.setBox m { b with st := .posted, cseq := b.cseq + 1, dropped := false, since := s.now }
    { s with mbx.order := s.mbx.order ++ [m] }
  else (s.setBox m { b with dropped := true }).raiseBy 40 who b.owner

def execMbxDoorbell (who : Initiator) (m : Mb) (v : BitVec 32) (s : State) : Out :=
  .next (s.inHostOrder who (ctlBase + 0x1000 * m.val) none (leBytes 4 v.toNat) fun s =>
    if ¬ s.passes who (s.box m).owner then s.noteOwner who
    else if v.getLsbD 0 then s.doorbell who m else s)

/-- A read of MBX_RPOP_m by the owner (R403). -/
def State.rpop (s : State) (m : Mb) : State :=
  let b := s.box m
  if b.st = .complete then s.setBox m { b with st := .idle, nlost := false } else s

/-- MBX_RPOP: a debug read peeks. -/
def execMbxRpop (who : Initiator) (m : Mb) (s : State) : Out :=
  .next (s.inHostOrder who (ctlBase + 0x1000 * m.val + 0xC) (some 4) [] fun s =>
    if ¬ s.passes who (s.box m).owner then { s.noteOwner who with readData := [] }
    else
      let v := leBytes 4 (s.box m).rpop.toNat
      if isDebug who then { s with readData := v } else { s.rpop m with readData := v })

/-- A write of `bs` at an offset of the page of mailbox `m` by one who passes the check. -/
def State.boxWrite (s : State) (who : Initiator) (m : Mb) (off : Nat) (bs : List Byte) : State :=
  if off = 0 then (if bitOf (leNat bs) 0 then s.doorbell who m else s)
  else if off = 0x14 then s.modBox m fun b => { b with notify := BitVec.ofNat 32 (leNat (bs.take 4)) &&& 0x7FFFFFFF#32 }
  else if 0x100 ≤ off ∧ off < 0x500 then
    s.modBox m fun b => { b with cmd := wrBytes b.cmd (off - 0x100) (bs.take (0x500 - off)) }
  else s

/-- A 32-bit access of the page of mailbox `m` (R397): the word read and whether the access passed. -/
def State.boxAccess (s : State) (who : Initiator) (m : Mb) (off : Nat) (write : Bool) (bs : List Byte) : NocStatus × W32 × State :=
  if ¬ s.passes who (s.box m).owner then (.notOwner, 0#32, s.noteOwner who)
  else if write then (.ok, 0#32, s.boxWrite who m off bs)
  else (.ok, s.boxWord m off, if off = 0xC ∧ ¬ isDebug who then s.rpop m else s)

/-- The mailbox that the manifest binds to a sector's channel (R126). -/
def State.channelBox (s : State) (sec : SectorId) : Option Mb :=
  (s.man.boxes.find? fun b => b.channel == some sec).map (·.mb)

/-- MAILBOX_CHANNEL_ACCESS (R126): a sector without a bound mailbox reads zero and ignores writes. -/
def execMailboxChannelAccess (sec : SectorId) (off : BitVec 12) (write : Bool) (v : BitVec 32) (s : State) : Out :=
  .next (match s.channelBox sec with
    | none => if write then s else { s with readData := leBytes 4 0 }
    | some m =>
      let r := s.boxAccess (.sector sec) m (off.toNat / 4 * 4) write (leBytes 4 v.toNat)
      if write then r.2.2 else { r.2.2 with readData := leBytes 4 r.2.1.toNat })

/-! ### Responses outside a command's meaning -/

/-- The header of the command in the buffer, as the copy of R401 takes it. -/
def Mailbox.copied (b : Mailbox) : Running :=
  { op := rdLE b.cmd 0 2
    tag := BitVec.ofNat 32 (rdLE b.cmd 8 4)
    notifyOff := bitOf (rdLE b.cmd 2 2) 0
    length := rdLE b.cmd 4 4
    buf := b.cmd.filter fun c => c.1 < rdLE b.cmd 4 4
    since := b.since
    cseq := b.cseq }

/-- NOT_READY_ANSWER (R402): no program reports READY for the mailbox. -/
def execNotReadyAnswer (m : Mb) (s : State) : Out :=
  .next (let b := s.box m
    if b.st = .posted ∧ b.run = none ∧ ¬ s.boxReady m then (s.took m).respond m b.copied .busy 6 [] else s)

/-- INTERIM_RESPONSE (R405): the progress of a long command that is still at work. -/
def State.interim (s : State) (m : Mb) (permille remain work : Nat) : State :=
  match (s.box m).run with
  | none => s
  | some r =>
    if ¬ r.long ∨ r.final.isSome ∨ r.discard then s
    else
      let r' := { r with step := r.step + 1 }
      let p := leBytes 4 r'.step.toNat ++ leBytes 2 (min 1000 permille) ++ leBytes 2 0 ++
        leBytes 4 ((s.now - r.since) / 1000) ++ leBytes 4 remain ++ leBytes 8 work
      let s := s.modBox m fun b => { b with
        resp := wrBytes b.resp 0 (responseBytes .longRunning 0 true r.tag p)
        interim := true
        run := some r' }
      s.notifyBox m .longRunning true r'

def execInterimResponse (m : Mb) (permille : BitVec 16) (remain : BitVec 32) (work : BitVec 64) (s : State) : Out :=
  .next (s.interim m permille.toNat remain.toNat work.toNat)

/-- The status of a number. -/
def Code.ofNum : Nat → Code
  | 0 => .ok
  | 1 => .busy
  | 2 => .refusedResources
  | 3 => .refusedBound
  | 4 => .absentUnit
  | 5 => .notOwner
  | 7 => .authFailed
  | 8 => .ovlBadFrame
  | 9 => .ovlBadImage
  | 10 => .axisDiscontinuous
  | 11 => .longRunning
  | _ => .wrongState

/-- LONG_COMMAND_FINAL_RESPONSE (R405). -/
def execLongCommandFinalResponse (m : Mb) (s : State) : Out :=
  .next (match (s.box m).run with
    | some r => match r.final with
      | some f => s.respond m r (Code.ofNum f.1) f.2.1 f.2.2
      | none => s
    | none => s)

/-! ### Sessions (R407) -/

/-- A draw of R407 falls due for mailboxes that `p` names. -/
def State.dueTokens (s : State) (p : Mb → Bool) : State :=
  (List.finRange 33).foldl (fun (t : State) (m : Mb) =>
    if p m then t.modBox m fun b => { b with tokenDue := true } else t) s

/-! ### INVENTORY, HEALTH, ECHO (R413) -/

/-- Code of a variant in INVENTORY. -/
def Variant.code : Variant → Nat
  | .f => 0
  | .c => 1
  | .m => 2
  | .s => 3

def inventory (s : State) : Ans :=
  let v := s.variant
  ok s (pay 0x48 [(0x10, 4, 0x07140A01), (0x14, 1, v.code), (0x15, 1, s.speed), (0x16, 1, b2n s.gradeE), (0x17, 1, 1),
    (0x18, 16, 2 ^ v.engines - 1), (0x28, 2, 2 ^ (v.engines / 8) - 1), (0x2A, 1, 2 ^ v.dports - 1),
    (0x2B, 1, 2 ^ v.rings - 1 + 0xC + 16 * b2n v.mxe + 32 * b2n s.pce.set.pf1), (0x2C, 1, 2 ^ v.groups - 1),
    (0x2D, 1, 2 ^ v.groups - 1), (0x30, 4, if s.mbx.prog = .atmon then s.mbx.fwVersion.toNat else 0), (0x34, 2, 3),
    (0x38, 8, s.sec.serial.toNat), (0x40, 2, if s.configOnly then 1 else s.man.owners.toNat),
    (0x44, 4, maskOf ((List.range 32).map fun m => (s.box m).bound))])

def execInventory (m : Mb) (s : State) : Out := .next (s.serve m 0x0101 anyForm 0x48 fun _ s => inventory s)

def health (s : State) : Ans :=
  ok s (pay 0x38 [(0x10, 1, b2n (decide (s.flt.causes ≠ 0#32))), (0x11, 1, b2n (decide (s.flt.causes ≠ 0#32))),
    (0x14, 4, s.flt.causes.toNat),
    (0x18, 1, maskOf ((List.range 8).map fun k => decide ((s.dport k).erased0 ≠ 0xF#4 ∨ (s.dport k).erased1 ≠ 0xF#4))),
    (0x1A, 2, s.vlt.remap.length), (0x1C, 16, maskOf ((List.range 128).map fun g => (s.engAt g).fenced)),
    (0x2C, 2, s.fencedLinks), (0x2E, 2, s.ovl.persisted.toNat), (0x30, 4, s.flt.lockCount.toNat), (0x34, 2, match s.hottest with | some h => (BitVec.ofInt 16 h.2).toNat | none => 0)])

def execHealth (m : Mb) (s : State) : Out := .next (s.serve m 0x0102 anyForm 0x38 fun _ s => health s)

def execEcho (m : Mb) (s : State) : Out :=
  .next (s.serve m 0x0103 anyForm 0x10 fun r s => ok s (r.bytes 0x10 (min 1024 r.length - 16)))

end Sys2Proof.Machine
end

