-- ==== Sys2Proof/Machine/Ports.lean ====
section
/-!
DEFINITION. Machine/Ports.lean: the serial ports (R363 to R393) but for their memory requests: commands of family 0x0Axx,
general lanes, JESD links, Ethernet links, the ring's joining, healing and cells, and the PCE, GLN, JLK, EMC and LNK
registers.
-/
namespace Sys2Proof.Machine

/-! ### PCI Express commands (R365, R366, R392) -/

/-- Is function `fn` bound to owner `o`? PF1 exists only where the belfry settings enable it (R364). -/
def State.fnMine (s : State) (fn : Nat) (o : Owner) : Bool :=
  (fn = 0 || (fn = 1 && s.pce.set.pf1)) && s.pfOwner fn = o

def pcieAperture (m : Mb) (r : Running) (s : State) : Ans :=
  let a := r.u64 0x10
  if s.pfOwner 0 ≠ s.issuer m then no .notOwner s
  else if a % 2 ^ 36 ≠ 0 ∨ 0x040000000000 < a + 2 ^ 36 ∨ a / 2 ^ 40 = 2 then no .wrongState s
  else ok { s with pce.abase := a / 2 ^ 36 }

def execPcieAperture (m : Mb) (s : State) : Out := .next (s.serve m 0x0A01 anyForm 0x10 (pcieAperture m))

def pcieOutwin (m : Mb) (r : Running) (s : State) : Ans :=
  let o := s.issuer m
  let w := r.u32 0x10
  let fl := r.u32 0x20
  let give (w : Nat) : Ans :=
    ok (s.setOutWin w { taken := true, owner := o, hbase := r.u64 0x18, fn := Fin.ofNat 2 (r.u32 0x14), attr := BitVec.ofNat 2 fl })
      (leBytes 4 w)
  if (15 < w ∧ w ≠ 0xFF) ∨ 7 < fl then no .wrongState s
  else if bitOf fl 2 then
    if w = 0xFF ∨ ¬ (s.outWin w).taken then no .wrongState s
    else if (s.outWin w).owner ≠ o then no .notOwner s
    else ok (s.setOutWin w {}) (leBytes 4 w)
  else if ¬ s.fnMine (r.u32 0x14) o ∨ r.u64 0x18 % 4096 ≠ 0 then no .wrongState s
  else if w = 0xFF then
    match firstFree 16 fun i => !(s.outWin i).taken with
    | some i => give i
    | none => no .refusedResources s
  else if (s.outWin w).taken then no (if (s.outWin w).owner = o then .wrongState else .notOwner) s
  else give w

def execPcieOutwin (m : Mb) (s : State) : Out := .next (s.serve m 0x0A02 anyForm 0x14 (pcieOutwin m))

/-! ### General lanes (R368) -/

/-- Lanes that a MAC uses at a rate code (R373). -/
def macLanes (rate : Nat) : Nat := [0, 1, 1, 1, 2, 4].getD rate 0

/-- The first lane of a MAC. -/
def macBase (n : Nat) : Nat := 16 + 8 * n

/-- Is the user of lane `i` enabled? -/
def State.laneUser (s : State) (i : Nat) : Bool :=
  let g := i / 8
  match (s.lane i).use with
  | 1 => (s.jesd g).en && decide (i % 8 < (s.jesd g).lanes)
  | 2 => (g = 2 || g = 3) && decide (i % 8 < macLanes (s.mac (g - 2)).rate)
  | _ => false

/-- Is every lane of group `g` locked or idle? -/
def State.groupDone (s : State) (g : Nat) : Bool := (List.range 8).all fun i => let l := s.lane (8 * g + i); l.use = 0 || l.lock

/-- LANE_CONFIG completes when every lane is locked or idle (R392). -/
def State.groupCheck (s : State) (g : Nat) : State :=
  match (s.laneGroup g).cmd with
  | some m => if s.groupDone g then (s.modLaneGroup g fun x => { x with cmd := none }).finish m .ok else s
  | none => s

/-- Uses and rates of a LANE_CONFIG command. -/
def Running.laneUse (r : Running) (i : Nat) : Nat := bitsOf (r.u32 (0x14 + 4 * i)) 0 2
def Running.laneRate (r : Running) (i : Nat) : Nat := bitsOf (r.u32 (0x14 + 4 * i)) 2 9

def laneConfig (m : Mb) (r : Running) (s : State) : Ans :=
  let g := r.u32 0x10
  s.withConfig m
    (if 7 < g then no .wrongState s
    else if ¬ s.lanePresent g then no .absentUnit s
    else if (s.laneGroup g).cmd.isSome ∨ (List.range 8).any (fun i =>
        (r.laneUse i ≠ (s.lane (8 * g + i)).use && s.laneUser (8 * g + i)) ||
        (r.laneUse i ≠ 0 && (r.laneRate i < 10 || 262 < r.laneRate i)) || decide (2 ^ 11 ≤ r.u32 (0x14 + 4 * i)) ||
        (r.laneUse i = 2 && !(g = 2 || g = 3))) then no .wrongState s
    else if (List.range 8).any fun i => r.laneUse i ≠ 0 && !Config.rateReached g (r.laneRate i) then no .refusedResources s
    else
      let s := (List.range 8).foldl (fun (t : State) (i : Nat) =>
        let l := t.lane (8 * g + i)
        t.setLane (8 * g + i) { l with
          use := r.laneUse i
          rate := BitVec.ofNat 9 (r.laneRate i)
          lock := l.lock && l.use = r.laneUse i && l.rate.toNat = r.laneRate i && r.laneUse i ≠ 0 }) s
      .accepted (s.modLaneGroup g fun x => { x with cmd := some m }))

def execLaneConfig (m : Mb) (s : State) : Out :=
  let t := s.serve m 0x0A10 anyForm 0x10 (laneConfig m)
  .next ((List.range 8).foldl (fun (t : State) (g : Nat) => if (s.laneGroup g).cmd.isNone then t.groupCheck g else t) t)

/-- LANE_RX_LOCK: a receiver gains or loses lock. A receiver locks only with its group's reference, whose measured
frequency is a free value. -/
def State.laneLock (s : State) (i : Nat) (locked : Bool) : State :=
  let g := i / 8
  if (s.lane i).use = 0 ∨ ¬ s.lanePresent g then s
  else
    let s := s.modLane i fun l => { l with lock := locked }
    let s := if locked ∧ ¬ (s.laneGroup g).refOk then
        let f := s.fresh 16
        f.2.modLaneGroup g fun x => { x with refOk := true, refFreq := f.1 }
      else s
    s.groupCheck g

def execLaneRxLock (i : Fin 64) (locked : Bool) (s : State) : Out := .next (s.laneLock i.val locked)

/-! ### JESD link layers (R370 to R372) -/

/-- Lanes of a link that are locked. -/
def State.jesdLocked (s : State) (n : Nat) : Nat :=
  maskOf ((List.range 8).map fun i => decide (i < (s.jesd n).lanes) && (s.lane (8 * n + i)).lock)

def jesdConfig (m : Mb) (r : Running) (s : State) : Ans :=
  let o := s.issuer m
  let n := r.u8 0x10
  let fl := r.u8 0x11
  let c := bitOf fl 2
  let inn := bitOf fl 3
  let ax := r.u8 0x19
  let np := r.u8 0x18
  let lanes := r.u8 0x12
  let rate (i : Nat) : Nat := (s.lane (8 * n + i)).rate.toNat
  s.withConfig m
    (if 7 < n ∨ 31 < fl then no .wrongState s
    else if ¬ s.lanePresent n then no .absentUnit s
    else if (s.jesd n).cmd.isSome then no .wrongState s
    else if ¬ bitOf fl 0 then ok (s.setJesd n { s.jesd n with en := false, st := 0, valid := false }) (leBytes 4 (s.jesd n).lat.toNat)
    else if lanes < 1 ∨ 8 < lanes ∨ 95 < r.u8 0x13 ∨ r.u8 0x14 < 1 ∨ 32 < r.u8 0x14 ∨ r.u8 0x15 = 0 ∨ r.u8 0x16 = 0 ∨
        r.u8 0x17 < 1 ∨ 32 < r.u8 0x17 ∨ ¬ [8, 12, 16].contains np ∨ 15 < ax ∨ r.u64 0x28 = 0 ∨
        (List.range lanes).any (fun i => (s.lane (8 * n + i)).use ≠ 1 ||
          (if c then rate i < 48 || 256 < rate i else rate i < 10 || 100 < rate i)) ∨
        (s.axis ax).cfg.bidir ∨ (inn ∧ (¬ pinKnown (r.u8 0x1A) ∨ 63 < r.u8 0x1B)) then no .wrongState s
    else if s.sectorOwner (r.u8 0x13) ≠ o ∨ (inn ∧ (s.cap (r.u8 0x1B)).owner ≠ o) then no .notOwner s
    else
      let j := s.jesd n
      let same := j.ax.val = ax && j.pos.toNat = r.u64 0x20 && j.period.toNat = r.u64 0x28 && j.rbd.toNat = r.u32 0x30 && j.lat ≠ 0#24
      let f := s.fresh 24
      .accepted ((if same then s else f.2).setJesd n { j with
        en := true
        tx := bitOf fl 1
        std := c
        lanes := lanes
        sector := Fin.ofNat 96 (r.u8 0x13)
        ax := Fin.ofNat 16 ax
        sysrefIn := inn
        scramble := bitOf fl 4
        params := r.bytes 0x14 5
        pos := BitVec.ofNat 64 (r.u64 0x20)
        period := BitVec.ofNat 64 (r.u64 0x28)
        pin := r.u8 0x1A
        cap := r.u8 0x1B
        syncIo := r.u16 0x1C
        rbd := BitVec.ofNat 32 (r.u32 0x30)
        owner := o
        st := 1
        lat := if same then j.lat else f.1
        cmd := some (m, s.now) }))

def execJesdConfig (m : Mb) (s : State) : Out := .next (s.serve m 0x0A11 anyForm 0x14 (jesdConfig m))

/-- Has the axis of link `n` reached a boundary SYSREF_POS + k × SYSREF_PERIOD at its latest edge (R371)? -/
def State.atSysref (s : State) (n : Nat) : Bool :=
  let j := s.jesd n
  let a := s.axis j.ax.val
  let k (p : W64) : Int := (p - j.pos).toInt / (j.period.toNat : Int)
  k a.pos ≠ k a.prev || a.pos = j.pos

/-- JESD_REALIGN: a link in SYNC whose lanes are locked aligns at a SYSREF position; its first alignment completes
JESD_CONFIG and counts no realignment. -/
def State.jesdRealign (s : State) (n : Nat) : State :=
  let j := s.jesd n
  let ready := j.en && (j.tx || s.jesdLocked n = 2 ^ j.lanes - 1) && (if j.sysrefIn then (s.cap j.cap).lastEdge.isSome else s.atSysref n)
  if j.st ≠ 1 ∨ ¬ ready then s
  else match j.cmd with
    | some c => (s.setJesd n { j with st := 3, cmd := none }).finish c.1 .ok (leBytes 4 j.lat.toNat)
    | none => s.setJesd n { j with st := 3, realign := satInc j.realign }

def execJesdRealign (n : Fin 8) (s : State) : Out := .next (s.jesdRealign n.val)

/-- JESD_ALIGNMENT_LOST (R372). -/
def execJesdAlignmentLost (n : Fin 8) (s : State) : Out :=
  .next (let j := s.jesd n.val
    if j.en ∧ (j.st = 2 ∨ j.st = 3) then (s.setJesd n.val { j with st := 1, valid := false }).raise (800 + n.val) [j.owner] else s)

/-- SYNC~ of link `n` (R173, R372): asserted from start until JESD_CONFIG enables the link, and while a receiving link is without
alignment. -/
def State.syncAsserted (s : State) (n : Nat) : Bool := let j := s.jesd n; !j.en || (!j.tx && decide (j.st < 2))

/-- PCIE_CLKREQ_N is driven low whenever the endpoint is powered (R499); otherwise the open-drain pin floats. -/
def State.clkreqLow (s : State) : Bool := bitOf s.ckr.pwrMisc.toNat 0

/-- JESD_CONFIG_TIMEOUT: 100 ms without DATA. -/
def execJesdConfigTimeout (n : Fin 8) (s : State) : Out :=
  .next (let j := s.jesd n.val
    match j.cmd with
    | some c => if c.2 + 100000000 ≤ s.now then (s.setJesd n.val { j with cmd := none }).finish c.1 .wrongState (leBytes 4 0) else s
    | none => s)

/-! ### Ethernet MACs (R373, R374) -/

/-- The FEC codes that a rate allows. -/
def fecAllowed (rate fec : Nat) : Bool :=
  match rate with
  | 2 => fec ≤ 1
  | 3 => fec ≤ 2
  | 4 => fec = 0 || fec = 2
  | 5 => fec = 0 || fec = 2
  | _ => fec = 0

/-- A MESSAGE queue of owner `o` with entries of `n` bytes. -/
def State.frameQueue (s : State) (o : Owner) (q n : Nat) : Option Code :=
  if 262144 ≤ q ∨ (s.queue q).kind = .free then some .wrongState
  else if (s.queue q).owner ≠ o then some .notOwner
  else if (s.queue q).kind ≠ .message ∨ (s.queue q).bytes ≠ n then some .wrongState
  else none

def ethConfig (m : Mb) (r : Running) (s : State) : Ans :=
  let o := s.issuer m
  let n := r.u8 0x10
  let rate := r.u8 0x11
  if 1 < n ∨ 5 < rate ∨ ¬ fecAllowed rate (r.u8 0x12) ∨ 1 < r.u8 0x13 ∨ 15 < r.u8 0x14 then no .wrongState s
  else if s.ptuOwner n ≠ o then no .notOwner s
  else if rate = 0 then ok (s.modMac n fun x => { x with rate := 0, fec := 0, link := false })
  else if (List.range (macLanes rate)).any fun i => (s.lane (macBase n + i)).use ≠ 2 then no .wrongState s
  else match firstCode [s.frameQueue o (r.u32 0x18) 32, s.frameQueue o (r.u32 0x1C) 16, s.frameQueue o (r.u32 0x20) 32] with
    | some c => no c s
    | none => ok (s.modMac n fun x => { x with
        rate := rate
        fec := r.u8 0x12
        keepBad := bitOf (r.u8 0x13) 0
        flow := r.u8 0x14
        txq := r.u32 0x18
        freeq := r.u32 0x1C
        rxq := r.u32 0x20
        link := x.link && x.rate = rate && x.fec = r.u8 0x12 })

def execEthConfig (m : Mb) (s : State) : Out := .next (s.serve m 0x0A12 anyForm 0x10 (ethConfig m))

/-- Are the lanes of MAC `n` locked? -/
def State.macLocked (s : State) (n : Nat) : Bool :=
  (List.range (macLanes (s.mac n).rate)).all fun i => (s.lane (macBase n + i)).lock

def execEthLinkUp (n : Fin 2) (s : State) : Out :=
  .next (if (s.mac n.val).rate ≠ 0 ∧ s.macLocked n.val then s.modMac n.val fun x => { x with link := true } else s)

def execEthLinkDown (n : Fin 2) (s : State) : Out :=
  .next (if (s.mac n.val).link then
    (s.modMac n.val fun x => { x with link := false, down := satInc x.down }).raise (808 + n.val) [s.ptuOwner n.val]
  else s)

/-- The end of the extension headers of an IPv6 packet, and the header that follows them: hop-by-hop, routing, fragment and
destination options are walked, `fuel` of them at most. -/
def pastExtensions (f : List Byte) : Nat → Nat → Nat → Nat × Nat
  | 0, i, next => (i, next)
  | fuel + 1, i, next =>
    let b (k : Nat) : Nat := (f.getD k 0#8).toNat
    if next = 0 ∨ next = 43 ∨ next = 60 then pastExtensions f fuel (i + 8 + 8 * b (i + 1)) (b i)
    else if next = 44 then pastExtensions f fuel (i + 8) (b i)
    else (i, next)

/-- Where the PTP header of a frame starts (R82): Ethertype 0x88F7, or UDP on port 319, with at most one VLAN tag. The
second part says whether the transport is IPv4 or IPv6, with the offset of its UDP header and whether extension headers stand
before that. -/
def ptpHeader (f : List Byte) : Option (Nat × Option (Bool × Nat × Bool)) :=
  let b (i : Nat) : Nat := (f.getD i 0#8).toNat
  let w (i : Nat) : Nat := b i * 256 + b (i + 1)
  let e := if w 12 = 0x8100 then 16 else 12
  let udp (u : Nat) (v6 ext : Bool) : Option (Nat × Option (Bool × Nat × Bool)) :=
    if w (u + 2) = 319 then some (u + 8, some (v6, u, ext)) else none
  let x := pastExtensions f 8 (e + 42) (b (e + 8))
  if w e = 0x88F7 then some (e + 2, none)
  else if w e = 0x0800 ∧ b (e + 11) = 17 then udp (e + 2 + 4 * (b (e + 2) % 16)) false false
  else if w e = 0x86DD ∧ x.2 = 17 then udp x.1 true (x.1 != e + 42)
  else none

/-- Bytes of a frame replaced from an offset. -/
def patch (f : List Byte) (i : Nat) (bs : List Byte) : List Byte := f.take i ++ bs ++ f.drop (i + bs.length)

/-- The sum of a byte list's 16-bit words. -/
def wordSum : List Byte → Nat
  | a :: b :: l => a.toNat * 256 + b.toNat + wordSum l
  | [a] => a.toNat * 256
  | [] => 0

/-- The originTimestamp of a message that MAC `n` sends now: the time of its PTU with TX_LAT added (R98), as 48 bits of seconds and
32 of ns. -/
def State.originStamp (s : State) (n : Nat) : List Byte :=
  let p := s.ptuAt n
  let t := ((((p.sec.toNat * 10 ^ 9 + p.ns) * 256 + p.frac.toNat / 2 ^ 24 : Nat) + s.txLat n) / 256).toNat
  beBytes 6 (t / 10 ^ 9 % 2 ^ 48) ++ beBytes 4 (t % 10 ^ 9)

/-- One-step insertion (R82, R83): the originTimestamp of a Sync message whose header starts within 128 octets with no extension
header before it, then the UDP checksum or the compensation octets. Other frames are sent unmodified, and true says that a Sync
message failed one of the two conditions. -/
def State.oneStep (s : State) (n : Nat) (f : List Byte) : List Byte × Bool :=
  match ptpHeader f with
  | none => (f, false)
  | some (h, udp) =>
    let ts := s.originStamp n
    let ext : Bool := match udp with | some (_, _, x) => x | none => false
    if f.length < h + 44 ∨ (f.getD h 0#8).toNat % 16 ≠ 0 then (f, false)
    else if 128 ≤ h ∨ ext then (f, true)
    else
      let g := patch f (h + 34) ts
      match udp with
      | none => (g, false)
      | some (false, u, _) => (patch g (u + 6) (leBytes 2 0), false)
      | some (true, u, _) =>
        let e := u + (f.getD (u + 4) 0#8).toNat * 256 + (f.getD (u + 5) 0#8).toNat
        let k := if (e - u) % 2 = 0 then 1 else 256
        let old := wordSum ((f.drop (h + 34)).take 10) + k * wordSum ((f.drop (e - 2)).take 2)
        (patch g (e - 2) (beBytes 2 (k * (old + 65535 * 10 - wordSum ts) % 65535)), false)

/-- The frame of a transmit descriptor as it goes to the line, and ONESTEP_FAIL: insertion is made where the descriptor asks for
it and HOLD.ONESTEP_EN is set (R98). -/
def State.txFrame (s : State) (n : Nat) (d f : List Byte) : List Byte × Bool :=
  if bitOf (leNat ((d.drop 12).take 1)) 1 ∧ bitOf (s.ptuAt n).hold.toNat 16 then s.oneStep n f else (f, false)

/-! ### The ring: reach, suspension, joining (R379 to R382, R386) -/

/-- Is peer `q` reached over either port? -/
def State.reached_ (s : State) (q : Nat) : Bool := (s.peerPort q).isSome

/-- A change of a bound peer's reachability draws new tokens for mailboxes 8 and 9 (R407). -/
def State.reachTokens (s : State) (before : State) : State :=
  s.dueTokens fun m => s.man.peers.any fun e => e.mb == some m && s.reached_ e.src.val != before.reached_ e.src.val

/-- A contract with a ring flow. -/
def Contract.onRing (k : Contract) : Bool := k.flows.any fun f => match f.dst with | .peer _ => true | _ => false

/-- Requests routed over ring port `p` are answered RESET_ABORT. -/
def State.ringAbort (s : State) (p : Nat) : State := s.abortWhere fun r => r.dst == portRouter p

/-- The bypass of port `p` closes: no peer is reached over it, requests over it are aborted, ring contracts are
suspended, and a RING_JOIN that waits ends. -/
def State.ringClose (s : State) (p : Nat) : State :=
  let r := s.ring p
  let t := s.setRing p { r with st := .bypassed, closed := true, leader := false, members := 0, path := [], join := none, unacked := [], rxHold := none }
  let t := (t.ringAbort p).suspendWhere (fun _ k => k.onRing) 2 (portRouter p) (some (s.now + 1000000))
  let t := t.reachTokens s
  match r.join with
  | some j => t.finish j.1 .wrongState (leBytes 4 0)
  | none => t

def execBypassClose (p : Fin 2) (s : State) : Out :=
  .next (if s.ringPresent p.val ∧ ¬ (s.ring p.val).closed then s.ringClose p.val else s)

/-- The rate that a segment with bypassed devices can reach (R380). -/
def segmentRate (bypassed rate : Nat) : Nat := if 2 < bypassed then 0 else if 0 < bypassed then min rate 3 else rate

/-- The paths over a port: each reached peer's H and number of segments are measured across other devices, so they are
free values. -/
def State.newPaths (s : State) (peers : Nat) : Tab RingPath × State :=
  (maskList 16 peers).foldl (fun (a : Tab RingPath × State) (q : Nat) =>
    let h := a.2.fresh 24
    let n := h.2.fresh 4
    (tput a.1 {} q { h := h.1, hops := n.1, reach := true }, n.2)) ([], s)

/-- Port `p` has trained its segments: UP with the result, or its join failed for a duplicate ring ID (R381). -/
def State.ringTrained (s : State) (x : SegmentTrain) : State :=
  let p := x.port.val
  let r := s.ring p
  match r.join with
  | none => s
  | some j =>
    if x.conflict then
      ((s.setRing p { r with st := .bypassed, closed := true, join := none }).raise (822 + p) [0]).finish j.1 .authFailed (leBytes 4 0)
    else
      let rate := min (segmentRate x.bypassed.val x.rate.val) r.maxRate
      let w := s.newPaths (x.peers.toNat - (if inMask x.peers.toNat r.ringId.toNat then 2 ^ r.ringId.toNat else 0))
      let t := w.2.setRing p { r with
        st := .up
        closed := false
        rate := rate
        leader := decide (x.leaderId.val = r.ringId.toNat)
        leaderId := BitVec.ofNat 4 x.leaderId.val
        members := w.1.length + 1
        segI := x.latency
        segO := x.latency
        bypI := BitVec.ofNat 3 x.bypassed.val
        bypO := BitVec.ofNat 3 x.bypassed.val
        path := w.1
        join := none }
      ((t.ringAbort p).reachTokens s).finish j.1 .ok (leBytes 4 rate)

/-- QUIET_SLOT (R381): every ring contract is suspended until 1 ms after the slot of 200 µs; waiting ports train. -/
def execQuietSlot (res : List SegmentTrain) (s : State) : Out :=
  .next (let e := s.now + 200000
    if ¬ s.ringPresent 0 then s
    else
      let s := ({ s with ser.quietEnd := some e } : State).suspendWhere (fun _ k => k.onRing) 1 0xFFFF (some (e + 1000000))
      res.foldl State.ringTrained s)

/-- JOIN_TIMEOUT: no WINDOW cell within 30 ms of RING_JOIN. The bypass opens, and the port trains with what answers. -/
def execJoinTimeout (p : Fin 2) (res : Option SegmentTrain) (s : State) : Out :=
  .next (let r := s.ring p.val
    match r.join with
    | none => s
    | some j =>
      if r.st ≠ .waiting ∨ s.now < j.2 + 30000000 then s
      else
        let s := s.setRing p.val { r with st := .training, closed := false }
        match res with
        | some x => if x.port = p then s.ringTrained x else s
        | none => s)

/-- Segment of port `p` has failed: its heal begins (R386, R288). Ring contracts are suspended, and requests over it answered
RESET_ABORT. -/
def State.healStart (s : State) (p : Nat) : State :=
  ((s.modRing p fun x => { x with st := .healing }).ringAbort p).suspendWhere (fun _ k => k.onRing) 2 (portRouter p) none

/-- SEGMENT_HEAL (R386): the segment is retrained, or the ring is broken at the port. -/
def execSegmentHeal (p : Fin 2) (trained : Option (Fin 6)) (s : State) : Out :=
  .next (let r := s.ring p.val
    if r.st ≠ .up ∧ r.st ≠ .healing then s
    else
      let lost : List Owner := match trained with
        | some _ => []
        | none => r.unacked.filterMap fun (c : Option Owner × List Byte) => c.1
      let r := { r with heals := satInc r.heals, strikeLost := satAdd r.strikeLost lost.length }
      let t := s.setRing p.val (match trained with
        | some x => { r with st := .up, rate := segmentRate r.bypI.toNat (min x.val r.maxRate) }
        | none => { r with st := .failed, path := [], unacked := [] })
      let t := lost.foldl (fun (t : State) (o : Owner) => t.raise 824 [o]) t
      let t := (t.raise (818 + p.val) [0]).ringAbort p.val
      (t.suspendWhere (fun _ k => k.onRing) 2 (portRouter p.val) (some (s.now + 1000000))).reachTokens s)

/-- RING_MEASURE (R382): a change of more than 50 ps is a drift. -/
def execRingMeasure (p : Fin 2) (lat : BitVec 24) (s : State) : Out :=
  .next (let r := s.ring p.val
    if r.st ≠ .up then s
    else
      let d := ((lat.toNat : Int) - r.segO.toNat).natAbs
      let s := s.setRing p.val { r with
        segO := lat
        path := r.path.map fun (e : Nat × RingPath) => (e.1, { e.2 with h := e.2.h + lat - r.segO }) }
      if 50 * 256 < d * 1000 then s.raise (820 + p.val) [0] else s)

/-! ### Ring commands (R392) -/

/-- Is there a contract with a ring flow in force? -/
def State.ringContract (s : State) : Bool := s.contracts.any fun e => e.2.onRing && decide (e.2.st ≠ .revoked ∧ e.2.st ≠ .demoted)

def ringJoin (m : Mb) (r : Running) (s : State) : Ans :=
  let p := r.u32 0x10
  s.withConfig m
    (if 1 < p ∨ 5 < r.u32 0x14 ∨ 10000 < r.u32 0x18 ∨ 1 < r.u32 0x1C ∨ ¬ s.ringPresent p ∨ ¬ s.mbx.ready ∨ s.configOnly then no .wrongState s
    else if (s.ring p).join.isSome ∨ (¬ bitOf (r.u32 0x1C) 0 ∧ s.ringContract) then no .wrongState s
    else .accepted ({ s with ser.windowMs := r.u32 0x18 }.modRing p fun x => { x with
      st := if x.st = RingState.up then RingState.up else RingState.waiting
      maxRate := r.u32 0x14
      join := some (m, s.now) }))

def execRingJoin (m : Mb) (s : State) : Out := .next (s.serve m 0x0A20 anyForm 0x14 (ringJoin m))

/-- A command on a ring port. -/
def State.withRing (s : State) (p : Nat) (f : Ans) : Ans :=
  if 1 < p then no .wrongState s else if ¬ s.ringPresent p then no .absentUnit s else f

def execRingLeave (m : Mb) (s : State) : Out :=
  .next (s.serve m 0x0A21 anyForm 0x10 fun r s => s.withConfig m (s.withRing (r.u32 0x10) (ok (s.ringClose (r.u32 0x10)))))

def ringCode : RingState → Nat
  | .bypassed => 0
  | .waiting => 1
  | .training => 2
  | .up => 3
  | .healing => 4
  | .failed => 5

/-- The words of port `p`: LNK_STAT, SEGI, SEGO, ERR. -/
def RingPort.word (r : RingPort) (i : Nat) : W32 :=
  match i with
  | 0 => packW [(0, ringCode r.st), (3, b2n r.closed), (4, r.rate), (7, b2n r.leader), (8, r.ringId.toNat), (12, r.leaderId.toNat),
      (16, r.members)]
  | 1 => packW [(0, r.segI.toNat), (24, r.bypI.toNat)]
  | 2 => packW [(0, r.segO.toNat), (24, r.bypO.toNat)]
  | 3 => packW [(0, r.replay.toNat), (16, r.heals.toNat), (24, r.strikeLost.toNat)]
  | _ => 0#32

def RingPort.peerWord (r : RingPort) (q : Nat) : W32 :=
  let w := tget r.path {} q
  packW [(0, w.h.toNat), (24, w.hops.toNat), (31, b2n w.reach)]

def execRingQuery (m : Mb) (s : State) : Out :=
  .next (s.serve m 0x0A22 anyForm 0x60 fun r s => s.withRing (r.u32 0x10)
    (let p := s.ring (r.u32 0x10)
     ok s (((List.range 4).flatMap fun i => leBytes 4 (p.word i).toNat) ++ (List.range 16).flatMap fun q => leBytes 4 (p.peerWord q).toNat)))

def ringAxisExport (m : Mb) (r : Running) (s : State) : Ans :=
  let n := r.u32 0x10
  if 15 < n ∨ 1 < r.u32 0x14 then no .wrongState s
  else if ¬ s.ringPresent 0 then no .absentUnit s
  else if (s.axis n).controller ≠ s.issuer m then no .notOwner s
  else
    let a : AxisId := Fin.ofNat 16 n
    if r.u32 0x14 = 0 then ok { s with ser.exports := s.ser.exports.filter fun (x : AxisId) => x != a }
    else if s.ser.exports.contains a then ok s
    else if 4 ≤ s.ser.exports.length then no .refusedResources s
    else ok { s with ser.exports := s.ser.exports ++ [a] }

def execRingAxisExport (m : Mb) (s : State) : Out := .next (s.serve m 0x0A23 anyForm 0x10 (ringAxisExport m))

def ringWindow (m : Mb) (r : Running) (s : State) : Ans :=
  s.withConfig m
    (if ¬ s.ringPresent 0 then no .absentUnit s
    else if r.u64 0x10 % 2 ^ 20 ≠ 0 ∨ 2 ^ 48 ≤ r.u64 0x10 ∨ 2 ^ 36 - 2 ^ 20 < r.u64 0x18 then no .wrongState s
    else ok { s with ser.ebase := r.u64 0x10, ser.esize := r.u64 0x18 })

def execRingWindow (m : Mb) (s : State) : Out := .next (s.serve m 0x0A24 anyForm 0x10 (ringWindow m))

/-! ### Cells (R377, R378) -/

/-- A control cell: type, source and destination, SEQ, body, PREV_CRC over the data cells before it, and CRC. -/
def controlCell (type src dst seq : Nat) (trail body : List Byte) : List Byte :=
  let b := leBytes 1 type ++ leBytes 1 (src + 16 * dst) ++ leBytes 2 seq ++ padTo 52 (body.take 52) ++
    leBytes 4 (crc32c trail).toNat
  b ++ leBytes 4 (crc32c b).toNat

/-- A control cell with the data cells that follow it, handed to port `p`: kept for replay while among the latest 64 KiB
(R378). -/
def State.ringSendData (s : State) (p : Fin 2) (o : Option Owner) (type dst : Nat) (body data : List Byte) : State :=
  let r := s.ring p.val
  let d := padTo (ceilDiv data.length 64 * 64) data
  let c := controlCell type r.ringId.toNat dst (r.txSeq % 65536) r.trail body ++ d
  let u := r.unacked ++ [(o, c)]
  { s.setRing p.val { r with txSeq := r.txSeq + 1, unacked := u.drop (u.length - 1024), trail := d } with
      ser.cells := s.ser.cells ++ [(p, c)] }

/-- A control cell without data. -/
def State.ringSend (s : State) (p : Fin 2) (o : Option Owner) (type dst : Nat) (body : List Byte) : State :=
  s.ringSendData p o type dst body []

/-- The other port. -/
def otherPort (p : Fin 2) : Fin 2 := if p = 0 then 1 else 0

/-- LINK cells ACK and NAK, which name a SEQ; they are not kept for replay. -/
def State.ringAck (s : State) (p : Fin 2) (nak : Bool) (seq : Nat) : State :=
  let q := otherPort p
  let c := controlCell 5 (s.ring p.val).ringId.toNat 0 0 (s.ring q.val).trail (leBytes 1 (4 + b2n nak) ++ leBytes 2 seq)
  { s.modRing q.val fun x => { x with trail := [] } with ser.cells := s.ser.cells ++ [(q, c)] }

/-- A forwarder's change of a cell's body (R384, R385): AGE of an AXIS cell grows by the incoming segment's latency; REMAIN of a
STRIKE cell shrinks by it, to 0 at the least, and its hop count rises. The model's residence time is 0 (DEDUCED, log 96). -/
def forwarded (type lat : Nat) (body : List Byte) : List Byte :=
  let w (i n : Nat) : Nat := leNat ((body.drop i).take n)
  match type with
  | 2 => patch body 19 (leBytes 4 (w 19 4 + lat))
  | 3 => patch body 2 (leBytes 4 (w 2 4 - lat) ++ leBytes 1 (w 6 1 + 1))
  | _ => body

/-- A checked cell goes on where it is for another device; one for this device acts in the row of its TYPE. -/
def State.ringOn (s : State) (p : Fin 2) (type dst : Nat) (body data : List Byte) : State :=
  if dst = (s.ring p.val).ringId.toNat ∨ type = 5 then s
  else s.ringSendData p none type dst (forwarded type (s.ring p.val).segI.toNat body) data

/-- RING_CELL_RECEIVE (R378): a control cell and the data cells that follow it. A bad CRC is answered NAK, another cell is
acknowledged; a cell is delivered once and in order, and one for another device goes on. Data is checked by the next
control cell's PREV_CRC and waits for it. -/
def State.ringCell (s : State) (p : Fin 2) (cell : List Byte) : State :=
  let r := s.ring p.val
  let n := r.rxSeq % 65536
  let seq := leNat ((cell.drop 2).take 2)
  let type := leNat (cell.take 1)
  let dst := leNat ((cell.drop 1).take 1) / 16
  let body := (cell.drop 4).take 52
  let data := cell.drop 64
  let prev : List Byte := match r.rxHold with | some h => h.2.2.2 | none => []
  if r.st ≠ .up ∨ cell.length < 64 ∨ cell.length % 64 ≠ 0 then s
  else if leNat ((cell.drop 60).take 4) ≠ (crc32c (cell.take 60)).toNat then s.ringAck p true n
  else if seq ≠ n then s.ringAck p false seq
  else if leNat ((cell.drop 56).take 4) ≠ (crc32c prev).toNat then
    (s.setRing p.val { r with rxSeq := r.rxSeq + 65535, rxHold := none }).ringAck p true ((n + 65535) % 65536)
  else
    let s := s.setRing p.val { r with rxSeq := r.rxSeq + 1, rxHold := none }
    let s := match r.rxHold with
      | some h => (s.ringAck p false ((n + 65535) % 65536)).ringOn p h.1 h.2.1 h.2.2.1 h.2.2.2
      | none => s
    if data = [] then (s.ringAck p false seq).ringOn p type dst body []
    else s.modRing p.val fun x => { x with rxHold := some (type, dst, body, data) }

def execRingCellReceive (p : Fin 2) (cell : List Byte) (s : State) : Out := .next (s.ringCell p cell)

/-- A replay from the `i`-th unacknowledged cell on; more than 16 within 1 ms fail the segment. -/
def State.ringReplay (s : State) (p : Fin 2) (i : Nat) : State :=
  let r := s.ring p.val
  let ms := s.now / 1000000
  let n := if r.replayMs.1 = ms then r.replayMs.2 + 1 else 1
  let u := r.unacked.drop i
  let s := s.setRing p.val { r with
    unacked := u
    replay := satInc r.replay
    replayMs := (ms, n) }
  let s := ({ s with ser.cells := s.ser.cells ++ u.map fun (c : Option Owner × List Byte) => (p, c.2) } : State).raise (816 + p.val) []
  if 16 < n then s.healStart p.val else s

/-- RING_NAK: cells before the named SEQ have arrived. -/
def execRingNak (p : Fin 2) (seq : BitVec 16) (s : State) : Out :=
  .next (let r := s.ring p.val
    match r.unacked.findIdx? fun c => leNat ((c.2.drop 2).take 2) == seq.toNat with
    | some i => if r.st = .up then s.ringReplay p i else s
    | none => s)

def execRingAckTimeout (p : Fin 2) (s : State) : Out :=
  .next (let r := s.ring p.val
    if r.st = .up ∧ r.unacked ≠ [] then s.ringReplay p 0 else s)

/-! ### Axes and strikes on the ring (R384, R385) -/

def axStateCode : AxState → Nat
  | .disabled => 0
  | .running => 1
  | .extrap => 2
  | .clamped => 3
  | .held => 4
  | .stalled => 5

/-- AXIS_CELL_SEND: one AXIS cell of an exported, enabled axis on both rings. -/
def State.axisCell (s : State) (n : AxisId) : State :=
  let a := s.axis n.val
  if ¬ s.ser.exports.contains n ∨ a.st = .disabled then s
  else
    let body := leBytes 1 n.val ++ leBytes 8 a.pos.toNat ++ leBytes 8 (s.axisRate n.val).toNat ++ leBytes 1 (axStateCode a.st) ++
      leBytes 1 a.epochOut.toNat ++ leBytes 4 0
    (List.finRange 2).foldl (fun (t : State) (p : Fin 2) =>
      if (t.ring p.val).st = .up then t.ringSend p none 2 (t.ring p.val).ringId.toNat body else t) s

def execAxisCellSend (n : AxisId) (s : State) : Out := .next (s.axisCell n)

/-- AXIS_CELL_RECEIVE: every RING axis that names this port, peer and axis takes the sample, whose age is AGE and the incoming
segment's latency (DEDUCED, log 96); a changed epoch is a
discontinuity. -/
def State.axisSample (s : State) (p : Fin 2) (src : Fin 16) (c : AxisCell) : State :=
  (List.range 16).foldl (fun (t : State) (n : Nat) =>
    let a := t.axis n
    let w := a.cfg.srcReg.toNat
    if a.cfg.src.toNat = 24 ∧ bitsOf w 25 4 = src.val ∧ bitsOf w 31 1 = p.val ∧ bitsOf w 0 4 = c.ax.val ∧ a.st ≠ .disabled then
      t.setAxis n { a with
        ringPos := c.pos
        ringRate := c.rate
        ringAge := c.age.toNat + (t.ring p.val).segI.toNat
        ringTime := t.now
        ringTimeAxis := c.timeAxis
        ringEpoch := some c.epoch
        discPend := a.discPend || (match a.ringEpoch with | some e => e ≠ c.epoch | none => false) }
    else t) s

def execAxisCellReceive (p : Fin 2) (src : Fin 16) (c : AxisCell) (s : State) : Out :=
  .next (if (s.ring p.val).st = .up then s.axisSample p src c else s)

/-- STRIKE_CELL_LAUNCH: REMAIN is t0 − launch on a time axis, t0 + H_q − launch on another. A port that is not UP loses
the strike. -/
def State.strikeLaunch (s : State) (slot : Nat) : State :=
  match s.stk.launches.find? fun l => l.1 == slot with
  | none => s
  | some l =>
    let (_, o, port, peer, entry, t0) := l
    let p : Fin 2 := Fin.ofNat 2 port
    let r := s.ring port
    let s := { s with stk.launches := s.stk.launches.erase l }
    if r.st = .up ∧ (tget r.path {} peer).reach then
      let h := if s.timeAxis (s.strike slot).ax then 0 else (tget r.path {} peer).h.toNat
      s.ringSend p (some o) 3 peer (leBytes 2 entry ++ leBytes 4 (t0 + h - 256 * s.now) ++ leBytes 1 0)
    else (s.modRing port fun x => { x with strikeLost := satInc x.strikeLost }).raise 824 [o]

def execStrikeCellLaunch (slot : SlotId) (s : State) : Out := .next (s.strikeLaunch slot.val)

/-- STRIKE_CELL_RECEIVE: the template at the slot offset within the allotment of the sender's owner acts at arrival +
REMAIN − incoming segment latency. -/
def State.strikeArrive (s : State) (p : Fin 2) (src : Fin 16) (off remain : Nat) : State :=
  let o := s.peerOwner p.val src.val
  let a := s.allot o.val
  if a.count ≤ off then s
  else
    let slot := a.base + off
    let e := s.strike slot
    let t : Int := 256 * (s.now : Int) + remain - (s.ring p.val).segI.toNat
    let late := decide (t < 256 * (s.now : Int) + 32 * 256)
    let t0 := (max t (256 * (s.now : Int))).toNat
    if ¬ e.valid ∨ ¬ [1, 2, 4, 5].contains e.action then s.strikeDrop slot o 2
    else if late then
      let s := (s.modStrike slot fun x => { x with late := true }).modAllot o.val fun x => { x with late := satInc x.late }
      if e.discard then s else s.gated slot { e with pos := s.posAt e.ax t0, late := true } t0 true
    else s.gated slot { e with pos := s.posAt e.ax t0 } t0 false

def execStrikeCellReceive (p : Fin 2) (src : Fin 16) (slotOff : BitVec 16) (remain : BitVec 32) (s : State) : Out :=
  .next (if (s.ring p.val).st = .up then s.strikeArrive p src slotOff.toNat remain.toNat else s)

/-! ### Registers (R389 to R391) -/

/-- Bytes of the receive buffer held by pushes, in 64-byte units, and whether posted credits are withheld (R252). -/
def State.hostHold (s : State) : Nat :=
  let held := (s.qcu.held.filter fun h => match h.who with | .initiator (.pf _) => true | _ => false).map fun h => ceilDiv h.data.length 64
  (held ++ s.pce.posted.map fun w => ceilDiv w.data.length 64).foldl (· + ·) 0

def State.pceRead (s : State) (off : Nat) : W32 :=
  let p := s.pce
  let half (v i : Nat) : W32 := BitVec.ofNat 32 (v / 2 ^ (32 * i))
  if off = 0 then packW [(0, if p.linkUp then 2 else if p.training.isSome then 1 else 0), (3, if p.linkUp then p.set.maxRate else 0),
    (6, if p.linkUp then p.set.maxWidth else 0), (11, b2n (p.linkUp && p.set.maxRate = 5)), (12, b2n p.crs), (13, b2n p.set.pf1)]
  else if off = 4 then packW [(0, p.corr.toNat), (16, p.errDrop.toNat)]
  else if off = 8 then packW [(0, min 65535 s.hostHold), (16, b2n s.hostHeld)]
  else if off = 0xC then p.drop
  else if off = 0x10 then half (p.abase * 2 ^ 36) 0
  else if off = 0x14 then half (p.abase * 2 ^ 36) 1
  else if 0x100 ≤ off ∧ off < 0x200 then
    let w := s.outWin ((off - 0x100) / 16)
    match off % 16 with
    | 0 => half (w.hbase / 4096 * 4096) 0
    | 4 => half w.hbase 1
    | 8 => packW [(0, b2n w.taken), (1, w.owner.val), (5, w.fn.val), (6, w.attr.toNat)]
    | _ => 0#32
  else 0#32

def State.glnRead (s : State) (off : Nat) : W32 :=
  if off < 0x100 then
    let i := off / 4
    let l := s.lane i
    if s.lanePresent (i / 8) then packW [(0, l.use), (2, b2n l.lock), (3, b2n (decide (l.use = 0))), (8, l.rate.toNat)] else 0#32
  else if 0x200 ≤ off ∧ off < 0x220 then
    let k := (off - 0x200) / 4
    let g := s.laneGroup k
    if s.lanePresent k then packW [(0, b2n g.refOk), (1, b2n (bitOf s.ckr.pwrUnit.toNat (24 + k))), (16, g.refFreq.toNat)] else 0#32
  else 0#32

def State.jlkRead (s : State) (off : Nat) : W32 :=
  let n := off / 0x40
  let j := s.jesd n
  if 8 ≤ n ∨ ¬ s.lanePresent n then 0#32
  else match off % 0x40 with
    | 0 => packW [(0, b2n j.en), (1, b2n j.tx), (2, b2n j.std), (3, j.lanes - 1), (6, j.sector.val), (13, j.ax.val), (17, b2n j.sysrefIn)]
    | 4 => packW [(0, j.st), (2, s.jesdLocked n), (16, j.realign.toNat)]
    | 8 => j.lat.setWidth 32
    | 0xC => packW [(0, j.crc.toNat), (16, j.invalid.toNat)]
    | _ => 0#32

def State.emcRead (s : State) (off : Nat) : W32 :=
  let n := off / 0x100
  let x := s.mac n
  if 2 ≤ n then 0#32
  else match off % 0x100 with
    | 0 => packW [(0, x.rate), (3, x.fec)]
    | 4 => packW [(0, b2n x.link), (1, b2n (x.rate ≠ 0 && s.macLocked n)), (2, b2n (x.link && x.fec ≠ 0)), (16, x.down.toNat)]
    | 8 => x.rx
    | 0xC => x.tx
    | 0x10 => packW [(0, x.fcs.toNat), (16, x.nobuf.toNat)]
    | _ => 0#32

def State.lnkRead (s : State) (off : Nat) : W32 :=
  let p := off / 0x100
  let x := off % 0x100
  if 2 ≤ p ∨ ¬ s.ringPresent p then 0#32
  else if x < 0x10 then (s.ring p).word (x / 4)
  else if 0x40 ≤ x ∧ x < 0x80 then (s.ring p).peerWord ((x - 0x40) / 4)
  else 0#32

/-- PCE_DROP is read and cleared. -/
def execPceDropRead (who : Initiator) (s : State) : Out :=
  .next (s.inHostOrder who (ctlBase + 0xD0000C) (some 4) [] fun s =>
    s.rcRead who s.pce.drop fun t => { t with pce.drop := 0#32 })

end Sys2Proof.Machine
end

