-- ==== Sys2Proof/Machine/Debug.lean ====
section
/-!
DEFINITION. Machine/Debug.lean: debug sessions (R463 to R467), engine run control (R468 to R470), comparators (R471,
R472), fabric freeze and readback (R477, R478), the JTAG TAP (R462, R463) and the DBG registers (R486).
-/
namespace Sys2Proof.Machine

/-! ### Sessions (R463 to R465) -/

/-- Does a mailbox accept session commands (R463)? -/
def State.sessionBox (s : State) (m : Mb) : Bool := m = 10 || m = jtagBox || (s.man.debugBoxes.take 2).contains m

/-- The session open on mailbox `m`. -/
def State.sessionOf (s : State) (m : Mb) : Option (Fin 4) :=
  (List.finRange 4).find? fun (i : Fin 4) => (s.sess i).live && (s.sess i).mb == m

/-- RESUME of R468: the engine leaves HALTED into the state it halted from, its watchdog with at least 1,024 cycles left (R216),
and a halt not yet taken is withdrawn. -/
def State.engResume (s : State) (g : Nat) : State :=
  s.modEngAt g fun e => if ¬ e.halted then { e with haltReq := false, steps := 0 } else { e with
    halted := false
    haltReq := false
    steps := 0
    frozen := false
    wdog := if e.st = EngState.task ∧ e.wdog.toNat < 1024 then 1024#24 else e.wdog
    wdogAt := s.now * 5 / 4 }

/-- Is a request waiting at the fabric target window of a sector? -/
def State.waitsAt (s : State) (sec : Nat) (r : Req) : Bool :=
  decide (r.stage = .target) && (match s.place r.addr r.len with | .fabric n _ => n == sec | _ => false)

/-- A sector's clocks run again after `d` ns: target requests have their timeouts left, and its heartbeat watchdogs start a full
period (R127, R477). -/
def State.sectorResumes (s : State) (sec d : Nat) : State := { s with
  noc.req := tmap s.noc.req none fun (q : Option Req) => q.map fun r => if s.waitsAt sec r then { r with since := r.since + d } else r
  fab.heart := tmap s.fab.heart {} fun (h : Heartbeat) =>
    if h.sector = some (Fin.ofNat 96 sec) then { h with last := s.now } else h }

/-- DBG_THAW of one sector (R477, R478): its clocks run again and its capture ends. -/
def State.thaw (s : State) (sec : Nat) : State :=
  let x := s.sector sec
  let s := if x.frozen then s.sectorResumes sec (s.now - x.frozenAt) else s
  let s := s.modSector sec fun x => { x with frozen := false, capture := false }
  (sectorQuads sec).foldl (fun (t : State) (q : Nat) => { t with dbg.snap := tput t.dbg.snap none q none }) s

/-- The comparators of an engine disabled. -/
def Eng.disarm (e : Eng) : Eng :=
  { e with dbg := { e.dbg with ctl := e.dbg.ctl.map (· &&& 0xFFFFFFFE#32), armed := 0#8, bkptAct := 0, session := none } }

/-- The end of a session (R464): engines resumed, sectors thawed, comparators disabled. -/
def State.endSession (s : State) (i : Fin 4) : State :=
  let x := s.sess i
  if ¬ x.live then s
  else
    let s := x.engines.foldl (fun (t : State) (g : EngineId) => if (t.engAt g).halted ∨ (t.engAt g).haltReq then t.engResume g else t) s
    let s := x.sectors.foldl (fun (t : State) (c : SectorId) => t.thaw c) s
    let s := { s with eng := s.eng.map fun (e : Nat × Eng) => if e.2.dbg.session = some i then (e.1, e.2.disarm) else e }
    (s.setSess i {}).raise 849 []

/-- Every session ends (R464, R482, R483). -/
def State.endSessions (s : State) : State := (List.finRange 4).foldl State.endSession s

/-- A failed authorisation of owner `o` (R466, R467). -/
def State.authFail (s : State) (o : Owner) : Ans := no .authFailed (s.raise 850 [o, 0])

/-- Open a session on mailbox `m` (R464): refused where one is open there. -/
def State.openSession (s : State) (m : Mb) (o : Owner) (level : Nat) (key : Option (List Byte)) : Option State :=
  match s.sessionOf m, (List.finRange 4).find? fun (i : Fin 4) => !(s.sess i).live with
  | none, some i =>
    some ((s.setSess i { live := true, owner := o, level := level, mb := m, key := key.getD [], keyed := key.isSome }).raise
      848 [o, 0])
  | _, _ => none

/-- The check that every command of a session opened with a certificate carries (R467): CTR rising, then the tag. -/
def Session.tagOk (x : Session) (r : Running) : Bool :=
  let n := r.length
  !x.keyed || (40 ≤ n &&
    (match x.ctr with | none => true | some c => decide (c < rdLE r.buf (n - 24) 8)) &&
    decide (r.bytes (n - 16) 16 = fit 16 (Config.cmac x.key (r.bytes 0 (n - 16)))))

/-- A session command (R463 to R465, R488): on a mailbox that accepts it, in a session of at least a level, with a good
tag. Without a session, or above its level, the answer is AUTH_FAILED; a bad tag ends the session. -/
def State.inSession (s : State) (m : Mb) (r : Running) (level : Nat) (f : Fin 4 → Session → State → Ans) : Ans :=
  if ¬ s.sessionBox m then no .wrongState s
  else match s.sessionOf m with
    | none => no .authFailed s
    | some i =>
      let x := s.sess i
      if ¬ x.tagOk r then (s.endSession i).authFail x.owner
      else if x.level < level then no .authFailed s
      else
        let s := if x.keyed then s.setSess i { x with ctr := some (rdLE r.buf (r.length - 24) 8) } else s
        f i (s.sess i) s

/-! ### Authorisation (R465 to R467) -/

/-- Seconds for which attempts are refused after failure `n` in a row (R466). -/
def lockoutSeconds (n : Nat) : Nat := if n < 4 then 0 else min (2 ^ (n - 4)) 4096

/-- A failure of DBG_AUTH for owner `o` (R466). -/
def State.pwdFail (s : State) (o : Owner) : Ans :=
  let n := (tget s.dbg.fails (0, 0) o).1 + 1
  let s := { s with dbg.fails := tput s.dbg.fails (0, 0) o (n, s.now + lockoutSeconds n * 1000000000) }
  (if 4 ≤ n then s.raise 851 [o, 0] else s).authFail o

/-- Does a password open level 1 for owner `o`? A record without PWD refuses. -/
def State.pwdOk (s : State) (o : Owner) (pw : List Byte) : Bool :=
  match s.man.pwd.find? fun e => e.1 == o with
  | some e => Config.sha384 (e.2.1 ++ pw) = e.2.2
  | none => false

def dbgAuth (m : Mb) (r : Running) (s : State) : Ans :=
  let v := r.u8 0x10
  let o : Owner := Fin.ofNat 16 v
  let f := tget s.dbg.fails (0, 0) o
  let done (l : Nat) : Ans :=
    match ({ s with dbg.fails := tput s.dbg.fails (0, 0) o (0, 0) } : State).openSession m o l none with
    | some s' => ok s'
    | none => no .wrongState s
  if ¬ s.sessionBox m ∨ 16 ≤ v ∨ (s.sessionOf m).isSome then no .wrongState s
  else if s.sec.lc = .blank then done 2
  else if 4 ≤ f.1 ∧ s.now < f.2 then no .authFailed s
  else if s.sec.lc = .owned ∧ s.pwdOk o (r.bytes 0x14 32) then done 1
  else s.pwdFail o

def execDbgAuth (m : Mb) (s : State) : Out := .next (s.serve m 0x0B01 anyForm 0x10 (dbgAuth m))

/-- The digest of the debug key of owner `o` (R467). -/
def State.dbgKeyDigest (s : State) (o : Owner) : Option (List Byte) :=
  match s.man.dbgKey.find? fun e => e.1 == o with
  | some e => some e.2
  | none => if o = 0 then s.sec.digest else none

/-- The checks of a debug certificate (R467). -/
def State.certOk (s : State) (o : Owner) (cert signer : List Byte) : Bool :=
  let serial := leNat ((cert.drop 8).take 8)
  (s.sec.lc = .blank || s.sec.lc = .owned || s.sec.lc = .deployed) &&
  leNat (cert.take 4) = 0x51564443 && leNat ((cert.drop 4).take 1) = o.val && leNat ((cert.drop 5).take 1) = 2 &&
  leNat ((cert.drop 6).take 2) = 0 && leNat (cert.drop 0xD0) = 0 && (serial = 0 || serial = s.sec.serial.toNat) &&
  s.dbgKeyDigest o = some (Config.sha384 signer) &&
  Config.ecdsaOk signer (Config.sha384 (cert.take 0x70)) ((cert.drop 0x70).take 96)

def dbgAuthBegin (m : Mb) (r : Running) (s : State) : Ans :=
  let v := r.u8 0x10
  let o : Owner := Fin.ofNat 16 v
  let cert := r.bytes 0x14 256
  let eDbg := r.bytes 0x174 96
  if ¬ s.sessionBox m ∨ 16 ≤ v ∨ (s.sessionOf m).isSome then no .wrongState s
  else if ¬ s.certOk o cert (r.bytes 0x114 96) then s.authFail o
  else
    let priv := s.freshBytes 48
    let chal := priv.2.freshBytes 32
    let s := chal.2
    let eDev := fit 96 (Config.ecPublic priv.1)
    let serial := leBytes 8 s.sec.serial.toNat
    let t := Config.sha384 (cert ++ eDbg ++ eDev ++ chal.1 ++ serial)
    let key := (Config.sha384 (Config.ecdh priv.1 eDbg ++ t)).take 32
    ok { s with dbg.exch := tput s.dbg.exch none m (some { owner := o, t := t, key := key, pub := (cert.drop 0x10).take 96, since := s.now }) }
      (eDev ++ chal.1 ++ serial)

def execDbgAuthBegin (m : Mb) (s : State) : Out := .next (s.serve m 0x0B02 anyForm 0x98 (dbgAuthBegin m))

/-- The end of an exchange. -/
def State.dropExch (s : State) (m : Mb) : State := { s with dbg.exch := tput s.dbg.exch none m none }

def dbgAuthFinish (m : Mb) (r : Running) (s : State) : Ans :=
  if ¬ s.sessionBox m then no .wrongState s
  else match tget s.dbg.exch none m with
    | none => s.authFail 0
    | some e =>
      let s := s.dropExch m
      if s.now ≤ e.since + 10000000000 ∧ Config.ecdsaOk e.pub e.t (r.bytes 0x10 96) ∧
          r.bytes 0x70 16 = fit 16 (Config.cmac e.key e.t) then
        match s.openSession m e.owner 2 (some e.key) with
        | some s' => ok s'
        | none => no .wrongState s
      else s.authFail e.owner

def execDbgAuthFinish (m : Mb) (s : State) : Out := .next (s.serve m 0x0B03 anyForm 0x10 (dbgAuthFinish m))

/-- AUTH_FINISH_TIMEOUT (R467). -/
def execAuthFinishTimeout (m : Mb) (s : State) : Out :=
  .next (match tget s.dbg.exch none m with
    | some e => if e.since + 10000000000 < s.now then (s.dropExch m).raise 850 [e.owner, 0] else s
    | none => s)

def execDbgEnd (m : Mb) (s : State) : Out :=
  .next (s.serve m 0x0B04 anyForm 0x10 fun r s => s.inSession m r 1 fun i _ s => ok (s.endSession i))

/-- SESSION_TOKEN_DRAW (R407): the debug session of the mailbox ends (R464) and it has a new token; a pending response is discarded and the mailbox returns to IDLE, while a command in
progress runs to its end. -/
def execSessionTokenDraw (m : Mb) (s : State) : Out :=
  .next (if ¬ (s.box m).tokenDue then s
  else
    let s := (match s.sessionOf m with | some i => s.endSession i | none => s).dropExch m
    let g := s.freshNonZero 32
    let b := s.box m
    let s := g.2.setBox m { b with
      token := g.1
      tokenDue := false
      st := .idle
      interim := false
      run := b.run.map fun r => { r with discard := true } }
    if b.run.isNone then s.took m else s)

/-! ### Engine run control (R468 to R470) -/

/-- The owner of an engine's kit. -/
def State.engOwner (s : State) (g : Nat) : Owner := (s.kitAt (g / 8)).owner

/-- Checks of engines named by a session command: present, and in kits of the session's owner (R488). -/
def State.withEngines (s : State) (o : Owner) (gs : List Nat) (f : Ans) : Ans :=
  if gs.any fun g => !s.engPresent g then no .absentUnit s
  else if gs.any fun g => s.engOwner g ≠ o then no .notOwner s
  else f

def engHaltCmd (m : Mb) (r : Running) (s : State) : Ans :=
  s.inSession m r 1 fun i x s =>
    let gs := maskList 128 (r.fld 0x10 16)
    s.withEngines x.owner gs (ok (gs.foldl State.engHalt (s.sessHalts (some i) gs)))

def execDbgEngHalt (m : Mb) (s : State) : Out :=
  .next (s.serve m 0x0B10 (fun r => r.u32 0x20 = 0) 0x18 (engHaltCmd m))

def engResumeCmd (m : Mb) (r : Running) (s : State) : Ans :=
  s.inSession m r 1 fun _ x s =>
    let gs := maskList 128 (r.fld 0x10 16)
    s.withEngines x.owner gs (ok (gs.foldl State.engResume s))

def execDbgEngResume (m : Mb) (s : State) : Out :=
  .next (s.serve m 0x0B10 (fun r => r.u32 0x20 = 1) 0x18 (engResumeCmd m))

/-- STEP n of R468: the engine leaves HALTED and halts again after `n` instructions. -/
def State.engStep (s : State) (g n : Nat) : State :=
  (s.engResume g).modEngAt g fun e => { e with steps := n }

def engStepCmd (m : Mb) (r : Running) (s : State) : Ans :=
  s.inSession m r 1 fun i x s =>
    let g := r.u8 0x10
    let n := r.u32 0x24
    if 128 ≤ g ∨ n = 0 ∨ 65535 < n then no .wrongState s
    else s.withEngines x.owner [g] (ok ((s.sessHalts (some i) [g]).engStep g n))

def execDbgEngStep (m : Mb) (s : State) : Out :=
  .next (s.serve m 0x0B10 (fun r => r.u32 0x20 = 2) 0x18 (engStepCmd m))

/-- A command on one halted engine of the session's owner. -/
def State.onHalted (s : State) (m : Mb) (r : Running) (f : Nat → State → Ans) : Ans :=
  s.inSession m r 1 fun _ x s =>
    let g := r.u8 0x10
    if 128 ≤ g then no .wrongState s
    else s.withEngines x.owner [g] (if (s.engAt g).halted then f g s else no .wrongState s)

/-- A register of a halted engine, as R230 reads its code. -/
def Eng.dbgReg (e : Eng) (c : Nat) : Nat := (({ e with a1 := e.a, sr1 := e.sr } : Eng).src c).1.toNat

def engReadRegCmd (m : Mb) (r : Running) (s : State) : Ans :=
  s.onHalted m r fun g s =>
    let c := r.u32 0x24
    if regKnown c then ok s (pay 0x18 [(0x10, 8, (s.engAt g).dbgReg c)]) else no .wrongState s

def execDbgEngReadReg (m : Mb) (s : State) : Out :=
  .next (s.serve m 0x0B10 (fun r => r.u32 0x20 = 3) 0x18 (engReadRegCmd m))

/-- A register of a halted engine written as before an entry barrier (R468): the next instruction sees it. -/
def Eng.dbgPut (e : Eng) (c : Nat) (v : W24) : Eng :=
  let e' := e.put c v
  { e' with
    a1 := (({ e with a := e.a1 } : Eng).put c v).a
    sr1 := if c = 0x34 then e'.sr else e.sr1
    sr2 := if c = 0x34 then e'.sr else e.sr2
    late := e.late.filter fun l => l.1 ≠ c }

def engWriteRegCmd (m : Mb) (r : Running) (s : State) : Ans :=
  s.onHalted m r fun g s =>
    let c := r.u32 0x24
    let v := r.u64 0x28
    if regWritable c ∧ v < 2 ^ 24 ∧ (c = 0x33 → v ≤ 4) then
      ok (s.modEngAt g fun e => e.dbgPut c (BitVec.ofNat 24 v))
    else no .wrongState s

def execDbgEngWriteReg (m : Mb) (s : State) : Out :=
  .next (s.serve m 0x0B10 (fun r => r.u32 0x20 = 4) 0x18 (engWriteRegCmd m))

def engSetPcCmd (m : Mb) (r : Running) (s : State) : Ans :=
  s.onHalted m r fun g s =>
    let v := r.u32 0x24
    if v < 8192 then ok (s.modEngAt g fun e => { e with pc := BitVec.ofNat 13 v }) else no .wrongState s

def execDbgEngSetPc (m : Mb) (s : State) : Out :=
  .next (s.serve m 0x0B10 (fun r => r.u32 0x20 = 5) 0x18 (engSetPcCmd m))

/-- The first open session of owner `o`. -/
def State.ownSession (s : State) (o : Owner) : Option (Fin 4) :=
  (List.finRange 4).find? fun (i : Fin 4) => (s.sess i).live && (s.sess i).owner == o

/-- A write of DBG_RUN_g (R470): an owner with an open session, of an engine in its kits; any other is dropped with a
note, and a write for an absent engine is ignored (R6). A debug master or the belfry stands for itself. -/
def State.dbgRun (s : State) (who : Initiator) (g : Nat) (f : Option (Fin 4) → State → State) : State :=
  let o := s.ownerOf who
  match s.ownSession o with
  | some i => if ¬ s.engPresent g then s else if s.engOwner g = o then f (some i) s else s.noteOwner who
  | none => if s.engPresent g then s.noteOwner who else s

def State.runHalt (s : State) (who : Initiator) (g : Nat) : State :=
  s.dbgRun who g fun i s => (s.sessHalts i [g]).engHalt g
def State.runResume (s : State) (who : Initiator) (g : Nat) : State := s.dbgRun who g fun _ s => s.engResume g
def State.runStep (s : State) (who : Initiator) (g : Nat) : State :=
  s.dbgRun who g fun i s => (s.sessHalts i [g]).engStep g 1

/-- The address of DBG_RUN_g (R470). -/
def runAddr (g : EngineId) : Nat := ctlBase + 0x1310068 + 0x80 * g.val

def execDbgRunHalt (who : Initiator) (g : EngineId) (s : State) : Out :=
  .next (s.inHostOrder who (runAddr g) none (leBytes 4 1) fun s => s.runHalt who g)
def execDbgRunResume (who : Initiator) (g : EngineId) (s : State) : Out :=
  .next (s.inHostOrder who (runAddr g) none (leBytes 4 2) fun s => s.runResume who g)
def execDbgRunStep (who : Initiator) (g : EngineId) (s : State) : Out :=
  .next (s.inHostOrder who (runAddr g) none (leBytes 4 4) fun s => s.runStep who g)

/-! ### Breaks and watches (R471, R472) -/

/-- Are the settings of a comparator in range (R472, R486)? -/
def Eng.breakOk (e : Eng) (c ctl low high value mask engctl : Nat) : Bool :=
  let link := bitsOf ctl 20 3
  ctl < 2 ^ 28 && bitsOf ctl 1 2 < 3 && bitsOf ctl 3 2 < 3 && bitsOf ctl 23 2 < 3 && bitsOf ctl 25 3 < 5 &&
  (bitsOf ctl 23 2 ≠ 2 || bitsOf (e.dbg.ctlAt link) 23 2 ≠ 2) && engctl < 16 && bitsOf engctl 0 3 < 5 &&
  (if c < 4 then low < 8192 && high < 8192 else if c < 6 then low < 2 ^ 48 && high < 2 ^ 48
    else value < 2 ^ 24 && mask < 2 ^ 24)

/-- Comparator `c` set, with DBG_ENGCTL (R486). -/
def Eng.setBreak (e : Eng) (i : Fin 4) (c ctl low high value mask engctl : Nat) : Eng :=
  let b := e.dbg
  let keep : Byte := ~~~(1#8 <<< c)
  let b := { b with
    ctl := b.ctl.set! c (BitVec.ofNat 32 ctl)
    hit := b.hit &&& keep
    armed := b.armed &&& keep
    bkptAct := bitsOf engctl 0 3
    stepInt := bitOf engctl 3
    session := some i }
  let b := if c < 4 then { b with ia := b.ia.set! c (packW [(0, low), (16, high)]) }
    else if c < 6 then { b with
      dal := b.dal.set! (c - 4) (BitVec.ofNat 48 low)
      dah := b.dah.set! (c - 4) (BitVec.ofNat 48 high) }
    else { b with
      dv := b.dv.set! (c - 6) (BitVec.ofNat 24 value)
      dvm := b.dvm.set! (c - 6) (BitVec.ofNat 24 mask) }
  { e with dbg := b }

/-- The settings that a comparator takes: while a STEP runs they are free among the legal ones (R489). -/
def State.breakSet (s : State) (g : Nat) (i : Fin 4) (c ctl low high value mask engctl : Nat) : State :=
  let e := s.engAt g
  if e.steps = 0 ∨ e.halted then s.setEngAt g (e.setBreak i c ctl low high value mask engctl)
  else
    let f := s.fresh 256
    let b (lo n : Nat) : Nat := bitsOf f.1.toNat lo n
    if e.breakOk c (b 0 28) (b 28 48) (b 76 48) (b 124 24) (b 148 24) engctl then
      f.2.setEngAt g (e.setBreak i c (b 0 28) (b 28 48) (b 76 48) (b 124 24) (b 148 24) engctl)
    else f.2.setEngAt g (e.setBreak i c ctl low high value mask engctl)

/-- DBG_BREAK. -/
def dbgBreak (m : Mb) (r : Running) (s : State) : Ans :=
  s.inSession m r 1 fun i x s =>
    let g := r.u32 0x10
    let c := r.u32 0x14
    let ctl := r.u32 0x18
    let engctl := r.u32 0x3C
    let traces : Bool := bitsOf ctl 25 3 = 4 || bitsOf engctl 0 3 = 4
    let q := r.u32 0x38
    if 128 ≤ g ∨ 8 ≤ c then no .wrongState s
    else s.withEngines x.owner [g] (
      let e := s.engAt g
      if ¬ e.breakOk c ctl (r.u64 0x20) (r.u64 0x28) (r.u32 0x30) (r.u32 0x34) engctl then no .wrongState s
      else if traces ∧ x.level < 2 then no .authFailed s
      else if (match e.dbg.session with | some j => decide (j ≠ i) | none => false) then no .wrongState s
      else if traces ∧ ¬ (q < 262144 ∧ (s.queue q).kind = .event) then no .wrongState s
      else if traces ∧ (s.queue q).owner ≠ x.owner then no .notOwner s
      else
        let s := s.breakSet g i c ctl (r.u64 0x20) (r.u64 0x28) (r.u32 0x30) (r.u32 0x34) engctl
        ok (if traces then s.setSess i { x with queue := some q } else s))

def execDbgBreak (m : Mb) (s : State) : Out := .next (s.serve m 0x0B11 anyForm 0x10 (dbgBreak m))

/-! ### Fabric freeze and readback (R477, R478) -/

/-- What a capture copies of a quad. -/
def State.capture (s : State) (q : Nat) : Snap :=
  { frames := s.quadFrames q
    ff := s.fab.ff.filter fun e => quadAt (cellX e.1) (cellY e.1) = q
    wire := s.fab.wire.filter fun e => match wirePlace e.1 with | some p => quadAt p.1 p.2 == q | none => false
    words := s.fab.word.filterMap fun e => if e.1 / 2048 / 12 = q then some (e.1 % 24576, e.2.bits) else none }

/-- DBG_FREEZE of one sector. -/
def State.freeze (s : State) (cap : Bool) (sec : Nat) : State :=
  let s := s.modSector sec fun x => { x with frozen := true, frozenAt := if x.frozen then x.frozenAt else s.now, capture := cap || x.capture }
  if cap then (sectorQuads sec).foldl (fun (t : State) (q : Nat) => { t with dbg.snap := tput t.dbg.snap none q (some (t.capture q)) }) s
  else s

/-- Sectors named by a session command, whose quads must all belong to the session's owner (R465, R488). -/
def State.withSectors (s : State) (o : Owner) (cs : List Nat) (f : Ans) : Ans :=
  if cs.any fun c => (sectorQuads c).any fun q => s.quadOwner q ≠ o then no .notOwner s else f

def dbgFreeze (m : Mb) (r : Running) (s : State) : Ans :=
  s.inSession m r 1 fun i x s =>
    let cs := maskList 96 (r.fld 0x10 12)
    if 2 ≤ r.u32 0x1C then no .wrongState s
    else s.withSectors x.owner cs (
      let s := cs.foldl (State.freeze · (r.bit 0x1C 0)) s
      ok (s.setSess i { x with sectors := (x.sectors ++ cs.map (fun c => Fin.ofNat 96 c)).eraseDups }))

def execDbgFreeze (m : Mb) (s : State) : Out :=
  .next (s.serve m 0x0B13 (fun r => !r.bit 0x1C 1) 0x10 (dbgFreeze m))

def dbgThaw (m : Mb) (r : Running) (s : State) : Ans :=
  s.inSession m r 1 fun i x s =>
    let cs := maskList 96 (r.fld 0x10 12)
    if r.u32 0x1C ≠ 2 then no .wrongState s
    else s.withSectors x.owner cs (
      let s := cs.foldl State.thaw s
      ok (s.setSess i { x with sectors := x.sectors.filter fun (c : SectorId) => !cs.contains c.val }))

def execDbgThaw (m : Mb) (s : State) : Out :=
  .next (s.serve m 0x0B13 (fun r => r.bit 0x1C 1) 0x10 (dbgThaw m))

/-- A capture frame of a quad: 384 bytes; one past the last reads zero. -/
def Snap.frame (x : Snap) (kind i : Nat) : List Byte :=
  if (if kind = 0 then 90 else 240) ≤ i then List.replicate 384 0#8
  else leBytes 384 (Config.captureFrame kind i x.frames x.ff x.wire x.words).toNat

def dbgReadback (m : Mb) (r : Running) (s : State) : Ans :=
  s.inSession m r 1 fun _ x s =>
    let q := r.u16 0x10
    let kind := r.u16 0x12
    let i := r.u32 0x14
    if 384 ≤ q ∨ 2 ≤ kind ∨ (if kind = 0 then 90 else 240) ≤ i then no .wrongState s
    else s.withSectors x.owner [quadSector q] (match tget s.dbg.snap none q with
      | none => no .wrongState s
      | some p => ok s (p.frame kind i ++ p.frame kind (i + 1)))

def execDbgReadback (m : Mb) (s : State) : Out := .next (s.serve m 0x0B14 anyForm 0x310 (dbgReadback m))

/-! ### The JTAG TAP (R462, R463) -/

/-- Is the device before RELEASE_IO, or in config-only (R462)? -/
def State.notRunning (s : State) : Bool := !s.cfg.ioOn || s.configOnly

/-- May a pin-control instruction take effect (R462)? -/
def State.pinControl (s : State) : Bool :=
  s.notRunning && (s.sec.lc = .blank || s.sec.lc = .owned || (s.sec.lc = .deployed &&
    (List.finRange 4).any fun i => (s.sess i).live && (s.sess i).owner == 0 && (s.sess i).level == 2))

/-- An instruction with no effect on the pins: a pin-control instruction in effect is left. -/
def State.tapSelect (s : State) (ir : Byte) : State :=
  { s with
    dbg.tap.ir := ir
    dbg.tap.pins := none }

/-- A pin-control instruction: in effect, or BYPASS with the fault of R462. -/
def State.tapPins (s : State) (ir : Byte) (p : PinScan) : State :=
  if s.pinControl then { s with
    dbg.tap.ir := ir
    dbg.tap.pins := some p }
  else (({ s with dbg.jrefused := true } : State).tapSelect 0xFF#8).raise 852 [0]

def execExtest (cells : List Bool) (s : State) : Out := .next (s.tapPins 0x00#8 (.drive cells))
def execSamplePreload (cells : List Bool) (s : State) : Out :=
  .next (({ s with dbg.tap.cells := cells } : State).tapSelect 0x01#8)
def execIdcode (s : State) : Out := .next { s.tapSelect 0x02#8 with readData := leBytes 4 0x17140B47 }
def execClamp (s : State) : Out := .next (s.tapPins 0x03#8 .clamp)
def execHighz (s : State) : Out := .next (s.tapPins 0x04#8 .highz)
def execExtestPulse (cells : List Bool) (s : State) : Out := .next (s.tapPins 0x05#8 (.pulse cells))
def execExtestTrain (cells : List Bool) (s : State) : Out := .next (s.tapPins 0x06#8 (.train cells))
def execBypass (s : State) : Out := .next (s.tapSelect 0xFF#8)
def execTapReset (s : State) : Out := .next (s.tapSelect 0x02#8)

/-- DBG_PAGE (R463): a 32-bit access of the JTAG page. -/
def execDbgPage (off : BitVec 12) (write : Bool) (v : BitVec 32) (s : State) : Out :=
  let r := (s.tapSelect 0x20#8).boxAccess .jtag jtagBox (off.toNat / 4 * 4) write (leBytes 4 v.toNat)
  .next (if write then r.2.2 else { r.2.2 with
    dbg.tap.data := r.2.1
    readData := leBytes 4 r.2.1.toNat })

/-! ### Registers (R470, R486) -/

/-- DBG_RUN_g. A write has taken effect by the time of a read, so HALT stands only while the halt is deferred. -/
def Eng.runReg (e : Eng) : W32 :=
  packW [(0, b2n e.haltReq), (2, b2n (decide (e.steps ≠ 0))), (3, b2n e.halted), (4, b2n (e.haltReq && e.lockOpen))]

/-- A register of the DBG block of engine `g`. -/
def Eng.dbgWord (e : Eng) (off : Nat) : W32 :=
  let b := e.dbg
  let i := off / 4
  if off < 0x10 then b.ia[i % 4]
  else if off < 0x30 then b.ctl[(i - 4) % 8]
  else if off < 0x50 then
    let j := (off - 0x30) / 16
    let v := if off % 16 < 8 then b.dal[j % 2] else b.dah[j % 2]
    if off % 8 = 0 then v.extractLsb' 0 32 else (v.extractLsb' 32 16).setWidth 32
  else if off < 0x60 then
    let k := (off - 0x50) / 8
    if off % 8 = 0 then (b.dv[k % 2]).setWidth 32 else (b.dvm[k % 2]).setWidth 32
  else if off = 0x60 then packW [(0, b.hit.toNat), (8, b2n (decide (b.armed ≠ 0#8)))]
  else if off = 0x64 then packW [(0, b.bkptAct), (3, b2n b.stepInt), (4, match b.session with | some i => i.val | none => 0)]
  else if off = 0x68 then e.runReg
  else 0#32

/-- Bits of sectors 32j to 32j + 31 that satisfy `p`. -/
def State.sectorBits (s : State) (p : Sector → Bool) (j : Nat) : W32 :=
  BitVec.ofNat 32 (maskOf ((List.range 32).map fun b => p (s.sector (32 * j + b))))

/-- A DBG register at an offset of the slot, as owner `o` reads it. -/
def State.dbgRead (s : State) (who : Initiator) (o : Owner) (off : Nat) : W32 :=
  if off = 0 then packW [(0, maskOf ((List.range 4).map fun i => (s.sess i).live)), (4, b2n s.dbg.jrefused)]
  else if 0x10 ≤ off ∧ off < 0x20 then
    let x := s.sess ((off - 0x10) / 4)
    if x.live then packW [(0, x.owner.val), (4, x.level), (6, x.mb.val)] else 0#32
  else if 0x40 ≤ off ∧ off < 0x4C then s.sectorBits (·.frozen) ((off - 0x40) / 4)
  else if 0x50 ≤ off ∧ off < 0x5C then s.sectorBits (·.capture) ((off - 0x50) / 4)
  else if 0x10000 ≤ off ∧ off < 0x14000 then
    let g := (off - 0x10000) / 0x80
    if s.engPresent g ∧ (who = .belfry ∨ s.engOwner g = o) then (s.engAt g).dbgWord ((off - 0x10000) % 0x80) else 0#32
  else 0#32

end Sys2Proof.Machine
end

