-- ==== Sys2Proof/Machine/Flash.lean ====
section
/-!
DEFINITION. Machine/Flash.lean: the flash on the xSPI bus, its directory (R166), the areas it protects (R417) and the
settings block (R175).
-/
namespace Sys2Proof.Machine

/-- A byte of the flash; an erased or never written byte is 0xFF. -/
def State.flashByte (s : State) (a : Nat) : Byte := tget s.cfg.flash 0xFF#8 a
def State.flashBytes (s : State) (a n : Nat) : List Byte := (List.range n).map fun i => s.flashByte (a + i)
def State.flashLE (s : State) (a n : Nat) : Nat := leNat (s.flashBytes a n)

/-- A flash with bytes stored from an offset up. -/
def flashPut (m : Mem) (a : Nat) : List Byte → Mem
  | [] => m
  | b :: bs => flashPut (tput m 0xFF#8 a b) (a + 1) bs

/-- Programming only clears bits: what a write leaves of the byte that stands and the byte written. -/
def State.flashWrite (s : State) (a : Nat) (bs : List Byte) : State :=
  { s with cfg.flash := flashPut s.cfg.flash a (List.zipWith (· &&& ·) (s.flashBytes a bs.length) bs) }

/-- An erase: every byte of the area reads 0xFF. -/
def State.flashErase (s : State) (a n : Nat) : State :=
  { s with cfg.flash := s.cfg.flash.filter fun (c : Host.Cell) => c.1 < a || a + n ≤ c.1 }

/-- Does [a, a + n) meet [b, e)? -/
def meets (a n b e : Nat) : Bool := a < e && b < a + n && b < e

/-- The flash directory (R166). -/
structure Directory where
  primary : Nat
  length : Nat
  firmware : Nat
  goldenEnd : Nat
  mhz : Nat
  dummy : Nat
  ringSource : Bool
  doneWait : Nat
  deriving DecidableEq, Repr

/-- First byte of the golden area. -/
def goldenBase : Nat := 0x01000000

/-- The directory where its MAGIC and CRC are good (R166). -/
def State.dirRead (s : State) : Option Directory :=
  if s.flashLE 0 4 = 0x51564644 ∧ s.flashLE 0x1C 4 = (crc32c (s.flashBytes 0 0x1C)).toNat then
    some { primary := s.flashLE 4 4, length := s.flashLE 8 4, firmware := s.flashLE 0xC 4, goldenEnd := s.flashLE 0x10 4,
           mhz := s.flashLE 0x14 2, dummy := s.flashLE 0x16 1,
           ringSource := bitOf (s.flashLE 0x17 1) 0, doneWait := s.flashLE 0x18 4 }
  else none

/-- The bytes of the image from which a load takes its stream: the golden area, or the primary (R166). -/
def State.imageArea (s : State) : Nat × Nat :=
  match s.dirRead, s.cfg.golden with
  | none, _ => (goldenBase, 2 ^ 32)
  | some d, true => (goldenBase, d.goldenEnd)
  | some d, false => (d.primary, d.primary + d.length)

/-- The next bytes of the image, at most `n`: fewer where the image ends. -/
def State.imageNext (s : State) (n : Nat) : List Byte :=
  let a := s.imageArea
  s.flashBytes (a.1 + s.cfg.taken) (min n (a.2 - (a.1 + s.cfg.taken)))

/-- Bytes that the firmware image in flash takes, by its header. -/
def State.firmwareLen (s : State) (a : Nat) : Nat := 512 + s.flashLE (a + 0x10) 4

/-- Is the directory good for a load of the primary (R166, R175)? -/
def State.dirOk (s : State) : Option Directory :=
  match s.dirRead with
  | none => none
  | some d =>
    if meets d.primary d.length goldenBase d.goldenEnd ∨ meets d.primary d.length 0x10000 0x20000 ∨
        meets d.firmware (s.firmwareLen d.firmware) 0x10000 0x20000 then none
    else some d

/-- The end of the golden area: none without a directory. -/
def State.goldenEnd (s : State) : Nat := match s.dirRead with | some d => d.goldenEnd | none => goldenBase

/-- Does an area overlap what R417 protects: directory and settings sectors, the primary image, the golden area? -/
def State.flashProtected (s : State) (a n : Nat) : Bool :=
  meets a n 0 0x20000 || meets a n goldenBase s.goldenEnd ||
  (match s.dirRead with | some d => meets a n d.primary (d.primary + d.length) | none => false)

/-- Does the device drive a flash bus (R177)? -/
def State.drivesFlash (s : State) : Bool := s.cfg.bootSel = 0#2 || s.cfg.bootSel = 2#2

/-- The firmware in flash at the offset of a good directory. -/
def State.flashFirmware (s : State) : Option (List Byte) :=
  s.dirRead.map fun d => s.flashBytes d.firmware (min (s.firmwareLen d.firmware) 0x100000)

/-- A source with RING_SOURCE transmits what it reads on ring port A, whose bypass it opens (R167). -/
def State.ringFeed (s : State) (bs : List Byte) : State :=
  if s.cfg.bootSel = 0#2 ∧ s.ringPresent 0 ∧ s.dirOk.any (fun d => d.ringSource) then
    s.modRing 0 fun r => { r with closed := false, feed := bs }
  else s

/-- The stream is over: the bypass closes again. -/
def State.ringQuiet (s : State) : State :=
  if (s.ring 0).feed = [] then s else s.modRing 0 fun r => { r with closed := true, feed := [] }

/-! ### Belfry settings (R175) -/

/-- The settings that a block of 36 bytes gives, where it is valid. -/
def settingsOf (b : List Byte) : Option PceSet :=
  let f (o n : Nat) : Nat := leNat ((b.drop o).take n)
  if f 0 4 = 0x51565354 ∧ f 4 2 = 1 ∧ f 0x20 4 = (crc32c (b.take 0x20)).toNat ∧ f 0x14 1 ≤ 5 ∧
      [1, 2, 4, 8, 16].contains (f 0x15 1) ∧ f 0x16 1 < 2 ∧ f 0x17 1 = 0 ∧ 1 ≤ f 0x18 2 ∧ f 0x18 2 ≤ 2048 ∧ f 0x1A 6 = 0 then
    some { vendor := some (BitVec.ofNat 16 (f 6 2)), device0 := BitVec.ofNat 16 (f 8 2), device1 := BitVec.ofNat 16 (f 0xA 2),
           subvendor := some (BitVec.ofNat 16 (f 0xC 2)), subsystem := BitVec.ofNat 16 (f 0xE 2),
           cls := BitVec.ofNat 24 (f 0x10 3), revision := BitVec.ofNat 8 (f 0x13 1), maxRate := f 0x14 1,
           maxWidth := f 0x15 1, pf1 := bitOf (f 0x16 1) 0, msix := f 0x18 2 }
  else none

/-- The settings that a boot takes: the settings block of a flash source, the fuses, the defaults. -/
def State.bootSettings (s : State) : PceSet :=
  let block := if s.cfg.bootSel = 2#2 then none else settingsOf (s.flashBytes 0x10000 36)
  match block with
  | some p => p
  | none => match s.sec.settings.bind settingsOf with
    | some p => p
    | none => {}

end Sys2Proof.Machine
end

