-- ==== Sys2Proof/Machine/Security.lean ====
section
/-!
DEFINITION. Machine/Security.lean: the key store (R479), the life-cycle (R480 to R482), tamper (R483), field return
(R484) and the SEC registers (R487).
-/
namespace Sys2Proof.Machine

def lcCode : LifeCycle → Nat
  | .blank => 0
  | .owned => 1
  | .deployed => 2
  | .returned => 3
  | .scrapped => 4

/-! ### Registers (R487) -/

def State.secStat (s : State) : W32 :=
  packW [(0, lcCode s.sec.lc), (3, b2n s.sec.digest.isSome), (4, b2n s.sec.devKey.isSome), (5, b2n s.sec.tamper),
    (6, b2n s.sec.fusePwr), (8, s.sec.undeploys.toNat), (12, s.sec.svnMin.toNat)]

def State.secTamper (s : State) : W32 :=
  packW [(0, s.sec.seen.toNat), (8, s.sec.pinEn.toNat), (10, s.sec.pinLevel.toNat)]

/-- A SEC register. -/
def State.secRead (s : State) (off : Nat) : W32 :=
  match off with
  | 0 => s.secStat
  | 4 => s.secTamper
  | 8 => s.sec.serial.extractLsb' 0 32
  | 0xC => s.sec.serial.extractLsb' 32 32
  | _ => 0#32

/-! ### Nonces and signatures (R481) -/

/-- A command of 0x0B2x or 0x0Cxx consumes the nonce of its mailbox: the meaning gets it where it is no older than 60 s. -/
def State.withNonce (s : State) (m : Mb) (f : Option (List Byte) → State → Ans) : Ans :=
  let n := match tget s.sec.nonce none m with
    | some (b, t) => if s.now ≤ t + 60000000000 then some b else none
    | none => none
  f n { s with sec.nonce := tput s.sec.nonce none m none }

/-- The digest that an owner-signed command signs; `off` is the offset of its signature. -/
def State.signedDigest (s : State) (r : Running) (nonce : List Byte) (off : Nat) : List Byte :=
  Config.sha384 (leBytes 2 r.op ++ leBytes 8 s.sec.serial.toNat ++ nonce ++ r.bytes 0x10 (off - 0x10))

/-- Does a command carry a good signature by a key? -/
def State.signedBy (s : State) (key : List Byte) (r : Running) (nonce : Option (List Byte)) (off : Nat) : Bool :=
  match nonce with
  | some n => Config.ecdsaOk key (s.signedDigest r n off) (r.bytes off 96)
  | none => false

/-- Is a command owner-signed? -/
def State.ownerSigned (s : State) (r : Running) (nonce : Option (List Byte)) (off : Nat) : Bool :=
  match s.sec.digest with
  | some d => s.signedBy (Config.keyOf d) r nonce off
  | none => false

/-- A failed signature (R481). -/
def State.signFail (s : State) : Ans := no .authFailed (s.raise 866 [0])

/-- LC_QUERY. -/
def execLcQuery (m : Mb) (s : State) : Out :=
  .next (s.serve m 0x0B20 anyForm 0x20 fun _ s => s.withNonce m fun _ s =>
    ok s (pay 0x20 [(0x10, 4, s.secStat.toNat), (0x14, 4, s.secTamper.toNat), (0x18, 8, s.sec.serial.toNat)]))

/-- LC_NONCE. -/
def execLcNonce (m : Mb) (s : State) : Out :=
  .next (s.serve m 0x0B21 anyForm 0x30 fun _ s =>
    let n := s.freshBytes 32
    ok { n.2 with sec.nonce := tput n.2.sec.nonce none m (some (n.1, s.now)) } n.1)

/-- NONCE_EXPIRY. -/
def execNonceExpiry (m : Mb) (s : State) : Out :=
  .next (match tget s.sec.nonce none m with
    | some (_, t) => if t + 60000000000 < s.now then { s with sec.nonce := tput s.sec.nonce none m none } else s
    | none => s)

/-- LC_IDENTITY. -/
def execLcIdentity (m : Mb) (s : State) : Out :=
  .next (s.serve m 0x0B22 anyForm 0x270 fun _ s => s.withNonce m fun _ s =>
    ok s (fit 96 (Config.ecPublic Config.identity) ++ fit 512 Config.identityCert))

/-! ### Transitions (R480, R482) -/

/-- The SRAM keys of R479 zeroised. -/
def State.zeroise (s : State) : State := { s.mxeZeroise with sec.devKey := none }

/-- What follows the fuses of a transition (R482): keys zeroised, sessions ended, the secure vault wiped, the chip reset
due in 1 ms. -/
def State.lcChanged (s : State) (lc : LifeCycle) : State :=
  let s := ({ s with sec.lc := lc } : State).zeroise.endSessions.startWipe
  ({ s with
    sec.resetAt := some (s.now + 1000000)
    dbg.exch := [] } : State).raise 864 [0]

/-- A transition: from the states `p` names, with no admitted contract unless FORCE, with an authority, and with VCC_FUSE
in range; `fuses` programs the data fuses. -/
def State.transition (s : State) (p : Bool) (force auth : Bool) (lc : LifeCycle) (fuses : State → State) : Ans :=
  if ¬ p then no .wrongState s
  else if ¬ auth then s.signFail
  else if (s.anyAdmitted ∧ ¬ force) ∨ ¬ s.sec.fusePwr then no .wrongState s
  else ok ((fuses s).lcChanged lc)

/-- The key-encryption key of LC_TAKE_OWNERSHIP (R480). -/
def State.ownKek (s : State) (eOwn : List Byte) : List Byte :=
  Config.kdf (Config.ecdh Config.identity eOwn) 0 (leBytes 8 s.sec.serial.toNat)

def lcTakeOwnership (m : Mb) (r : Running) (s : State) : Ans :=
  s.withNonce m fun n s => s.withConfig m (
    let key := r.bytes 0x10 96
    match Config.kwUnwrap (s.ownKek (r.bytes 0x70 96)) (r.bytes 0xD0 40) with
    | none => if s.sec.lc = .blank then s.signFail else no .wrongState s
    | some dk =>
      s.transition (s.sec.lc = .blank) (r.bit 0xF8 0) (s.signedBy key r n 0x100) .owned fun s => { s with
        sec.digest := some (Config.sha384 key)
        sec.devFuse := some (Config.kwWrap Config.pufKey dk) })

def execLcTakeOwnership (m : Mb) (s : State) : Out :=
  .next (s.serve m 0x0B23 anyForm 0x10 (lcTakeOwnership m))

def execLcDeploy (m : Mb) (s : State) : Out :=
  .next (s.serve m 0x0B24 anyForm 0x10 fun r s => s.withNonce m fun n s =>
    s.transition (s.sec.lc = .owned) (r.bit 0x10 0) (s.ownerSigned r n 0x14) .deployed id)

/-- LC_UNDEPLOY: at most 15 times. -/
def execLcUndeploy (m : Mb) (s : State) : Out :=
  .next (s.serve m 0x0B25 anyForm 0x10 fun r s => s.withNonce m fun n s =>
    s.transition (s.sec.lc = .deployed && s.sec.undeploys ≠ 15#4) (r.bit 0x10 0) (s.ownerSigned r n 0x14) .owned
      fun s => { s with sec.undeploys := s.sec.undeploys + 1 })

/-- The owner key digest and the device key removed (R479). -/
def State.dropKeys (s : State) : State :=
  { s with
    sec.digest := none
    sec.devFuse := none }

/-- LC_SCRAP: owner-signed in OWNED and DEPLOYED. -/
def execLcScrap (m : Mb) (s : State) : Out :=
  .next (s.serve m 0x0B26 anyForm 0x10 fun r s => s.withNonce m fun n s =>
    let signed : Bool := s.sec.lc = .owned || s.sec.lc = .deployed
    s.transition (s.sec.lc ≠ .scrapped) (r.bit 0x10 0) (!signed || s.ownerSigned r n 0x14) .scrapped State.dropKeys)

def execSvnRaise (m : Mb) (s : State) : Out :=
  .next (s.serve m 0x0B27 anyForm 0x10 fun r s => s.withNonce m fun n s =>
    let v := r.u32 0x10
    if 63 < v ∨ v ≤ s.sec.svnMin.toNat then no .wrongState s
    else if ¬ s.ownerSigned r n 0x14 then s.signFail
    else if ¬ s.sec.fusePwr then no .wrongState s
    else ok { s with sec.svnMin := BitVec.ofNat 6 v })

/-- LC_SETTINGS_FUSE: owner-signed in OWNED and DEPLOYED, with a zero signature in BLANK. -/
def lcSettingsFuse (m : Mb) (r : Running) (s : State) : Ans :=
  s.withNonce m fun n s => s.withConfig m (
    let b := r.bytes 0x10 36
    let zero : Bool := decide (leNat (r.bytes 0x34 96) = 0)
    if s.sec.settings.isSome ∨ (settingsOf b).isNone ∨ s.sec.lc = .returned ∨ s.sec.lc = .scrapped then no .wrongState s
    else if ¬ (if s.sec.lc = .blank then zero else s.ownerSigned r n 0x34) then s.signFail
    else if ¬ s.sec.fusePwr then no .wrongState s
    else ok { s with sec.settings := some b })

def execLcSettingsFuse (m : Mb) (s : State) : Out := .next (s.serve m 0x0B29 anyForm 0x10 (lcSettingsFuse m))

/-! ### Tamper (R483) -/

/-- TAMPER_CONFIG: in DEPLOYED no enabled pin can be disabled. -/
def tamperConfig (m : Mb) (r : Running) (s : State) : Ans :=
  s.withNonce m fun _ s => s.withConfig m (
    let en : BitVec 2 := BitVec.ofNat 2 (r.u32 0x10)
    if 3 < r.u32 0x10 ∨ 3 < r.u32 0x14 ∨ (s.sec.lc = .deployed ∧ s.sec.pinEn &&& ~~~en ≠ 0#2) then no .wrongState s
    else ok { s with
      sec.pinEn := en
      sec.pinLevel := BitVec.ofNat 2 (r.u32 0x14) })

def execTamperConfig (m : Mb) (s : State) : Out := .next (s.serve m 0x0B28 anyForm 0x10 (tamperConfig m))

/-- TAMPER_TRIP: supply, clock, temperature, then the two pins, which act only once enabled. -/
def execTamperTrip (i : Fin 5) (s : State) : Out :=
  .next (if 3 ≤ i.val ∧ ¬ s.sec.pinEn.getLsbD (i.val - 3) then s
    else
      let s := s.zeroise.endSessions.startWipe
      ({ s with
        sec.tamper := true
        sec.seen := s.sec.seen ||| (1#5 <<< i.val)
        dbg.exch := [] } : State).raise (856 + i.val) [0])

/-! ### Field return (R484) -/

/-- What a return record gathers, in the order in which R484 names it. -/
def State.returnPlain (s : State) : List Byte :=
  let body (a : Ans) : List Byte := match a with | .reply _ _ p _ => p | .accepted _ => []
  let freeze := (List.range 8).filterMap fun k => (s.dport k).record.map FreezeRec.bytes
  (s.flt.history.map FaultRec.bytes).flatten ++ freeze.flatten ++ body (health s) ++ body (inventory s) ++
    ((List.range 1024).map fun i => leBytes 4 (tget s.flt.cnt 0#32 i).toNat).flatten ++
    leBytes 4 (packW [(0, s.cfg.errCode), (8, s.cfg.errSeg), (24, s.cfg.errAttempt)]).toNat ++
    leBytes 4 (packW [(0, s.ckr.cause), (8, s.ckr.count.toNat)]).toNat

/-- The record: at most 48 KiB, encrypted to Plovuk's return key. -/
def State.returnRecord (s : State) : List Byte × State :=
  let priv := s.freshBytes 48
  let iv := priv.2.freshBytes 12
  let eph := fit 96 (Config.ecPublic priv.1)
  let key := Config.kdf (Config.ecdh priv.1 Config.returnKey) 0 (leBytes 8 s.sec.serial.toNat)
  let plain := s.returnPlain.take (49152 - 0x90)
  let c := fit (plain.length + 16) (Config.gcmSeal key iv.1 plain)
  (leBytes 4 0x51565252 ++ leBytes 4 plain.length ++ leBytes 8 s.sec.serial.toNat ++ eph ++ iv.1 ++ leBytes 4 0 ++ c, iv.2)

/-- RETURN_PREPARE: owner-signed, unsigned from BLANK; its record is written to flash at OFFSET where that is not zero. -/
def returnPrepare (m : Mb) (r : Running) (s : State) : Ans :=
  s.withNonce m fun n s =>
    let off := r.u32 0x10
    let p : Bool := s.sec.lc = .blank || s.sec.lc = .owned || s.sec.lc = .deployed
    let place : Bool := off = 0 || (off % 65536 = 0 && s.drivesFlash && !s.flashProtected off 49152)
    match s.transition (p && place) (r.bit 0x14 0) (s.sec.lc = .blank || s.ownerSigned r n 0x18) .returned id with
    | .reply .ok _ _ s' =>
      let rec_ := s.returnRecord
      let s' := ({ s' with
        freeCount := rec_.2.freeCount
        sec.record := rec_.1 } : State).dropKeys
      let s' := if off = 0 then s' else (s'.flashErase off 65536).flashWrite off rec_.1
      .accepted (s'.finish m .ok (fit 48 (Config.sha384 rec_.1)))
    | a => a

def execReturnPrepare (m : Mb) (s : State) : Out := .next (s.serveLong m 0x0C01 anyForm 0x40 (returnPrepare m))

/-- RETURN_READ. -/
def execReturnRead (m : Mb) (s : State) : Out :=
  .next (s.serve m 0x0C02 anyForm 0x20 fun r s => s.withNonce m fun _ s =>
    let bs := (s.sec.record.drop (r.u32 0x10)).take 960
    if s.sec.lc ≠ .returned ∧ s.sec.lc ≠ .scrapped then no .wrongState s
    else ok s (leBytes 4 bs.length ++ leBytes 12 0 ++ bs))

end Sys2Proof.Machine
end

