-- ==== Sys2Proof/Machine/Regs.lean ====
section
/-!
DEFINITION. Machine/Regs.lean: control space as a whole (R12 to R22, R41, R42): the CFG registers (R176, R198), reads and
writes by slot, register pairs (R16), owner-writable registers (R21), and the row REGISTER_WRITE.
-/
namespace Sys2Proof.Machine

/-! ### CFG registers (R176, R198) -/

def cfgCode : CfgState → Nat
  | .clearing => 0
  | .firmware => 1
  | .loading => 2
  | .waitDone => 3
  | .startup => 4
  | .running => 5
  | .configOnly => 6

def State.cfgStat (s : State) : W32 :=
  let c := s.cfg
  packW [(0, cfgCode c.st), (4, c.bootSel.toNat), (6, c.image), (8, c.group.toNat), (12, b2n c.lockDone), (13, b2n !c.gsr),
    (14, b2n c.writesOn), (15, b2n c.ioOn), (16, b2n c.donePin), (17, b2n s.configOnly), (18, b2n c.lockTo), (19, b2n c.fallback)]

def State.cfgErr (s : State) : W32 := packW [(0, s.cfg.errCode), (8, s.cfg.errSeg), (24, s.cfg.errAttempt)]

/-- A register of loading (R176). -/
def State.loadReg (s : State) (i : Nat) : W32 :=
  let man := s.cfg.man
  let wait (j : Nat) : Nat := (man.waits.getD j 0#16).toNat
  match i with
  | 0 => 0x07140A01#32
  | 1 => s.cfgStat
  | 2 => s.cfgErr
  | 3 => packW ((List.range 4).map (fun j => (2 * j, man.startup.getD j j)) ++ [(8, man.lockTimeout.toNat)])
  | 4 => packW [(0, wait 0), (16, wait 1)]
  | 5 => packW [(0, wait 2), (16, wait 3)]
  | 6 => s.cfg.offset
  | 7 => s.cfg.version
  | 8 => s.cfg.loadUs
  | _ => 0#32

/-- The REGION record of a region, where the manifest in force defines it. -/
def State.regionRec (s : State) (r : Nat) : Option RegionRec := s.man.regions.find? fun x => x.region.val == r

/-- Is a swap of the region armed (R188), committed ahead included? -/
def State.armed (s : State) (r : Nat) : Bool :=
  ((s.strike r).valid && (s.strike r).action = 3) || (s.stk.swaps.any fun (w : Nat × Nat × Nat) => w.1 == r) ||
    s.stk.allot.any fun (e : Nat × Allot) => e.2.waiting.any fun w => w.1 == r

/-- Frames of a plane of a quad. -/
def planeAddrs (b : Bool) (q : Nat) : List Nat := (List.range 960).map fun i => frameAddr b i q

/-- Is a plane of a region wholly covered in the frame copy (R183)? -/
def State.planeCopied (s : State) (quads : List Nat) (b : Bool) : Bool :=
  s.ovl.made && quads.all fun q => (planeAddrs b q).all fun a => (s.frame a).copied

def shadowCode : Shadow → Nat
  | .empty => 0
  | .staging => 1
  | .ready => 2

/-- CFG_OVL_STAT_r. -/
def State.ovlStat (s : State) (r : Nat) : W32 :=
  let x := s.ovlRegion r
  match s.regionRec r with
  | none => 0#32
  | some d =>
    let st := if x.swapping.isSome then 2 else if x.quiesced.isSome then 3 else if s.armed r then 1 else 0
    packW [(0, 1), (1, b2n x.shownActive), (2, shadowCode x.shownShadow), (4, st), (7, b2n (s.armed r && x.toggle)),
      (8, x.armId.toNat), (16, d.owner.val), (20, b2n (s.planeCopied d.quads (!x.active))), (24, b2n x.swapS), (25, b2n x.lateS),
      (26, b2n x.rejectS)]

/-- The four registers of a region. -/
def State.ovlReg (s : State) (r i : Nat) : W32 :=
  let x := s.ovlRegion r
  match i with
  | 0 => s.ovlStat r
  | 1 => x.swaps
  | 2 => x.shownAct
  | _ => x.shownShd

/-- Frames that satisfy `p`. -/
def State.frameCount (s : State) (p : Nat → Frame → Bool) : Nat := (s.cfg.frame.filter fun e => p e.1 e.2).length

/-- The six scrubber registers. -/
def State.scrubReg (s : State) (i : Nat) : W32 :=
  match i with
  | 0 => packW [(0, b2n s.ovl.scrubEn), (1, b2n s.ovl.lag),
      (2, b2n (s.ovl.made && s.frameCount (fun a f => a < 524288 && f.copied) = 368640))]
  | 1 => s.ovl.lapUs
  | 2 => s.ovl.sbe
  | 3 => s.ovl.mbe
  | 4 => s.ovl.last
  | 5 => packW [(0, min 65535 (s.frameCount fun _ f => f.unrep)), (16, s.ovl.persisted.toNat)]
  | _ => 0#32

/-- A CFG register. -/
def State.cfgRead (s : State) (off : Nat) : W32 :=
  if off < 0x24 then s.loadReg (off / 4)
  else if 0x1000 ≤ off ∧ off < 0x1200 then s.ovlReg ((off - 0x1000) / 16) (off % 16 / 4)
  else if 0x2000 ≤ off ∧ off < 0x2018 then s.scrubReg ((off - 0x2000) / 4)
  else if 0xE000 ≤ off then s.busconRead (off - 0xE000)
  else 0#32

/-! ### The map (R41) -/

/-- First hole offset of control space. -/
def ctlTop : Nat := 0x1500000

/-- The offsets that the chapters define: slot, first, end, modulus, and the ranges of bytes used of each modulus. -/
def ctlMap : List (Nat × Nat × Nat × Nat × List (Nat × Nat)) :=
  [(0, 0x20000, 0x20008, 8, [(0, 8)]), (1, 0, 4, 4, [(0, 4)]), (1, 0x100, 0x200, 16, [(0, 16)]), (1, 0x200, 0x214, 4, [(0, 4)]),
   (1, 0x1000, 0x3000, 4, [(0, 4)]), (2, 0, 0x10, 16, [(0, 16)]), (2, 0x100, 0x120, 4, [(0, 4)]), (2, 0x200, 0x210, 4, [(0, 4)]),
   (2, 0x300, 0x380, 4, [(0, 4)]), (2, 0x400, 0x408, 8, [(0, 8)]), (2, 0x500, 0x514, 4, [(0, 4)]), (2, 0x8000, 0x80C0, 8, [(0, 8)]),
   (3, 0, 0x400, 0x40, [(0, 4), (8, 0x24)]), (3, 0x800, 0x880, 4, [(0, 4)]), (3, 0xA00, 0xE00, 16, [(0, 8)]), (4, 0, 8, 8, [(0, 8)]),
   (4, 0x100, 0x300, 0x20, [(0, 0x18)]), (5, 0, 0x200, 0x100, [(0, 0x14), (0x18, 0x28), (0x30, 0x3C)])] ++
  [(6, 0, 0xC, 16, [(0, 12)]), (6, 0x1000, 0x2000, 0x100, [(0, 0x10), (0x40, 0x80)]), (7, 0, 0x400, 0x40, [(0, 0x18)]),
   (7, 0x800, 0x80C, 16, [(0, 12)]), (8, 0, 0xC, 16, [(0, 12)]), (8, 0x1000, 0x2180, 0x20, [(0, 0x14)]), (9, 0, 0x20, 4, [(0, 4)]),
   (9, 0x100, 0x180, 4, [(0, 4)]), (9, 0x1000, 0x1400, 4, [(0, 4)]), (9, 0x2000, 0x2800, 4, [(0, 4)]),
   (0xA, 0, 0x80000, 0x10000, [(0, 0x2C), (0x40, 0x58), (0x80, 0xD0), (0x100, 0x200)]), (0xA, 0x80000, 0x80200, 0x20, [(0, 4), (8, 0x20)]),
   (0xB, 0, 0x18, 0x20, [(0, 0x18)]), (0xB, 0x20, 0x40, 4, [(0, 4)]), (0xB, 0x100, 0x180, 16, [(0, 16)]), (0xC, 0, 0x24, 4, [(0, 4)]),
   (0xC, 0x1000, 0x1200, 16, [(0, 16)]), (0xC, 0x2000, 0x2018, 4, [(0, 4)]), (0xC, 0xE000, 0xE008, 8, [(0, 8)])] ++
  [(0xD, 0, 0x18, 4, [(0, 4)]), (0xD, 0x100, 0x200, 16, [(0, 12)]), (0xE, 0, 0x100, 4, [(0, 4)]), (0xE, 0x200, 0x220, 4, [(0, 4)]),
   (0xF, 0, 0x200, 0x40, [(0, 16)]), (0x10, 0, 0x200, 0x100, [(0, 0x14)]), (0x11, 0, 0x200, 0x100, [(0, 0x10), (0x40, 0x80)]),
   (0x12, 0, 16, 16, [(0, 16)]), (0x13, 0, 4, 4, [(0, 4)]), (0x13, 0x10, 0x20, 4, [(0, 4)]), (0x13, 0x40, 0x4C, 4, [(0, 4)]),
   (0x13, 0x50, 0x5C, 4, [(0, 4)]), (0x13, 0x10000, 0x14000, 0x80, [(0, 0x6C)]), (0x14, 0, 0xC, 4, [(0, 4)]),
   (0x14, 0x100, 0x200, 4, [(0, 4)])]

/-- Does a chapter define the register at an offset of control space (R42)? -/
def ctlDefined (off : Nat) : Bool :=
  let x := off % 0x100000
  ctlMap.any fun e => e.1 == off / 0x100000 && e.2.1 ≤ x && x < e.2.2.1 &&
    e.2.2.2.2.any fun r => r.1 ≤ x % e.2.2.2.1 && x % e.2.2.2.1 < r.2

/-- The bits that the chapters define of a register with writable fields; 0 for every other register (R15). -/
def ctlFields (off : Nat) : Nat :=
  let x := off % 0x100000
  match off / 0x100000 with
  | 1 => if 0x100 ≤ x ∧ x < 0x200 ∧ x % 16 = 0 then 0xFE else if 0x1000 ≤ x ∧ x < 0x2000 then 0x1FFF else 0
  | 2 =>
    if x = 0xC then 0x1FFFF
    else if 0x100 ≤ x ∧ x < 0x120 then 0xFFFFFF0F
    else if 0x200 ≤ x ∧ x < 0x210 then 0xFFFFFF07
    else if 0x300 ≤ x ∧ x < 0x380 then 7
    else if 0x8000 ≤ x ∧ x < 0x80C0 ∧ x % 8 = 0 then 0xF031F
    else 0
  | 3 =>
    if x < 0x400 then (match x % 0x40 with
      | 0x00 => 0x3FFF1FF
      | 0x18 => 0xF07
      | 0x1C => 0xFFFFFFFF
      | 0x20 => 0xBFFFFF7F
      | _ => 0)
    else if 0x800 ≤ x ∧ x < 0x880 then 0xFFFF000F
    else if 0xA00 ≤ x ∧ x < 0xE00 ∧ x % 16 = 0 then 0xFFFFFFFF
    else 0
  | 5 => if 0x200 ≤ x then 0 else (match x % 0x100 with
    | 0x00 => 0x737
    | 0x20 => 0xFFFFFFFF
    | 0x24 => 0x1FFFF
    | _ => 0)
  | 6 => if x = 4 then 0xFF03FF else if 0x1000 ≤ x ∧ x < 0x2000 ∧ x % 0x100 = 0 then 0x3FFFF else 0
  | 9 => if x = 4 then 0x1F01 else 0
  | 0xA => if x < 0x80000 then (if x % 0x10000 = 0x24 then 0xFF01 else if 0x40 ≤ x % 0x10000 ∧ x % 0x10000 < 0x58 then 0x3FFFFFFF else 0) else 0
  | 0x13 => if 0x10000 ≤ x ∧ x < 0x14000 ∧ x % 0x80 = 0x68 then 0x1F else 0
  | 0x14 => if x = 4 then 0xFFFF else 0
  | _ => 0

/-- Is the register at an offset one of a unit that the variant does not have, or whose gate is closed or power off? Such a
register reads zero and ignores writes (R6, R430, R434). -/
def State.ctlDark (s : State) (off : Nat) : Bool :=
  let x := off % 0x100000
  let gate (unit idx : Nat) : Bool := !(s.unitPresent unit idx && (match gateBit unit idx with
    | some (hi, b) => bitOf (if hi then s.ckr.gate1 else s.ckr.gate0).toNat b
    | none => true))
  match off / 0x100000 with
  | 0xA => x < 0x80000 && (gate 1 (x / 0x10000) || !bitOf s.ckr.pwrUnit.toNat (16 + x / 0x10000))
  | 0xB => gate 6 0
  | 0xE =>
    let k := if x < 0x100 then x / 0x20 else (x - 0x200) / 4
    k < 8 && (gate 2 k || !bitOf s.ckr.pwrUnit.toNat (24 + k))
  | 0xF => x < 0x200 && gate 3 (x / 0x40)
  | 0x10 => x < 0x200 && gate 4 (x / 0x100)
  | 0x11 => x < 0x200 && (gate 5 (x / 0x100) || !bitOf s.ckr.pwrMisc.toNat (1 + x / 0x100))
  | 0x13 => 0x10000 ≤ x && x < 0x14000 && !s.kitPresent ((x - 0x10000) / 0x400)
  | _ => false

/-- Is the register at an offset the _LO half of a pair (R16)? -/
def pairLo (off : Nat) : Bool :=
  let x := off % 0x100000
  match off / 0x100000 with
  | 3 => x < 0x400 && (x % 0x40 = 8 || x % 0x40 = 0x10)
  | 5 => x < 0x200 && (x % 0x100 = 8 || x % 0x100 = 0x18 || x % 0x100 = 0x30)
  | 7 => x < 0x400 && x % 0x40 = 8
  | 0xA => 0x80000 ≤ x && x < 0x80200 && (x % 0x20 = 8 || x % 0x20 = 16 || x % 0x20 = 24)
  | 0xB => x = 8
  | 0xD => x = 0x10 || (0x100 ≤ x && x < 0x200 && x % 16 = 0)
  | 0x12 => x = 8
  | 0x13 => 0x10000 ≤ x && x < 0x14000 && 0x30 ≤ x % 0x80 && x % 0x80 < 0x50 && x % 8 = 0
  | _ => false

/-! ### Reads -/

/-- The state that an outcome leaves. -/
def Out.state (s : State) : Out → State
  | .next t => t
  | .fault _ => s
  | .refused _ => s

/-- The register behind an offset whose read has an effect of its own (R13), as its row performs it. -/
def State.readRow (s : State) (who : Initiator) (off : Nat) : Option Out :=
  let x := off % 0x100000
  match off / 0x100000 with
  | 4 =>
    let o : Owner := Fin.ofNat 16 ((x - 0x100) / 0x20)
    if x < 0x100 ∨ 0x300 ≤ x then none
    else match x % 0x20 with
      | 0x0C => some (execStkLateRead who o s)
      | 0x10 => some (execStkDelayedRead who o s)
      | 0x14 => some (execStkDropRead who o s)
      | _ => none
  | 5 =>
    if 0x200 ≤ x then none
    else match x % 0x100 with
      | 0x30 => some (execPtuTsqPop who (Fin.ofNat 2 (x / 0x100)) s)
      | 0x38 => some (execPtuTsqStatRead who (Fin.ofNat 2 (x / 0x100)) false s)
      | _ => none
  | 6 =>
    let o : Owner := Fin.ofNat 16 ((x - 0x1000) / 0x100)
    if x = 8 then some (execQcuHostdropRead who s)
    else if x < 0x1000 ∨ 0x2000 ≤ x then none
    else if x % 0x100 = 0xC then some (execQcuDbdropRead who o s)
    else if x % 0x100 = 0x40 then some (execPopWindowPop who o s)
    else none
  | 7 => if x < 0x400 ∧ x % 0x40 = 0x14 then some (execTduGrpMissRead who (Fin.ofNat 16 (x / 0x40)) s) else none
  | 0xD => if x = 0xC then some (execPceDropRead who s) else none
  | _ => none

/-- A register whose read leaves it alone. -/
def State.plainRead (s : State) (who : Initiator) (off : Nat) : W32 × State :=
  let x := off % 0x100000
  match off / 0x100000 with
  | 0 => (s.mbxGlobal x, s)
  | 1 => (s.fltRead x, s)
  | 2 => (s.ckrRead x, s)
  | 3 => (s.axuRead x, s)
  | 4 => (s.stkRead x, s)
  | 5 => s.ptuRead who x
  | 6 => (s.qcuRead who x, s)
  | 7 => (s.tduRead x, s)
  | 8 => (s.nocRead x, s)
  | 9 => if x = 8 then s.vltLap else (s.vltRead x, s)
  | 0xA => (s.dmcRead x, s)
  | 0xB => (s.mxeReg x, s)
  | 0xC => (s.cfgRead x, s)
  | 0xD => (s.pceRead x, s)
  | 0xE => (s.glnRead x, s)
  | 0xF => (s.jlkRead x, s)
  | 0x10 => (s.emcRead x, s)
  | 0x11 => (s.lnkRead x, s)
  | 0x12 => (s.secRead x, s)
  | 0x13 => (s.dbgRead who (s.ownerOf who) x, s)
  | 0x14 => (s.thmRead x, s)
  | _ => (0#32, s)

/-- A 32-bit read of an offset outside the mailbox pages, with the capture of R16: a read of _LO captures _HI, and the
next read of _HI by the same initiator returns what was captured. -/
def State.wordRead (s : State) (who : Initiator) (off : Nat) : W32 × State :=
  match s.readRow who off with
  | some out =>
    let t := out.state s
    (BitVec.ofNat 32 (leNat t.readData), { t with readData := s.readData })
  | none =>
    let mine : (Initiator × Nat × W32) → Bool := fun e => e.1 = who && e.2.1 = off - 4
    match s.noc.hiRead.find? mine with
    | some e => (e.2.2, { s with noc.hiRead := s.noc.hiRead.filter fun e => !mine e })
    | none =>
      let r := s.plainRead who off
      if pairLo off then
        let hi := (r.2.plainRead who (off + 4)).1
        let keep : (Initiator × Nat × W32) → Bool := fun e => !(e.1 = who && e.2.1 = off)
        (r.1, { r.2 with noc.hiRead := r.2.noc.hiRead.filter keep ++ [(who, off, hi)] })
      else r

/-- A read of `n` bytes at an offset of control space. One of another size or alignment than R42 allows is an owner error
whose result is a free value. -/
def State.ctlRead (s : State) (who : Initiator) (off n : Nat) : NocStatus × List Byte × State :=
  let o := s.ownerOf who
  let twice : Bool := n = 8 && off % 8 = 0
  if ctlTop ≤ off + n - 1 then (.unmapped, [], s.raiseBy 199 who o)
  else if off < 0x20000 then
    let m : Mb := Fin.ofNat 33 (off / 0x1000)
    let x := off % 0x1000
    if ¬ s.passes who (s.box m).owner then (.notOwner, [], s.noteOwner who)
    else if n = 4 ∧ off % 4 = 0 then
      let r := s.boxAccess who m x false []
      (r.1, leBytes 4 r.2.1.toNat, r.2.2)
    else if twice then (.ok, leBytes 4 (s.boxWord m x).toNat ++ leBytes 4 (s.boxWord m (x + 4)).toNat, s)
    else let f := s.freshBytes n; (.ok, f.1, f.2)
  else if 0x1200000 ≤ off ∧ off < 0x1300000 ∧ who ≠ .belfry ∧ ¬ s.isSecure o then (.notOwner, [], s.raiseBy 198 who o)
  else if s.ctlDark off then (.ok, leBytes n 0, s)
  else if n = 4 ∧ off % 4 = 0 then let r := s.wordRead who off; (.ok, leBytes 4 r.1.toNat, r.2)
  else if twice ∧ pairLo off then
    let a := s.wordRead who off
    let b := a.2.wordRead who (off + 4)
    (.ok, leBytes 4 a.1.toNat ++ leBytes 4 b.1.toNat, b.2)
  else let f := s.freshBytes n; (.ok, f.1, f.2)

/-! ### Writes -/

/-- A belfry write of an AXU register (R77). -/
def State.axuWrite (s : State) (x : Nat) (v : Nat) : State :=
  if x < 0x400 then
    let n := x / 0x40
    let a := s.axis n
    match x % 0x40 with
    | 0x00 =>
      let c : AxCfg := { a.cfg with
        en := bitOf v 0, src := BitVec.ofNat 5 (bitsOf v 1 5), bidir := bitOf v 6, track := bitOf v 7
        ks := BitVec.ofNat 4 (bitsOf v 12 4), kp := BitVec.ofNat 4 (bitsOf v 16 4), bshift := BitVec.ofNat 6 (bitsOf v 20 6) }
      if bitOf v 0 ∧ a.st = .disabled then s.setAxis n { a with
        cfg := c, st := .running, rate := 0#64, n := 0, events := [], spos := a.pos, since := 256 * s.now, ringTime := s.now
        ringEpoch := none, first := true }
      else if ¬ bitOf v 0 then s.setAxis n { a with cfg := c, st := .disabled }
      else s.setAxis n { a with cfg := c }
    | 0x18 => s.setAxis n { a with
        heldS := a.heldS && !bitOf v 8, stallS := a.stallS && !bitOf v 9, stepS := a.stepS && !bitOf v 10
        discS := a.discS && !bitOf v 11 }
    | 0x1C => s.setAxis n { a with cfg := { a.cfg with clamp := BitVec.ofNat 24 v, stallExp := BitVec.ofNat 8 (bitsOf v 24 8) } }
    | 0x20 => s.setAxis n { a with cfg := { a.cfg with srcReg := BitVec.ofNat 32 v &&& 0xBFFFFF7F#32 } }
    | _ => s
  else if 0x800 ≤ x ∧ x < 0x880 then s.modPin ((x - 0x800) / 4) fun p => { p with cfg := BitVec.ofNat 32 v &&& 0xFFFF000F#32 }
  else if 0xA00 ≤ x ∧ x < 0xE00 ∧ x % 16 = 0 then s.modCap ((x - 0xA00) / 16) fun c => { c with cfg := BitVec.ofNat 32 v }
  else s

/-- A belfry write of a CKR register (R436). -/
def State.ckrWrite (s : State) (x v : Nat) : State :=
  if x = 0xC then { s with
    ckr.limit := BitVec.ofNat 16 v
    ckr.autoReturn := bitOf v 16 }
  else if 0x100 ≤ x ∧ x < 0x120 then s.modClkSrc ((x - 0x100) / 4) fun c => { c with failS := c.failS && !bitOf v 3 }
  else if 0x200 ≤ x ∧ x < 0x210 then s.modClkDom ((x - 0x200) / 4) fun d => { d with fallbackS := d.fallbackS && !bitOf v 2 }
  else if 0x300 ≤ x ∧ x < 0x380 then s.modGclk ((x - 0x300) / 4) fun g => { g with refusedS := g.refusedS && !bitOf v 2 }
  else s

/-- A belfry write of a PTU register (R97). -/
def State.ptuWrite (s : State) (x v : Nat) : State :=
  if 0x200 ≤ x then s
  else match x % 0x100 with
    | 0x00 => s.modPtuAt (x / 0x100) fun p => { p with
        holdS := p.holdS && !bitOf v 8, stepS := p.stepS && !bitOf v 9, resetS := p.resetS && !bitOf v 10 }
    | 0x20 => s.modPtuAt (x / 0x100) fun p => { p with lat := BitVec.ofNat 32 v }
    | 0x24 => s.modPtuAt (x / 0x100) fun p => { p with hold := BitVec.ofNat 32 (v % 2 ^ 17) }
    | _ => s

/-- A belfry write of a DMC register (R345). -/
def State.dmcWrite (s : State) (off v : Nat) : State :=
  let k := off / 0x10000
  let x := off % 0x10000
  if 8 ≤ k ∨ ¬ s.dportPresent k then s
  else if x = 0x24 then s.modDport k fun p => { p with scrubEn := bitOf v 0, lapH := BitVec.ofNat 8 (bitsOf v 8 8) }
  else if 0x40 ≤ x ∧ x < 0x58 then s.modDport k fun p => { p with bmap := tput p.bmap 0#30 ((x - 0x40) / 4) (BitVec.ofNat 30 v) }
  else s

/-- A belfry write of any register: fields that are not writable ignore it (R13). -/
def State.belfryWrite (s : State) (off v : Nat) : State :=
  let x := off % 0x100000
  match off / 0x100000 with
  | 1 =>
    if 0x1000 ≤ x ∧ x < 0x2000 then
      let i := (x - 0x1000) / 4
      s.setSrcCfg i { s.srcCfg i with
        level := bitsOf v 3 3, cap := bitsOf v 6 3, errn := bitOf v 9, latch := bitOf v 10, mask := bitOf v 11 }
    else s
  | 2 => s.ckrWrite x v
  | 3 => s.axuWrite x v
  | 5 => s.ptuWrite x v
  | 6 => if x = 4 then { s with qcu.limit := BitVec.ofNat 10 v } else s
  | 9 => if x = 4 then { s with
      vlt.scrubEn := bitOf v 0
      vlt.div := BitVec.ofNat 5 (bitsOf v 8 5) } else s
  | 0xA => s.dmcWrite x v
  | 0x14 => if x = 4 then { s with thm.warnAt := some (BitVec.ofNat 16 v) } else s
  | _ => s

/-- A write of one of DBG_RUN's bits (R470). -/
def State.runWrite (s : State) (who : Initiator) (g v : Nat) : State :=
  if bitOf v 0 then s.runHalt who g else if bitOf v 1 then s.runResume who g else if bitOf v 2 then s.runStep who g else s

/-- The owner-writable registers of R21 outside the mailbox pages: what a write does, checks included. -/
def State.ownerWrite (s : State) (who : Initiator) (off v : Nat) : Option State :=
  let x := off % 0x100000
  match off / 0x100000 with
  | 1 => if 0x100 ≤ x ∧ x < 0x200 ∧ x % 16 = 0 then
      some ((execFltPendWrite who (Fin.ofNat 16 ((x - 0x100) / 16)) (BitVec.ofNat 32 v) s).state s) else none
  | 2 => if 0x8000 ≤ x ∧ x < 0x80C0 ∧ x % 8 = 0 then
      some ((execFpllFlagClear who (Fin.ofNat 24 ((x - 0x8000) / 8)) (BitVec.ofNat 32 v) s).state s) else none
  | 6 => if 0x1000 ≤ x ∧ x < 0x2000 ∧ x % 0x100 = 0 then
      let o := (x - 0x1000) / 0x100
      some (if s.passes who (Fin.ofNat 16 o) then s.modWin o fun w => { w with sel := v % 2 ^ 18 } else s.noteOwner who)
    else none
  | 0x13 => if 0x10000 ≤ x ∧ x < 0x14000 ∧ x % 0x80 = 0x68 then some (s.runWrite who ((x - 0x10000) / 0x80) v) else none
  | _ => none

/-- Does a belfry write change a field of class Q while its block runs (R17)? A DRAM port runs, for DMC_BMAP, in state READY
(DESIGN CHOICE, log 125: the spec names no states), an axis while it is not disabled, a capture unit while it is armed. -/
def State.qWrite (s : State) (off v : Nat) : Bool :=
  let x := off % 0x100000
  match off / 0x100000 with
  | 3 =>
    if x < 0x400 then
      let a := s.axis (x / 0x40)
      decide (a.st ≠ .disabled) &&
        (match x % 0x40 with
        | 0x00 => decide (bitsOf v 1 7 ≠ bitsOf (s.axuCfg (x / 0x40)).toNat 1 7 ∨ bitsOf v 20 6 ≠ a.cfg.bshift.toNat)
        | 0x1C => true
        | 0x20 => true
        | _ => false)
    else if 0xA00 ≤ x ∧ x < 0xE00 ∧ x % 16 = 0 then
      let c := s.cap ((x - 0xA00) / 16)
      decide (c.mode ≠ 0) && decide (bitsOf v 0 12 ≠ bitsOf c.cfg.toNat 0 12 ∨ bitsOf v 14 18 ≠ bitsOf c.cfg.toNat 14 18)
    else false
  | 0xA => x < 0x80000 && 0x40 ≤ x % 0x10000 && x % 0x10000 < 0x58 && decide ((s.dport (x / 0x10000)).st = .ready)
  | _ => false

/-- The value that a 32-bit write leaves for its register: what is written, or a free value of the register's defined bits where
the write is an owner error: ones in reserved bits (R15), a change of a Q-class field while its block runs (R17), several bits of
DBG_RUN at once (R489). -/
def State.ctlValue (s : State) (who : Initiator) (off v : Nat) : Nat × State :=
  let m := ctlFields off
  let run : Bool := off / 0x100000 = 0x13 && decide (1 < b2n (bitOf v 0) + b2n (bitOf v 1) + b2n (bitOf v 2))
  if m ≠ 0 ∧ (v &&& m ≠ v ∨ (who = .belfry ∧ s.qWrite off v) ∨ run) then
    let f := s.fresh 32
    (f.1.toNat &&& m, f.2)
  else (v, s)

/-- A 32-bit write outside the mailbox pages (R22, R42). -/
def State.wordWrite (s : State) (who : Initiator) (off v : Nat) : State :=
  let x := s.ctlValue who off v
  match x.2.ownerWrite who off x.1 with
  | some t => t
  | none => if ¬ ctlDefined off then s else if who = .belfry then x.2.belfryWrite off x.1 else s.noteOwner who

/-- Is a write of `n` bytes at an offset of the size and alignment that R42 and R397 allow? -/
def ctlShape (who : Initiator) (off n : Nat) : Bool :=
  let wide : Bool := n = 8 && off % 8 = 0
  let pf : Bool := match who with | .pf _ => true | _ => false
  let buf : Bool := 0x100 ≤ off % 0x1000 && off % 0x1000 + n ≤ 0x500
  (n = 4 && off % 4 = 0) || (if off < 0x20000 then buf && (wide || (pf && n ≤ 512)) else wide && pairLo off)

/-- A write of another size or alignment, an owner error (R42): each register that it touches is written with free values of
its defined bits, as far as the writer may write it at all. -/
def State.ctlBadWrite (s : State) (who : Initiator) (off n : Nat) : State :=
  (List.range ((off + n + 3) / 4 - off / 4)).foldl (fun (s : State) (i : Nat) =>
    let a := off / 4 * 4 + 4 * i
    let f := s.fresh 32
    if a < 0x20000 then (f.2.boxAccess who (Fin.ofNat 33 (a / 0x1000)) (a % 0x1000) true (leBytes 4 f.1.toNat)).2.2
    else if f.2.ctlDark a then f.2
    else f.2.wordWrite who a (f.1.toNat &&& ctlFields a)) s

/-- A write to control space. No register of a pair is writable, so a write of a _HI half has nothing to hold (R16). -/
def State.ctlWrite (s : State) (who : Initiator) (off : Nat) (bs : List Byte) : NocStatus × State :=
  if ctlTop ≤ off then (.unmapped, s.raiseBy 199 who (s.ownerOf who))
  else if ¬ ctlShape who off bs.length then (.ok, s.ctlBadWrite who off bs.length)
  else if off < 0x20000 then
    let m : Mb := Fin.ofNat 33 (off / 0x1000)
    let r := s.boxAccess who m (off % 0x1000) true bs
    (r.1, r.2.2)
  else if s.ctlDark off then (.ok, s)
  else if 0x1200000 ≤ off ∧ off < 0x1300000 ∧ who ≠ .belfry ∧ ¬ s.isSecure (s.ownerOf who) then (.notOwner, s.noteOwner who)
  else (.ok, s.wordWrite who off (leNat (bs.take 4)))

/-- REGISTER_WRITE. -/
def execRegisterWrite (who : Initiator) (off : BitVec 28) (wide : Bool) (v : BitVec 64) (s : State) : Out :=
  let bs := leBytes (if wide then 8 else 4) v.toNat
  .next (s.inHostOrder who (ctlBase + off.toNat) none bs fun s => (s.ctlWrite who off.toNat bs).2)

end Sys2Proof.Machine
end

