-- ==== Sys2Proof/Machine/Request.lean ====
section
/-!
DEFINITION. Machine/Request.lean: requests of the network: issue, injection and release at the source NI (R275, R281 to
R284, R291, R292), service at the target NI (R24, R280), responses in flow order (R283), the fabric port's channels (R122 to
R124), the debug master (R474, R475).
-/
namespace Sys2Proof.Machine

/-! ### Targets that answer at once -/

/-- What a target makes of an access: its answer, a full queue, or a target that answers later. -/
inductive Served where
  | done (st : NocStatus) (data : List Byte) (s : State)
  | full
  | later

/-- A read of a doorbell page (R249). -/
def State.doorbellRead (s : State) (who : Initiator) (q off n : Nat) : Served :=
  let x := s.queue q
  if x.kind ≠ .free ∧ x.owner = s.ownerOf who ∧ n = 4 ∧ off % 4 = 0 ∧ off < 16 then
    .done .ok (leBytes 4 (match off / 4 with
      | 0 => x.size - x.count
      | 1 => x.count
      | 2 => x.pidx
      | _ => x.cidx)) s
  else .done .ok (leBytes n 0) (s.doorbellDrop who)

/-- A push through a doorbell page (R249, R251). -/
def State.pushTry (s : State) (who : Initiator) (q : Nat) (bs : List Byte) : Served :=
  if ¬ s.qSoftPush (s.ownerOf who) q bs.length then .done .ok [] (s.doorbellDrop who)
  else match s.qPush q bs with
    | (.ok, t) => .done .ok [] t
    | (.full, _) => .full
    | (.err st, t) => .done st [] t

/-- A write of a doorbell page. -/
def State.doorbellWrite (s : State) (who : Initiator) (q off : Nat) (bs : List Byte) : Served :=
  if off = 0 then s.pushTry who q bs
  else if off = 0x38 ∧ bs.length = 4 then .done .ok [] (s.consume who q (leNat bs))
  else .done .ok [] (s.doorbellDrop who)

/-- Is an access of the posting window of 4 or 8 bytes and naturally aligned (R57)? -/
def strikeForm (off n : Nat) : Bool := (n = 4 || n = 8) && off % n = 0

/-- A read of the posting window. -/
def State.strikeRead (s : State) (who : Initiator) (slot off n : Nat) : Served :=
  if ¬ strikeForm off n then .done .error [] s
  else if ¬ s.slotMine who slot then .done .notOwner [] (s.noteOwner who)
  else .done .ok (s.slotBytes slot off n) s

/-- A write of the posting window. -/
def State.strikeWrite (s : State) (who : Initiator) (slot off : Nat) (bs : List Byte) : Served :=
  if ¬ strikeForm off bs.length then .done .error [] s
  else .done .ok []
    (if off < 24 then s.stageWrite who slot off bs
    else if off = 24 then s.commitWrite who slot bs
    else if s.slotMine who slot then s else s.noteOwner who)

/-- A read at a target that answers at once. -/
def State.serveRead (s : State) (who : Initiator) (o : Owner) (a n : Nat) : Served :=
  match s.place a n with
  | .hole => .done .unmapped [] (s.raiseBy 199 who o)
  | .ctl off => let r := s.ctlRead who off n; .done r.1 r.2.1 r.2.2
  | .doorbell q off => s.doorbellRead who q off n
  | .strike slot off => s.strikeRead who slot off n
  | .fabric _ _ => .later
  | .host => .later
  | .ring _ _ => .later
  | _ => match s.fastRead who o a n with
    | some r => .done r.1 r.2.1 r.2.2
    | none => .later

/-- A write at a target that answers at once. -/
def State.serveWrite (s : State) (who : Initiator) (o : Owner) (a : Nat) (bs : List Byte) : Served :=
  match s.place a bs.length with
  | .hole => .done .unmapped [] (s.raiseBy 199 who o)
  | .ctl off => let r := s.ctlWrite who off bs; .done r.1 [] r.2
  | .doorbell q off => s.doorbellWrite who q off bs
  | .strike slot off => s.strikeWrite who slot off bs
  | .fabric _ _ => .later
  | .host => .later
  | .ring _ _ => .later
  | _ => match s.fastWrite who o a bs with
    | some r => .done r.1 [] r.2
    | none => .later

/-! ### Issue and injection -/

/-- A new request at its source NI. -/
def State.newReq (s : State) (r : Req) : Nat × State :=
  (s.noc.nextReq, { s.setReq s.noc.nextReq (some { r with since := s.now }) with noc.nextReq := s.noc.nextReq + 1 })

/-- Is there an earlier request of the same NI that `p` names? -/
def State.earlier (s : State) (id : Nat) (r : Req) (p : Req → Bool) : Bool :=
  s.noc.req.any fun (e : Nat × Option Req) => decide (e.1 < id) &&
    match e.2 with | some q => q.src == r.src && p q | none => false

/-- Router of a vault port. -/
def vaultRouter (n : Nat) : Bool := 5 ≤ n && n ≤ 8

/-- The next TAG of an NI: one that no abort holds back (R289). -/
def State.pickTag (s : State) (n : Nat) : Nat → BitVec 12 → BitVec 12
  | 0, t => t
  | fuel + 1, t =>
    if s.noc.aborted.any fun (a : Nat × BitVec 12 × Nat) => a.1 == n && a.2.1 == t && decide (s.now < a.2.2) then
      s.pickTag n fuel (t + 1) else t

/-- The request leaves its NI for router `dst` on a virtual channel (R281), in the present epoch. -/
def State.inject (s : State) (id : Nat) (r : Req) (dst vc : Nat) : State :=
  let t := s.pickTag r.src (s.noc.aborted.length + 1) (s.rtr r.src).nextTag
  let s := { s with noc.aborted := s.noc.aborted.filter fun (a : Nat × BitVec 12 × Nat) => decide (s.now < a.2.2) }
  (s.modRtr r.src fun x => { x with nextTag := t + 1 }).setReq id
    (some { r with dst := dst, vc := vc, tag := t, epoch := s.noc.epoch, stage := .mesh, sent := true })

/-- VC0 or VC3 of a request without a contract (R281). -/
def plainVc (who : Initiator) : Nat :=
  match who with
  | .belfry => 3
  | .debug _ => 3
  | .jtag => 3
  | _ => 0

/-- Does the NI hold a store credit of router `dst` for a request on a virtual channel (R282)? VC2 has space of its own. -/
def State.credit (s : State) (src dst vc : Nat) : Bool :=
  let used := s.reqCount fun q => q.src == src && q.dst == dst && q.vc != 2 && q.out
  vc = 2 || decide (used = 0) || decide (used ≤ Config.storeRoom src dst)

/-- May the NI issue the request (R275, R282 to R285, R290)? -/
def State.mayIssue (s : State) (id : Nat) (r : Req) (dst vc : Nat) : Bool :=
  !s.draining && s.niCode r.src = 1 && s.credit r.src dst vc && !s.earlier id r (fun q => q.op == .fence) &&
  !s.earlier id r (fun q => q.flow == r.flow && decide (q.stage = .waiting ∨ q.stage = .retry)) &&
  !(vaultRouter dst && s.earlier id r fun q => q.flow == r.flow && vaultRouter q.dst && q.dst != dst && q.out)

/-- Where a request without tokens to wait for goes: an error response of its own NI, or a router. -/
def State.issueTo (s : State) (r : Req) : NocStatus × Nat × State :=
  match s.place r.addr r.len with
  | .hole => (.unmapped, 0, s.raiseBy 199 r.who r.owner)
  | .ring q _ =>
    if s.ringPresent 0 ∧ ((s.peerPort q).isNone ∨ q = s.man.ringId.toNat) then (.error, 0, s)
    else (.ok, portRouter (s.ringPortOf q), s)
  | _ => match s.targetRouter r.addr r.len with
    | some n => if (s.path r.src n).isSome then (.ok, n, s) else (.error, 0, s)
    | none => (.unmapped, 0, s)

/-- An uncontracted request, or one of a DEMOTED contract, is issued; `dst` is the vault port of a contracted flow. -/
def State.issue (s : State) (id : Nat) (r : Req) (port : Option Nat) (vc : Nat) : State :=
  let x := s.issueTo r
  if x.1 ≠ .ok then x.2.2.answer id r x.1 []
  else
    let dst := port.getD x.2.1
    if s.mayIssue id r dst vc then s.inject id r dst vc else s

/-- The vault port that a flow names. -/
def Flow.port (f : Flow) : Option Nat :=
  match f.dst with
  | .ni m => if vaultRouter m then some m else none
  | _ => none

/-- A waiting request leaves its NI if it may; one to a hole is answered UNMAPPED there (R39), one of a flow that its contract
regulates waits for FLOW_RELEASE, and one that its flow refuses is answered ERROR (R278, R291). -/
def State.tryInject (s : State) (id : Nat) (release : Bool) : State :=
  match s.req id with
  | none => s
  | some r =>
    if r.stage ≠ .waiting ∨ r.op = .fence then s
    else if s.place r.addr r.len = .hole then (s.raiseBy 199 r.who r.owner).answer id r .unmapped []
    else if r.flow = 0 then (if release then s else s.issue id r none (plainVc r.who))
    else match s.flowOf r.src r.flow with
      | none => s.answer id r .error []
      | some (c, k, f) =>
        if s.flowRefuses f (r.op == .write) r.addr r.len then s.answer id r .error []
        else if k.st = .demoted then (if release then s else s.issue id r f.port 0)
        else
          let need := 1000 * min r.len f.burst
          if ¬ release ∨ f.bucket s.now < need then s
          else
            let t := s.issue id r f.port 2
            match t.req id with
            | some q =>
              if q.stage = .mesh then
                t.setCon c (some { k with flows := k.flows.map fun (g : Flow) =>
                  if g = f then { g with tokens := f.bucket s.now - need, tokenTime := s.now } else g })
              else t
            | none => t

/-- FLOW_RELEASE (R292): tokens suffice, and the request goes. -/
def execFlowRelease (id : Nat) (s : State) : Out := .next (s.tryInject id true)

/-- A request issued by an initiator that has no flow of its own waits on. -/
def State.issueNew (s : State) (r : Req) : State :=
  let x := s.newReq r
  x.2.tryInject x.1 false

/-! ### Arrival at the target NI -/

/-- Do two requests address one target (R283)? The vault is one. -/
def sameTarget (a b : Req) : Bool := a.dst == b.dst || (vaultRouter a.dst && vaultRouter b.dst)

/-- Must a request wait behind an earlier one of its flow and target? -/
def State.behind (s : State) (id : Nat) (r : Req) : Bool :=
  let memory : Bool := match s.place r.addr r.len with | .vault => true | .dram _ => true | _ => false
  s.earlier id r fun q => q.flow == r.flow && sameTarget q r &&
    (decide (q.stage = .waiting ∨ q.stage = .mesh ∨ q.stage = .retry) || (memory && decide (q.stage = .target)))

/-- The block behind the target, for all but control-space slots, whose registers R6 and R437 cover. -/
def State.targetBlock (s : State) (r : Req) : Option Block :=
  match s.place r.addr r.len with
  | .ctl _ => none
  | _ => routerBlock r.dst

/-- What the router or NI of an absent, powered-down or reset target answers (R6, R288, R290). -/
def State.proxyAnswer (s : State) (r : Req) : Option NocStatus :=
  match s.targetBlock r with
  | none => none
  | some b =>
    if s.proxyCode r.dst = 1 then some .absent
    else if s.proxyCode r.dst = 2 ∨ s.niCode r.dst = 2 then some .domainOff
    else if s.ckr.inReset.contains b then some .resetAbort
    else none

/-- The data words of a packet checked at a sink NI (R280): `ce` of them put right, each counted and raised, and `ue` beyond the
code, which true names. -/
def State.sinkCheck (s : State) (n : Nat) (who : Initiator) (o : Owner) (ce ue : Nat) : Bool × State :=
  let s := if ce = 0 then s
    else (List.range ce).foldl (fun (t : State) _ => t.raise 194 []) (s.modRtr n fun x => { x with dataCe := satAdd x.dataCe ce })
  if ue = 0 then (false, s) else (true, (s.modRtr n fun x => { x with dataUe := satAdd x.dataUe ue }).raiseBy 195 who o)

/-- The errors found in a packet of `n` data bytes: no more words than it has. -/
def wordsOf (n k : Nat) : Nat := min k (ceilDiv n 8)

/-- The header of a ring packet: that of R276 without the fields of the mesh (R377). -/
def packetHeader (r : Req) (op flits st : Nat) : List Byte := leBytes 16 (header { r with epoch := false } 0 0 0 op flits st).toNat

/-- An accepted request of the ring port goes to its peer (R383). -/
def State.toPeer (s : State) (q : Nat) (r : Req) : State :=
  let p : Fin 2 := if r.dst = 0 then 0 else 1
  s.ringSendData p none 1 q (packetHeader r r.op.code (flitCount r.data.length) 0) r.data

/-- Window, owner and range of an access to host memory (R366). -/
def State.outCheck (s : State) (r : Req) : NocStatus :=
  let w := s.outWin ((r.addr - hostBase) / 2 ^ 36)
  if ¬ w.taken ∨ (r.addr - hostBase) % 2 ^ 36 + r.len > 2 ^ 36 then .unmapped
  else if r.owner ≠ w.owner ∧ r.who ≠ .belfry then .notOwner
  else .ok

/-- The target takes the request. A push that finds its queue full is answered RETRY, and the initiator NI keeps it (R282); the
host's counts as held in the receive buffer (R252). -/
def State.reach (s : State) (id : Nat) (r : Req) : State :=
  let serve (x : Served) : State := match x with
    | .done st data t => t.answer id r st data
    | .full => (s.setReq id (some { r with stage := .retry, sent := false })).hold
        (match r.who with | .pf fn => .initiator (.pf fn) | _ => .ni id) ((r.addr - doorbellBase) / 64) r.data
    | .later => s
  let keep (t : State) : State := t.setReq id (some { r with stage := .target, since := s.now })
  match s.place r.addr r.len with
  | .vault => keep s
  | .dram _ => keep s
  | .fabric _ _ => keep s
  | .host => (match s.outCheck r with
    | .ok => keep s
    | .notOwner => (s.raiseBy 198 r.who r.owner).answer id r .notOwner []
    | st => s.answer id r st [])
  | .ring q _ => (keep s).toPeer q r
  | _ => if r.op = .write then serve (s.serveWrite r.who r.owner r.addr r.data)
    else serve (s.serveRead r.who r.owner r.addr r.len)

/-- NOC_REQUEST: the request is issued if it still waits, then its target NI takes it. `ce` and `ue` are the words of its data that
the check finds. -/
def State.nocRequest (s : State) (id ce ue : Nat) : State :=
  let s := s.tryInject id false
  match s.req id with
  | none => s
  | some r =>
    if r.stage ≠ .mesh ∨ s.behind id r then s
    else match s.proxyAnswer r with
      | some .resetAbort => (s.modRtr r.dst fun x => { x with abort := satInc x.abort }).answer id r .resetAbort []
      | some st => s.answer id r st []
      | none =>
        let c := s.sinkCheck r.dst r.who r.owner (wordsOf r.data.length ce) (wordsOf r.data.length ue)
        if c.1 then c.2.answer id r .poisoned [] else c.2.reach id r

def execNocRequest (id : Nat) (ce ue : Fin 65) (s : State) : Out := .next (s.nocRequest id ce.val ue.val)

/-! ### Responses -/

/-- A frame that the MAC has read whole is sent, and its descriptor popped (R374): a time-stamp is asked for under its TSID where
TSREQ is set, or where one-step insertion failed (R83, R87). A frame that could not be read is not sent. -/
def State.macSend (s : State) (n : Fin 2) (d : List Byte) (st : NocStatus) (frame : List Byte) : State :=
  let f := leNat ((d.drop 12).take 1)
  let x := s.txFrame n.val d frame
  let stamp : Bool := bitOf f 0 || x.2
  let tsid : BitVec 16 := BitVec.ofNat 16 (leNat ((d.drop 10).take 2))
  let line := if bitOf f 2 then x.1 ++ leBytes 4 (frameFcs x.1).toNat else x.1
  let s := (s.qPop (s.mac n.val).txq).2.2.modMac n.val fun x => { x with txPend := none, txGot := [] }
  if st ≠ .ok then s
  else s.modMac n.val fun y => { y with
    tx := satInc y.tx
    sent := y.sent ++ [(line, if stamp then some tsid else none)]
    stamps := y.stamps ++ (if stamp then [(tsid, x.2)] else []) }

/-- A stored frame is described (R374): a frame whose buffer refused it is dropped. -/
def State.macStored (s : State) (n : Fin 2) (d : List Byte) (st : NocStatus) : State :=
  if st ≠ .ok then s
  else match s.qPush (s.mac n.val).rxq d with
    | (.ok, t) => t.modMac n.val fun x => { x with rx := satInc x.rx }
    | (_, t) => t.modMac n.val fun x => { x with nobuf := satInc x.nobuf }

/-- The request of a MAC on its flow. -/
def State.macReq (s : State) (n : Fin 2) (write : Bool) (a len : Nat) (bs : List Byte) : Req :=
  { op := if write then .write else .read, src := laneRouter (2 + n.val), dst := 0, flow := (s.mac n.val).flow
    owner := s.ptuOwner n.val, who := .mac n, addr := a, len := len, data := bs, sink := .mac n }

/-- The largest request of a MAC on its flow. -/
def State.macMax (s : State) (n : Fin 2) : Nat := s.flowMax (laneRouter (2 + n.val)) (s.mac n.val).flow

/-- The next read of the frame of the transmit descriptor. -/
def State.macFetch (s : State) (n : Fin 2) (d got : List Byte) : State :=
  let a := leNat (d.take 8) % 2 ^ 48
  let k := min (leNat ((d.drop 8).take 2) - got.length) (s.macMax n)
  (s.modMac n.val fun x => { x with txPend := some d, txGot := got }).issueNew (s.macReq n false (a + got.length) k [])

/-- The next write of a received frame to its buffer. -/
def State.macPut (s : State) (n : Fin 2) (d : List Byte) (a : Nat) (bs : List Byte) : State :=
  let part := bs.take (s.macMax n)
  (s.modMac n.val fun x => { x with
    rxPend := x.rxPend ++ [({ req := s.noc.nextReq, desc := d, addr := a + part.length, rest := bs.drop part.length } : RxFrame)] }).issueNew
      (s.macReq n true a part.length part)

/-- The response of a MAC's request: the frame goes on, or is complete. -/
def State.macDeliver (s : State) (n : Fin 2) (id : Nat) (write : Bool) (st : NocStatus) (data : List Byte) : State :=
  if ¬ write then (match (s.mac n.val).txPend with
    | some d =>
      let got := (s.mac n.val).txGot ++ data
      if st = .ok ∧ got.length < leNat ((d.drop 8).take 2) then s.macFetch n d got else s.macSend n d st got
    | none => s)
  else match (s.mac n.val).rxPend.find? fun e => e.req == id with
    | some e =>
      let s := s.modMac n.val fun x => { x with rxPend := x.rxPend.filter fun e => e.req != id }
      if st = .ok ∧ e.rest ≠ [] then s.macPut n e.desc e.addr e.rest else s.macStored n e.desc st
    | none => s

/-- How the response of a host read completes it (R365). -/
def NocStatus.cpl : NocStatus → Cpl
  | .ok => .success
  | .unmapped => .unsupported
  | .absent => .unsupported
  | .poisoned => .poisoned
  | _ => .abort

/-- A completion for a host read; a failed write is dropped and counted (R365). -/
def State.hostDone (s : State) (fn : Fin 2) (write : Bool) (st : NocStatus) (data : List Byte) : State :=
  if write then (if st = .ok then s else { s with pce.errDrop := satInc s.pce.errDrop })
  else { s with pce.completions := s.pce.completions ++ [(fn, st.cpl, data)] }

/-- The response of a request reaches the one who waits for it. -/
def State.deliver (s : State) (id : Nat) (r : Req) (st : NocStatus) (data : List Byte) : State :=
  let s := s.setReq id none
  match r.sink with
  | .fabric sec => s.modSector sec.val fun x => { x with
      reserved := x.reserved - (if r.op = .read then ceilDiv r.len 64 - ceilDiv data.length 64 else 0)
      responses := x.responses ++ [(r.flow, st, data)] }
  | .kdma g c => s.kdmaDeliver g c id st data
  | .arg g => s.argDeliver g id st data
  | .lock g => s.lockDeliver g id st data
  | .mac n => s.macDeliver n id (r.op == .write) st data
  | .host fn => s.hostDone fn (r.op == .write) st data
  | .debug i => s.finish (s.sess i.val).mb .ok (leBytes 4 st.code ++ leBytes 12 0 ++ data)
  | .ring p src tag =>
    s.ringSendData p none 1 src.val
      (packetHeader { r with tag := tag } r.op.replyCode (flitCount data.length) st.code) data
  | .none => s

/-- NOC_RESPONSE (R280, R283): the response of a request is delivered once those of every earlier request of its flow have
been. `ce` and `ue` are the words of its data that the check finds. -/
def State.nocResponse (s : State) (id ce ue : Nat) : State :=
  match s.req id with
  | none => s
  | some r =>
    match r.stage with
    | .answered st data =>
      if s.earlier id r fun q => q.flow == r.flow && q.op != .fence then s
      else
        let c := s.sinkCheck r.src r.who r.owner (wordsOf data.length ce) (wordsOf data.length ue)
        c.2.deliver id r (if c.1 then .poisoned else st) data
    | _ => s

def execNocResponse (id : Nat) (ce ue : Fin 65) (s : State) : Out := .next (s.nocResponse id ce.val ue.val)

/-- FENCE (R284): every earlier request of the NI has received its response, and the FACK arrives. -/
def execFence (id : Nat) (s : State) : Out :=
  .next (match s.req id with
    | some r => if r.op = .fence ∧ ¬ s.earlier id r fun _ => true then s.deliver id r .ok [] else s
    | none => s)

/-! ### The fabric port (R122 to R124) -/

/-- May the initiator request channel take a request: the response buffer of 256 entries has room for its data (R123)? -/
def State.portRoom (s : State) (sec : Nat) (write : Bool) (n : Nat) : Bool :=
  write || decide ((s.sector sec).reserved + ceilDiv n 64 ≤ 256)

/-- FABRIC_INITIATOR_REQUEST: a read or write of 1 to 8 beats of 64 bytes; a length of 0 is a FENCE (R284). The fabric ports'
network interfaces accept traffic from RELEASE_IO on (R169). -/
def State.fabricRequest (s : State) (sec : SectorId) (flow : Nat) (write : Bool) (a n : Nat) (data : List Byte) : State :=
  let q : Initiator := .sector sec
  let r : Req := {
    op := if n = 0 then .fence else if write then .write else .read
    src := sectorRouter sec.val
    dst := 0
    flow := flow
    owner := s.ownerOf q
    who := q
    addr := a
    len := n
    data := if write then padTo n (data.take n) else []
    sink := .fabric sec }
  if ¬ s.cfg.ioOn ∨ s.niCode r.src ≠ 1 ∨ s.ckr.inReset.contains (.fport sec) ∨ ¬ s.portRoom sec.val write n then s
  else (s.modSector sec.val fun x => { x with reserved := x.reserved + (if r.op = .read then ceilDiv n 64 else 0) }).issueNew r

def execFabricInitiatorRequest (sec : SectorId) (flow : Fin 16) (write : Bool) (addr : BitVec 48) (beats : Fin 9)
    (data : List Byte) (s : State) : Out :=
  .next (s.fabricRequest sec flow.val write addr.toNat (64 * beats.val) data)

/-- FABRIC_QUEUE_PUSH (R124): a push that is not accepted waits with ready deasserted, so while one waits the channel takes
no other. -/
def State.fabricPush (s : State) (sec : SectorId) (q : Nat) (bs : List Byte) : State :=
  let who : Initiator := .sector sec
  let resp (t : State) (st : NocStatus) : State := t.modSector sec.val fun x => { x with queueResp := x.queueResp ++ [(st, [])] }
  if s.qcu.held.any fun h => h.who = .fabric sec then s
  else if ¬ s.qSoftPush (s.ownerOf who) q bs.length then resp (s.doorbellDrop who) .notOwner
  else match s.qPush q bs with
    | (.ok, t) => resp t .ok
    | (.full, t) => t.hold (.fabric sec) q bs
    | (.err st, t) => resp t st

def execFabricQueuePush (sec : SectorId) (q : QueueId) (data : List Byte) (s : State) : Out :=
  .next (s.fabricPush sec q.val data)

/-- FABRIC_QUEUE_POP (R124): the entry, or EMPTY in one response beat. -/
def State.fabricPop (s : State) (sec : SectorId) (q : Nat) : State :=
  let who : Initiator := .sector sec
  let resp (t : State) (st : NocStatus) (bs : List Byte) : State :=
    { t.modSector sec.val (fun x => { x with queueResp := x.queueResp ++ [(st, bs)] }) with readData := bs }
  if ¬ s.qSoftPop (s.ownerOf who) q then resp (s.doorbellDrop who) .notOwner []
  else let r := s.qPop q; resp r.2.2 r.1 r.2.1

def execFabricQueuePop (sec : SectorId) (q : QueueId) (s : State) : Out := .next (s.fabricPop sec q.val)

/-- The request that waits at a sector's target request channel. -/
def State.atSector (s : State) (sec : SectorId) (id : Nat) : Option Req :=
  match s.req id with
  | some r => match s.place r.addr r.len with
    | .fabric n _ => if n = sec.val ∧ r.stage = .target then some r else none
    | _ => none
  | none => none

/-- TARGET_RESPONSE (R122): user logic answers a target request; read data is what it presents, in the request's
length. -/
def execTargetResponse (sec : SectorId) (id : Nat) (status : BitVec 4) (data : List Byte) (s : State) : Out :=
  .next (match s.atSector sec id with
    | some r => if (s.sector sec.val).frozen then s
      else s.answer id r (NocStatus.ofCode status.toNat) (if r.op = .read then padTo r.len (data.take r.len) else [])
    | none => s)

/-- The time of 4,096 cycles of a sector's port clock in ns (R123). -/
def State.portLimit (s : State) (sec : Nat) : Nat := Config.portLimit ((sectorQuads sec).map s.quadFrames)

/-- TARGET_TIMEOUT (R123): the target request was left unaccepted for 4,096 port clock cycles. A session that has stopped
the sector's clocks stops the count (R477). -/
def execTargetTimeout (sec : SectorId) (id : Nat) (s : State) : Out :=
  .next (match s.atSector sec id with
    | some r => if (s.sector sec.val).frozen ∨ s.now < r.since + s.portLimit sec.val then s
      else (s.answer id r .timeout []).raise 200 [s.sectorOwner sec.val]
    | none => s)

/-! ### The debug master (R474, R475) -/

/-- DBG_MEM: a read or write of 4 to 512 bytes on VC3, stamped with the session's owner. -/
def execDbgMem (m : Mb) (s : State) : Out :=
  .next (s.serveLong m 0x0B12 anyForm 0x10 fun r s => s.inSession m r 2 fun i _ s =>
    let n := r.u32 0x18
    let op := r.u32 0x1C
    let a := r.u64 0x10
    let who : Initiator := .debug i
    if n < 4 ∨ 512 < n ∨ 1 < op ∨ 2 ^ 48 ≤ a then no .wrongState s
    else .accepted (s.issueNew {
      op := if op = 1 then .write else .read
      src := 139
      dst := 0
      flow := 0
      owner := s.ownerOf who
      who := who
      addr := a
      len := n
      data := if op = 1 then r.bytes 0x20 n else []
      sink := .debug i }))

/-- DEBUG_READ (R475): a read of the debug master, which has no side effect on registers and pop ports. The data is left in
`readData`. -/
def execDebugRead (i : Fin 4) (addr : BitVec 48) (n : Fin 513) (s : State) : Out :=
  let who : Initiator := .debug i
  if ¬ (s.sess i.val).live ∨ n.val = 0 then .next s
  else match s.serveRead who (s.ownerOf who) addr.toNat n.val with
    | .done _ bs t => .next { t with readData := bs }
    | .later => .next s
    | .full => .next s

end Sys2Proof.Machine
end

