-- ==== Sys2Proof/Machine/Host.lean ====
section
/-!
DEFINITION. Machine/Host.lean: memory requests through the serial ports: the PCI Express endpoint's BARs, MSI-X tables,
configuration requests and outbound windows (R40, R173, R364 to R366), pushes held at full queues (R251 to R253), Ethernet frames (R373, R374, R82, R83), packets of
ring peers (R383).
-/
namespace Sys2Proof.Machine

/-! ### BARs (R40, R364, R365) -/

def pf0Bar0 (off : Nat) : BarAt :=
  if off < 0xC000000 then .at (0x040000000000 + off)
  else if off < 0xC200000 then .at (strikeBase + (off - 0xC000000))
  else if 0xC800000 ≤ off ∧ off < 0xC808000 then .table (off - 0xC800000)
  else if 0xC810000 ≤ off ∧ off < 0xC820000 then .pba (off - 0xC810000)
  else .nothing

def pf1Bar0 (off : Nat) : BarAt :=
  if off < 0x1000 then .at (0x04000000A000 + off)
  else if 0x8000 ≤ off ∧ off < 0x8200 then .table (off - 0x8000)
  else if 0x9000 ≤ off ∧ off < 0xA000 then .pba (off - 0x9000)
  else .nothing

/-- The target of a BAR access; none for a BAR or function that does not exist. -/
def State.barAt (s : State) (fn : Fin 2) (bar : Fin 3) (off : Nat) : Option BarAt :=
  if fn = 0 then
    if bar = 0 then (if off < 2 ^ 28 then some (pf0Bar0 off) else none)
    else if bar = 1 then (if off < 2 ^ 24 then some (.at (doorbellBase + off)) else none)
    else some (.at (s.pce.abase * 2 ^ 36 + off))
  else if bar = 0 ∧ off < 0x10000 ∧ s.pce.set.pf1 then some (pf1Bar0 off)
  else none

/-! ### MSI-X tables (R364) -/

/-- Vectors of a function. -/
def State.vectors (s : State) (fn : Fin 2) : Nat := if fn = 0 then s.pce.set.msix else 32

/-- A byte of a function's MSI-X table: byte 12 of an entry holds its mask bit, which is set at reset. -/
def State.tableByte (s : State) (fn : Fin 2) (i : Nat) : Byte :=
  if s.vectors fn ≤ i / 16 then 0#8
  else if i % 16 = 12 then (if s.pce.unmasked.contains (fn, i / 16) then 0#8 else 1#8)
  else if 12 < i % 16 then 0#8
  else BitVec.ofNat 8 (rdLE s.pce.msixTable (fn.val * 0x8000 + i) 1)

/-- A byte of the pending-bit array. -/
def State.pbaByte (s : State) (fn : Fin 2) (i : Nat) : Byte :=
  BitVec.ofNat 8 (maskOf ((List.range 8).map fun b => s.pce.msixPend.contains (fn, 8 * i + b)))

/-- A vector's mask bit is written; a pending vector that is unmasked is sent. -/
def State.setMask (s : State) (fn : Fin 2) (v : Nat) (mask : Bool) : State :=
  if mask then { s with pce.unmasked := s.pce.unmasked.filter fun e => e != (fn, v) }
  else if s.pce.unmasked.contains (fn, v) then s
  else
    let s := { s with pce.unmasked := s.pce.unmasked ++ [(fn, v)] }
    if s.pce.msixPend.contains (fn, v) then
      { s with
        pce.msixPend := s.pce.msixPend.filter fun e => e != (fn, v)
        pce.sent := s.pce.sent ++ [(fn, v)] }
    else s

/-- A write of the MSI-X table. -/
def State.tableWrite (s : State) (fn : Fin 2) (off : Nat) (bs : List Byte) : State :=
  let s := { s with pce.msixTable := wrBytes s.pce.msixTable (fn.val * 0x8000 + off) bs }
  bs.zipIdx.foldl (fun (t : State) (x : Byte × Nat) =>
    let i := off + x.2
    if i % 16 = 12 ∧ i / 16 < t.vectors fn then t.setMask fn (i / 16) (x.1.getLsbD 0) else t) s

/-! ### Host requests -/

/-- The link has trained: packets pass (R367). -/
def State.linkOn (s : State) : Bool := !s.pce.perst && (s.pce.linkUp || s.pce.training.isSome)

/-- The first packet shows the link up. -/
def State.linkSeen (s : State) : State := { s with
  pce.linkUp := true
  pce.training := none }

/-- The router and flow on which the host's requests travel (R365). -/
def State.hostReq (s : State) (fn : Fin 2) (write : Bool) (a n : Nat) (bs : List Byte) : Req :=
  { op := if write then .write else .read, src := 131, dst := 0, flow := 0, owner := s.ownerOf (.pf fn), who := .pf fn, addr := a
    len := n, data := bs, sink := .host fn }

/-- A host access as requests of the network, of at most 512 bytes each (R276): a long read has several completions (DESIGN CHOICE,
log 124). -/
def State.hostAsk (s : State) (fn : Fin 2) (write : Bool) (a n : Nat) (bs : List Byte) : State :=
  (List.range (ceilDiv n 512)).foldl (fun (t : State) (i : Nat) =>
    t.issueNew (s.hostReq fn write (a + 512 * i) (min 512 (n - 512 * i)) ((bs.drop (512 * i)).take 512))) s

/-- Does an access go out as requests: one to memory, or one behind a request that its network interface holds back? -/
def State.hostMemory (s : State) (fn : Fin 2) (a n : Nat) : Bool :=
  s.flowHeld (.pf fn) || (match s.place a n with | .vault => true | .dram _ => true | .kit _ _ => true | _ => false)

/-- A host read (R365). -/
def State.hostRead (s : State) (fn : Fin 2) (b : BarAt) (n : Nat) : State :=
  let who : Initiator := .pf fn
  match b with
  | .absent => s.hostDone fn false .unmapped []
  | .nothing => s.hostDone fn false .ok (leBytes n 0)
  | .table off => s.hostDone fn false .ok ((List.range n).map fun i => s.tableByte fn (off + i))
  | .pba off => s.hostDone fn false .ok ((List.range n).map fun i => s.pbaByte fn (off + i))
  | .at a =>
    if s.hostMemory fn a n then s.hostAsk fn false a n []
    else match s.serveRead who (s.ownerOf who) a n with
      | .done st bs t => t.hostDone fn false st bs
      | _ => s.hostAsk fn false a n []

/-- A posted host write. -/
def State.hostWrite (s : State) (fn : Fin 2) (b : BarAt) (bs : List Byte) : State :=
  let who : Initiator := .pf fn
  match b with
  | .absent => s.hostDone fn true .unmapped []
  | .nothing => s
  | .pba _ => s
  | .table off => s.tableWrite fn off bs
  | .at a =>
    if s.hostMemory fn a bs.length then s.hostAsk fn true a bs.length bs
    else match s.place a bs.length with
      | .doorbell q 0 => s.doorbellPush who q bs
      | _ => match s.serveWrite who (s.ownerOf who) a bs with
        | .done st d t => t.hostDone fn true st d
        | _ => s.hostAsk fn true a bs.length bs

/-- A host access that reaches the front of the receive buffer. -/
def State.hostAccess (s : State) (w : Posted) : State :=
  match w.read with
  | some n => s.hostRead w.fn w.dst n
  | none => s.hostWrite w.fn w.dst w.data

/-- HOST_REQUEST: a function or BAR that does not exist answers Unsupported Request. Behind a held push every access waits
(R252). -/
def State.hostRequest (s : State) (fn : Fin 2) (bar : Fin 3) (off : Nat) (write : Bool) (n : Nat) (data : List Byte) : State :=
  if ¬ s.linkOn ∨ n = 0 ∨ (write ∧ 512 < n) then s
  else
    let s := s.linkSeen
    let w : Posted := {
      fn := fn
      dst := (s.barAt fn bar off).getD .absent
      read := if write then none else some n
      data := if write then padTo n (data.take n) else [] }
    if s.hostHeld then s.postpone w else s.hostAccess w

def execHostRequest (fn : Fin 2) (bar : Fin 3) (off : BitVec 36) (write : Bool) (n : Fin 4097) (data : List Byte) (s : State) :
    Out :=
  .next (s.hostRequest fn bar off.toNat write n.val data)

/-! ### Pushes held at full queues (R251 to R253) -/

/-- Does the queue of a held push still take it: enabled, of the same owner, and of a kind and entry size that fit (R246, R249)? -/
def State.heldTakes (s : State) (h : Held) : Bool :=
  let q := s.queue h.q
  q.en && q.owner == h.owner &&
    (match h.who with
    | .done _ => q.kind = .message
    | .tdu => q.kind = .message
    | _ => (q.kind = .message || q.kind = .task) && h.data.length = q.bytes)

/-- A held push whose queue takes it no longer is refused as any push to such a queue: the status that its source learns, and the
note. -/
def State.heldRefused (s : State) (h : Held) : NocStatus × State :=
  match h.who with
  | .initiator who => (.ok, s.doorbellDrop who)
  | .ni id => (.ok, match s.req id with | some r => s.doorbellDrop r.who | none => s)
  | .fabric sec => (.notOwner, s.doorbellDrop (.sector sec))
  | .engine g => (.notOwner, s.noteOwner (.engine g))
  | _ => (.notOwner, s)

/-- The request of function `fn` that the queue unit answered RETRY, where the push came as one. -/
def State.hostRetry (s : State) (fn : Fin 2) : Option (Nat × Req) :=
  s.noc.req.findSome? fun (e : Nat × Option Req) => match e.2 with
    | some r => if r.who = .pf fn ∧ r.stage = .retry then some (e.1, r) else none
    | none => none

/-- The source of a held push learns that its entry was accepted, or with which status its storage refused it. -/
def State.unheld (s : State) (h : Held) (st : NocStatus) : State :=
  match h.who with
  | .initiator (.pf fn) => (match s.hostRetry fn with
    | some e => s.answer e.1 e.2 st []
    | none => s.hostDone fn true st [])
  | .initiator _ => s
  | .ni id => match s.req id with
    | some r => if r.stage = .retry then s.answer id r st [] else s
    | none => s
  | .fabric sec => s.modSector sec.val fun x => { x with queueResp := x.queueResp ++ [(st, [])] }
  | .engine g => s.pushqResume g (st == .ok)
  | .done _ => s
  | .tdu => s

/-- Accesses behind a host push that is no longer held follow it, up to the next push at a full queue (R252). `fuel`
bounds them. -/
def State.postedOn (s : State) : Nat → State
  | 0 => s
  | fuel + 1 =>
    match s.pce.posted with
    | [] => s
    | w :: ws => if s.hostHeld then s else (({ s with pce.posted := ws } : State).hostAccess w).postedOn fuel

/-- Everything that waits in the receive buffer goes on. -/
def State.postedAll (s : State) : State := s.postedOn (s.pce.posted.length + 1)

/-- HELD_PUSH_RETRY: the longest-held push of a queue that has room is accepted. -/
def State.heldRetry (s : State) (q : Nat) : State :=
  match s.qcu.held.find? fun h => h.q == q with
  | none => s
  | some h =>
    let t : State := { s with qcu.held := s.qcu.held.erase h }
    if ¬ s.heldTakes h then let r := t.heldRefused h; (r.2.unheld h r.1).postedAll
    else if (s.queue q).full then s
    else
      let r := t.qAccept q h.data
      (r.2.unheld h (match r.1 with | .err e => e | _ => .ok)).postedAll

def execHeldPushRetry (q : QueueId) (s : State) : Out := .next (s.heldRetry q.val)

/-- HOST_PUSH_DISCARD: a host push held for LIMIT ms is discarded, and the link resumes. -/
def State.hostDiscard (s : State) : State :=
  match s.qcu.held.find? fun h => match h.who with | .initiator (.pf _) => true | _ => false with
  | none => s
  | some h =>
    if s.qcu.limit = 0#10 ∨ s.now < h.since + s.qcu.limit.toNat * 1000000 then s
    else
      let t := { s with
        qcu.held := s.qcu.held.erase h
        qcu.hostDrop := satInc s.qcu.hostDrop }
      ((t.raise 657 [(s.queue h.q).owner]).unheld h .ok).postedAll

def execHostPushDiscard (s : State) : Out := .next s.hostDiscard

/-! ### Configuration requests (R173, R174) -/

/-- A dword of the configuration space of a function: the identity of the belfry settings. Elsewhere the layout is that of
the PCI Express specification, and the value is free. -/
def State.configWord (s : State) (fn : Fin 2) (off : Nat) : W32 × State :=
  let x := s.pce.set
  let vendor := (x.vendor.getD Config.vendorId).toNat
  match off / 4 with
  | 0 => (packW [(0, vendor), (16, (if fn = 0 then x.device0 else x.device1).toNat)], s)
  | 2 => (packW [(0, x.revision.toNat), (8, x.cls.toNat)], s)
  | 11 => (packW [(0, (x.subvendor.map (·.toNat)).getD vendor), (16, x.subsystem.toNat)], s)
  | _ => s.fresh 32

/-- CONFIGURATION_REQUEST: Retry Status until the device is running or config-only. A successful read's completion carries
the dword; a write changes what the PCI Express specification lays out, which the model leaves out. -/
def execConfigurationRequest (fn : Fin 2) (off : BitVec 12) (write : Bool) (_v : BitVec 32) (s : State) : Out :=
  let done (t : State) (c : Cpl) (bs : List Byte) : State :=
    { t with pce.completions := t.pce.completions ++ [(fn, c, bs)] }
  .next (if ¬ s.linkOn then s
    else
      let s := s.linkSeen
      if s.cfg.st ≠ .running ∧ s.cfg.st ≠ .configOnly then done { s with pce.crs := true } .retry []
      else
        let s := { s with pce.crs := false }
        if fn = 1 ∧ ¬ s.pce.set.pf1 then done s .unsupported []
        else if write then done s .success []
        else let r := s.configWord fn off.toNat; done r.2 .success (leBytes 4 r.1.toNat))

/-! ### Outbound windows (R366) -/

/-- A request that waits for the host. -/
def State.atHost (s : State) (id : Nat) : Option Req :=
  match s.req id with
  | some r => if r.stage = .target ∧ s.place r.addr r.len = .host then some r else none
  | none => none

/-- The function of an address's window. -/
def State.outFn (s : State) (a : Nat) : Fin 2 := (s.outWin ((a - hostBase) / 2 ^ 36)).fn

/-- OUTBOUND_REQUEST: the host's completion of the request. -/
def State.outbound (s : State) (id : Nat) (reply : HostReply) : State :=
  match s.atHost id with
  | none => s
  | some r =>
    match reply with
    | .data b => if r.op = .read then s.answer id r .ok (padTo r.len (b.take r.len)) else s
    | .done => if r.op = .write then s.answer id r .ok [] else s
    | .unsupported => s.answer id r .error []
    | .poisoned b =>
      ({ s.answer id r .poisoned (if r.op = .read then padTo r.len (b.take r.len) else []) with
          pce.errDrop := satInc s.pce.errDrop } : State).raise 785 [s.pfOwner (s.outFn r.addr).val]

def execOutboundRequest (id : Nat) (reply : HostReply) (s : State) : Out := .next (s.outbound id reply)

/-- COMPLETION_TIMEOUT: 50 ms without a completion. -/
def execCompletionTimeout (id : Nat) (s : State) : Out :=
  .next (match s.atHost id with
    | some r => if r.since + 50000000 ≤ s.now then (s.answer id r .error []).raiseBy 787 r.who r.owner else s
    | none => s)

/-! ### Ethernet frames (R374) -/

/-- ETH_TRANSMIT: the frame of the head descriptor begins to be read; once that is whole the descriptor is popped and the frame
sent. A length outside R374's range is popped with nothing sent (log 91). -/
def State.ethTransmit (s : State) (n : Fin 2) : State :=
  let x := s.mac n.val
  if ¬ x.link ∨ x.txPend.isSome then s
  else
    let h := s.qHead x.txq
    if h.1 ≠ .ok then s
    else
      let d := h.2.1
      let len := leNat ((d.drop 8).take 2)
      if len < 60 ∨ 9600 < len then (s.qPop x.txq).2.2 else h.2.2.macFetch n d []

def execEthTransmit (n : Fin 2) (s : State) : Out := .next (s.ethTransmit n)

/-- ETH_RECEIVE: the frame goes into the next free buffer, truncated where it is larger, and a receive descriptor follows
once it is stored. -/
def State.ethReceive (s : State) (n : Fin 2) (frame : List Byte) (bad : Bool) : State :=
  let x := s.mac n.val
  let drop (t : State) : State := t.modMac n.val fun y => { y with nobuf := satInc y.nobuf }
  if ¬ x.link ∨ frame = [] then s
  else
    let s := if bad then s.modMac n.val fun y => { y with fcs := satInc y.fcs } else s
    if bad ∧ ¬ x.keepBad then s
    else
      let q := s.queue x.freeq
      let h := if q.kind = .message ∧ q.en then s.qPop x.freeq else (.empty, [], s)
      if h.1 ≠ .ok then drop h.2.2
      else
        let t := h.2.2
        let a := leNat (h.2.1.take 8) % 2 ^ 48
        let size := leNat ((h.2.1.drop 8).take 4)
        let bs := (frame.take 9600).take size
        let p := t.ptuAt n.val
        let flags := b2n bad + 2 * b2n (decide (bs.length < frame.length)) +
          4 * b2n (decide ((frame.drop 12).take 2 = [0x81#8, 0x00#8]))
        let d := padTo 32 (leBytes 8 a ++ leBytes 2 bs.length ++ leBytes 1 flags ++ leBytes 1 p.epoch.toNat ++
          leBytes 4 (t.stampNow n.val (-(p.lat.extractLsb' 0 16).toInt)).toNat)
        if bs = [] then t.macStored n d .ok else t.macPut n d a bs

def execEthReceive (n : Fin 2) (frame : List Byte) (fcsError : Bool) (s : State) : Out := .next (s.ethReceive n frame fcsError)

/-! ### Packets of ring peers (R383) -/

/-- The mailbox page that a window offset reaches. -/
def ringBox (off : Nat) : Option (Mb × Nat) :=
  if 0xFFFF08000 ≤ off ∧ off < 0xFFFF09000 then some (8, off - 0xFFFF08000)
  else if 0xFFFF09000 ≤ off ∧ off < 0xFFFF0A000 then some (9, off - 0xFFFF09000)
  else none

/-- Does a PEER record bind mailbox `m` to this peer (R383)? -/
def State.boxPeer (s : State) (p : Fin 2) (src : Fin 16) (m : Mb) : Bool :=
  s.man.peers.any fun e => e.port == p && e.src == src && e.mb == some m

/-- A request of a peer enters the network at the ring port, or is answered there. -/
def State.ringRequest (s : State) (p : Fin 2) (src : Fin 16) (write : Bool) (off n : Nat) (bs : List Byte) (tag : BitVec 12) :
    State :=
  let who : Initiator := .ring p src
  let r (a : Nat) : Req := {
    op := if write then .write else .read
    src := portRouter p.val
    dst := 0
    flow := 0
    owner := s.ownerOf who
    who := who
    addr := a
    len := n
    data := bs
    sink := .ring p src tag }
  if n = 0 ∨ 512 < n then s
  else if off + n ≤ s.ser.esize then s.issueNew (r (s.ser.ebase + off))
  else match ringBox off with
    | some (m, x) =>
      if s.boxPeer p src m then s.issueNew (r (0x040000000000 + 0x1000 * m.val + x))
      else
        let y := (s.noteOwner who).newReq (r (0x040000000000 + 0x1000 * m.val + x))
        y.2.answer y.1 (r (0x040000000000 + 0x1000 * m.val + x)) .notOwner []
    | none =>
      let y := s.newReq (r 0)
      y.2.answer y.1 (r 0) .unmapped []

/-- The response of a peer: it answers the request of that TAG at the port; one for an aborted TAG is discarded (R289). -/
def State.ringReply (s : State) (p : Fin 2) (src : Fin 16) (tag : BitVec 12) (st : Nat) (data : List Byte) : State :=
  match s.noc.req.find? fun (e : Nat × Option Req) => match e.2 with
      | some r => decide (r.stage = .target) && r.dst == portRouter p.val && r.tag == tag &&
          (match s.place r.addr r.len with | .ring q _ => q == src.val | _ => false)
      | none => false with
  | some (id, some r) => s.answer id r (NocStatus.ofCode st) (if r.op = .read ∧ st = 0 then padTo r.len (data.take r.len) else [])
  | _ => s

/-- RING_PKT: a packet that has arrived over a port that is UP. -/
def execRingPkt (p : Fin 2) (src : Fin 16) (pkt : RingPacket) (s : State) : Out :=
  .next (if (s.ring p.val).st ≠ .up then s
    else match pkt with
      | .read off n tag => s.ringRequest p src false off.toNat n.val [] tag
      | .write off data tag => s.ringRequest p src true off.toNat data.length data tag
      | .reply tag st data => s.ringReply p src tag st.toNat data)

end Sys2Proof.Machine
end

