-- ==== Sys2Proof/Machine/Container.lean ====
section
/-!
DEFINITION. Machine/Container.lean: the Quevon image container (R157 to R163): header checks, segments, hash chain, keys,
records, and the Atmon firmware image (R414, R415).
-/
namespace Sys2Proof.Machine

/-- A field of `n` bytes at an offset, and its bytes. -/
def fieldAt (b : List Byte) (off n : Nat) : Nat := leNat ((b.drop off).take n)
def bytesAt (b : List Byte) (off n : Nat) : List Byte := (b.drop off).take n

/-! ### What the spec names without an encoding -/

/-- The records of a MANIFEST payload of a base or golden image (R162); none where their syntax is bad. -/
opaque manifestOf : List Byte → Option Manifest

/-- The OVERLAY record of an overlay's MANIFEST payload (R187): region, quads, BORDER_ID. -/
opaque overlayRecord : List Byte → Option (Nat × List Nat × List Byte)

/-! ### The header (R157, R161) -/

def hdrKind (h : List Byte) : Nat := fieldAt h 6 2
def hdrTarget (h : List Byte) : Nat := fieldAt h 0xC 4
def hdrOwner (h : List Byte) : Nat := fieldAt h 0x10 1
def hdrRegion (h : List Byte) : Nat := fieldAt h 0x11 1
def hdrCount (h : List Byte) : Nat := fieldAt h 0x12 2
def hdrEncrypted (h : List Byte) : Bool := bitOf (fieldAt h 0x14 4) 0
def hdrCompressed (h : List Byte) : Bool := bitOf (fieldAt h 0x14 4) 1
def hdrVersion (h : List Byte) : W32 := BitVec.ofNat 32 (fieldAt h 0x18 4)
def hdrNonce (h : List Byte) : List Byte := bytesAt h 0x30 16
def hdrChain (h : List Byte) : List Byte := bytesAt h 0x70 48

/-- OWNER and REGION as R157 lays them out for a KIND. -/
def hdrScopeOk (h : List Byte) : Bool :=
  (if hdrKind h = 3 then hdrRegion h < 32 else hdrRegion h = 0xFF) && (hdrOwner h = 0 || (hdrKind h ≠ 1 && hdrKind h ≠ 2))

/-- Does TARGET contain the device (R161 step 2)? -/
def State.targets (s : State) (t : Nat) : Bool :=
  bitOf t s.variant.code && bitOf t (3 + s.speed) && bitOf t (8 + b2n s.gradeE) && t &&& 0x37F = t

/-- Life-cycle acceptance of a header (R161 step 4). -/
def State.lcAccepts (s : State) (h : List Byte) : Bool :=
  let own : Bool := s.sec.digest = some (Config.sha384 (bytesAt h 0xA0 96))
  match s.sec.lc with
  | .blank => !hdrEncrypted h
  | .owned => own
  | .deployed => own && hdrEncrypted h
  | _ => false

/-- k[0] (R159). -/
def State.firstKey (s : State) (h : List Byte) : Option (List Byte) :=
  if hdrEncrypted h then s.sec.devKey.bind fun k => Config.kwUnwrap k (bytesAt h 0x40 40) else some []

/-- The first failing check of R161 steps 1 to 6, as a CFG_ERR_CODE. -/
def State.headerErr (s : State) (h : List Byte) (kinds : List Nat) : Option Nat :=
  if h.length < 512 then some 12
  else if fieldAt h 0 4 ≠ 0x51564943 then some 2
  else if fieldAt h 4 2 ≠ 3 ∨ fieldAt h 0x1C 20 ≠ 0 ∨ fieldAt h 0x68 8 ≠ 0 ∨ fieldAt h 0x160 160 ≠ 0 ∨ 3 < fieldAt h 0x14 4 ∨
      hdrCount h = 0 ∨ (¬ hdrEncrypted h ∧ fieldAt h 0x40 40 ≠ 0) ∨ ¬ hdrScopeOk h then some 3
  else if fieldAt h 8 4 ≠ 0x07140A01 then some 4
  else if ¬ s.targets (hdrTarget h) then some 5
  else if ¬ kinds.contains (hdrKind h) then some 6
  else if ¬ s.lcAccepts h then some 7
  else if ¬ Config.ecdsaOk (bytesAt h 0xA0 96) (Config.sha384 (h.take 0x100)) (bytesAt h 0x100 96) then some 8
  else if (s.firstKey h).isNone then some 9
  else none

/-- A stream whose header has passed. -/
def State.streamOf (s : State) (h : List Byte) : Stream :=
  { hdr := h, expect := hdrChain h, key := (s.firstKey h).getD [] }

/-! ### Segments (R158, R159) -/

def segMask (g : List Byte) : Nat := fieldAt g 4 2
def segKind (g : List Byte) : Nat := fieldAt g 6 1

/-- Bytes of the segment that starts a byte string. -/
def segSize (g : List Byte) : Nat := 80 + fieldAt g 0xC 4

/-- Does a device of group `grp` take the segment? -/
def segTaken (g : List Byte) (grp : Nat) : Bool := bitOf (segMask g) grp

/-- Truncation, sequence and hash of a segment: 12 TRUNCATED, 10 CHAIN. -/
def Stream.chainErr (x : Stream) (g : List Byte) : Option Nat :=
  if g.length < 81 ∨ g.length ≠ segSize g ∨ 8388688 < g.length then some 12
  else if fieldAt g 0 4 ≠ x.next ∨ Config.sha384 g ≠ x.expect ∨
      (x.next + 1 = hdrCount x.hdr ∧ fieldAt g 0x10 48 ≠ 0) then some 10
  else none

/-- The records of a segment: its payload decrypted and decompressed, or 11 TAG or 13 RECORD. -/
def Stream.payload (x : Stream) (g : List Byte) : Nat ⊕ List Byte :=
  let n := g.length - 80
  let body := bytesAt g 64 n
  let tag := bytesAt g (64 + n) 16
  let plain : Option (List Byte) :=
    if hdrEncrypted x.hdr then Config.gcmOpen x.key (beBytes 4 x.next ++ leBytes 8 0) (g.take 64) body tag
    else if leNat tag = 0 then some body else none
  match plain with
  | none => .inl 11
  | some p =>
    if ¬ hdrCompressed x.hdr then .inr p
    else match Config.inflate p with
      | some q => .inr q
      | none => .inl 13

/-- k[i] from k[i-1] (R159). -/
def segmentKey (k : List Byte) (i : Nat) (nonce : List Byte) : List Byte := kdf k 0x5156534B (beBytes 4 i ++ nonce.reverse)

/-- The stream after a segment: the next index, hash and key. -/
def Stream.after (x : Stream) (g : List Byte) : Stream :=
  { x with
    next := x.next + 1
    expect := bytesAt g 0x10 48
    key := if hdrEncrypted x.hdr then segmentKey x.key (x.next + 1) (hdrNonce x.hdr) else [] }

/-! ### Records (R160) -/

/-- What a record writes. -/
inductive Rec where
  | frame (a : Nat) (d : BitVec 3072)
  | block (i : Nat) (bs : List Byte)
  | reg (a v : Nat)
  | words (a : Nat) (bs : List Byte)

/-- FRAMES records; none where the syntax is bad. `fuel` bounds the records. -/
def frameRecs : Nat → Option (BitVec 3072) → List Byte → Option (List Rec)
  | 0, _, bs => if bs = [] then some [] else none
  | fuel + 1, last, bs =>
    if bs = [] then some []
    else
      let w := fieldAt bs 0 4
      let a := bitsOf w 0 20
      let op := bitsOf w 24 8
      if bs.length < 4 ∨ bitsOf w 20 4 ≠ 0 then none
      else if op = 0 then
        if bs.length < 388 then none
        else
          let d : BitVec 3072 := BitVec.ofNat 3072 (fieldAt bs 4 384)
          (frameRecs fuel (some d) (bs.drop 388)).map (Rec.frame a d :: ·)
      else match last with
        | none => none
        | some d =>
          if 960 < bitsOf a 9 10 + op then none
          else (frameRecs fuel last (bs.drop 4)).map ((List.range op).map (fun i => Rec.frame (a + 512 * i) d) ++ ·)

/-- BLOCKMEM records. -/
def blockRecs : Nat → List Byte → Option (List Rec)
  | 0, bs => if bs = [] then some [] else none
  | fuel + 1, bs =>
    if bs = [] then some []
    else if bs.length < 6148 ∨ 4607 < fieldAt bs 0 2 ∨ fieldAt bs 2 2 ≠ 0 then none
    else (blockRecs fuel (bs.drop 6148)).map (Rec.block (fieldAt bs 0 2) (bytesAt bs 4 6144) :: ·)

/-- SETTINGS records. -/
def settingRecs : Nat → List Byte → Option (List Rec)
  | 0, bs => if bs = [] then some [] else none
  | fuel + 1, bs =>
    if bs = [] then some []
    else if bs.length < 12 ∨ fieldAt bs 6 2 ≠ 0 then none
    else (settingRecs fuel (bs.drop 12)).map (Rec.reg (fieldAt bs 0 6) (fieldAt bs 8 4) :: ·)

/-- ENGINE records. -/
def engineRecs : Nat → List Byte → Option (List Rec)
  | 0, bs => if bs = [] then some [] else none
  | fuel + 1, bs =>
    let n := 4 * fieldAt bs 6 2
    if bs = [] then some []
    else if bs.length < 8 + n then none
    else (engineRecs fuel (bs.drop (8 + n))).map (Rec.words (fieldAt bs 0 6) (bytesAt bs 8 n) :: ·)

/-- The records of a payload by SKIND; none where the syntax is bad. -/
def recsOf (kind : Nat) (p : List Byte) : Option (List Rec) :=
  match kind with
  | 1 => frameRecs p.length none p
  | 2 => blockRecs p.length p
  | 3 => settingRecs p.length p
  | 4 => engineRecs p.length p
  | _ => none

/-! ### Frames, their check bits and signatures (R155) -/

/-- Codeword position of contents bit `i` in the Hamming code of a frame: the positions that are no powers of two, in order
(DESIGN CHOICE, log 127: the spec does not lay the code out). -/
def hamPos (i : Nat) : Nat := i + 1 + (((List.range 13).find? fun k => i + k + 1 < 2 ^ k).getD 0)

/-- The 12 check bits of contents. -/
def frameCheck (d : BitVec 3072) : BitVec 12 :=
  (List.range 3072).foldl (fun (c : BitVec 12) (i : Nat) => if d.getLsbD i then c ^^^ BitVec.ofNat 12 (hamPos i) else c) 0#12

/-- The golden signature of contents: their CRC-32C. -/
def frameSig (d : BitVec 3072) : W32 := crc32c (leBytes 384 d.toNat)

/-- The check bits of a frame as they stand. -/
def Frame.checkBits (f : Frame) : BitVec 12 := frameCheck f.data ^^^ f.up.extractLsb' 3072 12

/-- The contents of a read with the bit put right that the check bits locate. -/
def Frame.located (f : Frame) : BitVec 3072 :=
  let syn := frameCheck f.live ^^^ f.checkBits
  match (List.range 3072).find? fun i => BitVec.ofNat 12 (hamPos i) = syn with
  | some i => f.live ^^^ BitVec.ofNat 3072 (2 ^ i)
  | none => f.live

/-- What a read of the frame finds by the check bits and the golden signature (R155, R195): one upset located, or more. -/
def Frame.finding (f : Frame) : Finding :=
  if f.up = 0#3084 then .clean
  else if frameSig f.live = frameSig f.data ∧ frameCheck f.live = f.checkBits then .clean
  else if frameSig f.located = frameSig f.data then .corrected
  else .uncorrectable

/-- A frame written with its check bits and its golden signature (R155). -/
def State.putFrame (s : State) (a : Nat) (d : BitVec 3072) (enc : Bool) (handle : Option Nat) : State :=
  s.setFrame a { data := d, enc := enc, handle := handle }

/-- Is a frame address one of the device's: QUAD below 384, MINOR below 960, plane B only where it exists (R154)? -/
def frameExists (a : Nat) : Bool :=
  a % 512 < 384 && bitsOf a 9 10 < 960 && (a < 524288 || shadowCapable (a % 512))

/-- Does a plane of a quad enable both drivers of a bus-line segment (R113)? -/
def State.quadClash (s : State) (b : Bool) (q : Nat) : Bool := !(bothDrivers (s.planeFrames b q) q).isEmpty

/-- Is the unit of a control-space slot absent from the variant (R4)? -/
def State.slotAbsent (s : State) (off : Nat) : Bool :=
  let x := off % 0x100000
  match off / 0x100000 with
  | 0xA => x < 0x80000 && !s.dportPresent (x / 0x10000)
  | 0xB => !s.variant.mxe
  | 0xE => (x < 0x100 && !s.lanePresent (x / 0x20)) || (0x200 ≤ x && x < 0x220 && !s.lanePresent ((x - 0x200) / 4))
  | 0xF => !s.lanePresent (x / 0x40)
  | 0x11 => !s.ringPresent (x / 0x100)
  | _ => false

/-- A record of an image is carried out, or refuses the stream with a code (R160, R163). -/
def State.loadRec (s : State) (enc : Bool) : Rec → Nat ⊕ State
  | .frame a d =>
    if 524288 ≤ a ∨ ¬ frameExists a then .inl 14
    else
      let t := s.putFrame a d enc none
      if t.quadClash false (a % 512) then .inl 15 else .inr t
  | .block i bs =>
    .inr ((List.range 2048).foldl (fun (t : State) (n : Nat) =>
      t.setBword i n { d := BitVec.ofNat 24 (fieldAt bs (3 * n) 3), chk := .image }) s)
  | .reg a v =>
    let off := a - ctlBase
    if a < ctlBase ∨ ctlBase + 0x10000000 ≤ a ∨ off / 0x100000 = 3 ∨ off / 0x100000 = 4 ∨ s.slotAbsent off then .inl 13
    else .inr (s.ctlWrite .belfry off (leBytes 4 v)).2
  | .words a bs =>
    if ¬ inKits a bs.length ∨ ¬ s.kitPresent ((a - kitBase) / kitStride) then .inl 13
    else
      let r := s.kitWrite .belfry 0 ((a - kitBase) / kitStride) ((a - kitBase) % kitStride) bs
      if r.1 = .ok then .inr r.2 else .inl 13

/-- Records in order, up to the first that refuses. -/
def State.loadRecs (s : State) (enc : Bool) : List Rec → Nat × State
  | [] => (0, s)
  | r :: rs => match s.loadRec enc r with
    | .inl code => (code, s)
    | .inr t => t.loadRecs enc rs

/-! ### Firmware (R414, R415) -/

/-- The first failing check of a firmware image, as MBX_FWERR has it. -/
def State.fwErrOf (s : State) (b : List Byte) : Nat :=
  let body := b.drop 512
  if fieldAt b 0 4 ≠ 0x51564657 then 1
  else if fieldAt b 4 2 ≠ 1 ∨ fieldAt b 0x18 24 ≠ 0 ∨ fieldAt b 0x120 224 ≠ 0 then 2
  else if fieldAt b 6 2 < 3 then 3
  else if ¬ bitOf (fieldAt b 0x14 4) 0 ∨ 1 < fieldAt b 0x14 4 then 4
  else if ¬ Config.vendorKey (Config.sha384 (bytesAt b 0x60 96)) then 5
  else if ¬ Config.ecdsaOk (bytesAt b 0x60 96) (Config.sha384 (b.take 0xC0)) (bytesAt b 0xC0 96) then 6
  else if fieldAt b 0xC 4 < s.sec.svnMin.toNat ∨ 63 < fieldAt b 0xC 4 then 7
  else if fieldAt b 0x10 4 < 4 ∨ 1048064 < fieldAt b 0x10 4 ∨ body.length ≠ fieldAt b 0x10 4 then 8
  else if Config.sha384 body ≠ bytesAt b 0x30 48 then 9
  else 0

/-- The status of a firmware failure (R417). -/
def fwCode (e : Nat) : Code := if 5 ≤ e ∧ e ≤ 7 then .authFailed else .ovlBadImage

/-- The status of a container failure (R177, R187). -/
def loadCode (e : Nat) : Code := if 8 ≤ e ∧ e ≤ 11 then .authFailed else .ovlBadImage

end Sys2Proof.Machine
end

