-- ==== Sys2Proof/Machine/Loading.lean ====
section
/-!
DEFINITION. Machine/Loading.lean: the load from POR_N release to READY (R161 to R178, R31, R416, R418, R444), its commands
(R177, R417, R418) and its failures.
-/
namespace Sys2Proof.Machine

/-! ### Clearing, config-only and READY -/

/-- The clear of R170: frames, block memories, engine and kit memories zero, with valid check bits and signatures. -/
def State.wipe (s : State) : State :=
  { s with
    cfg.frame := []
    fab.ff := []
    fab.wire := []
    fab.border := []
    fab.ext := []
    fab.en := []
    fab.word := []
    fab.bport := []
    fab.slice := []
    eng := tmap s.eng {} fun (e : Eng) => { e with
      p := []
      x := []
      y := []
      marks := []
      fixed := [] }
    kit := tmap s.kit {} fun (k : Kit) => { k with
      mem := []
      marks := []
      fixed := [] } }

/-- The mailboxes' owners under the manifest in force (R396). -/
def State.bindOf (s : State) (m : Mb) : Option Owner :=
  let rec_ := (s.man.boxes.find? fun b => b.mb == m).map fun b => b.owner
  let i := m.val
  if s.configOnly then (if i = 0 ∨ i = 10 then some 0 else none)
  else if i < 4 then s.man.pf0
  else if i = 8 ∨ i = 9 then
    (if s.variant = .s then none else (s.man.peers.find? fun p => p.mb == some m).map fun p => p.owner)
  else if i = 10 then s.man.pf1
  else if i = 32 then none
  else rec_

/-- Each mailbox is bound to its owner (R396). -/
def State.bindBoxes (s : State) : State :=
  (List.finRange 33).foldl (fun (t : State) (m : Mb) => t.modBox m fun b => { b with
    owner := (s.bindOf m).getD 0
    bound := (s.bindOf m).isSome }) s

/-- FLT_SRC_i as Atmon sets it at READY (R444, R127). -/
def State.ladder (s : State) (i : Nat) : SrcCfg :=
  let d := srcReset i
  match s.man.faults.find? fun u => u.src == i with
  | some u => { d with
      cls := u.cls
      level := u.level
      cap := u.cap.getD d.cap
      errn := u.errn
      latch := u.latch }
  | none =>
    if i = 0 ∨ i = 123 then d
    else if 912 ≤ i ∨ srcMulti i then { d with level := 1 }
    else match d.cls with
      | 0 => { d with cap := 0 }
      | 4 => { d with level := 2 }
      | 5 => { d with level := 2 }
      | 6 => { d with
          level := 2
          errn := true }
      | 7 => { d with
          level := 3
          cap := 4
          errn := true }
      | _ => { d with level := 1 }

/-- The ladder of every source. -/
def State.setLadder (s : State) : State :=
  { s with flt.cfg := (List.range 1024).filterMap fun i => if s.ladder i = srcReset i then none else some (i, s.ladder i) }

/-- READY (R31): the fault ladder stands, mailboxes are bound, and each has a new token due (R407). -/
def State.report (s : State) : State :=
  let s := { s.setLadder with
    mbx.ready := true
    mbx.reloading := false }
  s.bindBoxes.dueTokens fun _ => true

/-- The device enters config-only (R172): Atmon, where it runs, serves it, else the recovery monitor (R395). -/
def State.toConfigOnly (s : State) : State :=
  let s := { s.ringQuiet.wipe with
    man := {}
    cfg.st := .configOnly
    cfg.gsr := true
    cfg.lockDone := false
    cfg.writesOn := false
    cfg.ioOn := false
    cfg.donePin := false
    cfg.stream := none
    cfg.host := none
    cfg.doneAt := none
    cfg.man := {}
    cfg.image := 0
    pce.crs := false
    mbx.reloading := false }
  match s.mbx.prog with
  | .atmon => s.report
  | _ => ({ s with mbx.prog := .recovery } : State).bindBoxes.dueTokens fun _ => true

/-! ### The start of a load (R164 to R166, R175) -/

/-- A load starts as after POR_N release (R164, R166, R416), by the source that BOOT_SEL names. -/
def State.boot (s : State) : State :=
  let s := { s with
    pce.set := s.bootSettings
    sec.devKey := if s.sec.tamper then none else s.sec.devFuse.bind (Config.kwUnwrap Config.pufKey)
    cfg.start := s.now
    cfg.lastByte := s.now
    cfg.taken := 0 }
  let s := s.ringFeed (s.flashBytes 0 0x20 ++ s.flashBytes 0x10000 36)
  if s.cfg.bootSel = 2#2 then { s with mbx.fwErr := 10 }.toConfigOnly
  else
    let s : State := { s with cfg.st := .firmware }
    match s.dirOk with
    | some _ => s
    | none =>
      let s := { s with
        cfg.errCode := 1
        cfg.attempt := 1
        cfg.golden := true
        cfg.fallback := true }
      if s.cfg.bootSel = 0#2 then s.raise 128 [0] else s

/-- POR_RELEASE: BOOT_SEL and the group ID are sampled, and the load starts. -/
def State.porRelease (s : State) (bootSel : BitVec 2) (group : BitVec 4) : State :=
  if ¬ s.ckr.por then s
  else ({ s with
    ckr.por := false
    cfg.bootSel := bootSel
    cfg.group := group } : State).boot

def execPorRelease (bootSel : BitVec 2) (group : BitVec 4) (s : State) : Out := .next (s.porRelease bootSel group)

/-- Does mailbox `m` run an FW_LOAD that waits for its image? -/
def State.fwWaits (s : State) (m : Mb) : Bool :=
  match (s.box m).run with
  | some r => r.op = 0x0111 && r.long && r.final.isNone
  | none => false

/-- A firmware image fails R415: MBX_FWERR and FW_FAIL. -/
def State.fwFailed (s : State) (e : Nat) : State := { s with
  mbx.fwErr := e
  mbx.fwFail := true }

/-- A firmware image passes R415. -/
def State.fwPassed (s : State) (image : List Byte) : State := { s with
  mbx.prog := .atmon
  mbx.fwVersion := BitVec.ofNat 32 (fieldAt image 8 4)
  mbx.fwErr := 0
  mbx.fwFail := false }

/-- Does the load take its stream from the flash that the device drives (R164, R166)? A listener samples what another
device reads, which the row brings, as it brings what a host load's extents hold. -/
def State.ownFlash (s : State) : Bool := s.drivesFlash && s.cfg.host.isNone

/-- FIRMWARE_CHECK: the boot ROM's check of the image read from flash (R416), or the recovery monitor's of an FW_LOAD
(R418). A source reads the image at FIRMWARE; without a readable directory the row brings what it reads (DESIGN CHOICE, log 109:
the spec gives no offset there). -/
def State.firmwareCheck (s : State) (image : List Byte) : State :=
  if s.cfg.st = .firmware then
    let image := if s.ownFlash then s.flashFirmware.getD image else image
    let s := s.ringFeed image
    let e := s.fwErrOf image
    if e = 0 then { s.fwPassed image with
      mbx.ready := false
      cfg.st := .loading
      cfg.lastByte := s.now }
    else (({ s.fwFailed e with mbx.prog := .hardware } : State).raise 43 [0]).toConfigOnly
  else match (List.finRange 33).find? fun (m : Mb) => s.fwWaits m with
    | none => s
    | some m =>
      let image := image.take (match (s.box m).run with | some r => r.u32 0x18 | none => 0)
      let e := s.fwErrOf image
      if e = 0 then (s.fwPassed image).report.finish m .ok
      else (s.fwFailed e).finish m (fwCode e)

def execFirmwareCheck (image : List (BitVec 8)) (s : State) : Out := .next (s.firmwareCheck image)

/-! ### Failures (R168, R170, R171) -/

/-- The first failure of a load is recorded (R171). -/
def State.noteFail (s : State) (code seg : Nat) : State :=
  if s.cfg.errCode ≠ 0 then s
  else { s with
    cfg.errCode := code
    cfg.errSeg := seg
    cfg.errAttempt := s.cfg.attempt }

/-- The golden image is loaded next (R168, R171). -/
def State.toGolden (s : State) : State := { s.wipe with
  cfg.attempt := 1
  cfg.golden := true
  cfg.fallback := true
  cfg.st := .loading
  cfg.stream := none
  cfg.doneAt := none
  cfg.donePin := false
  cfg.man := {}
  cfg.image := 0
  cfg.taken := 0
  cfg.lastByte := s.now }

/-- Response payload of CFG_HOST_LOAD. -/
def State.hostPay (s : State) (consumed : Nat) : List Byte := pay 0x1C [(0x10, 4, s.cfgErr.toNat), (0x14, 8, consumed)]

/-- A load fails: cleared (R170), then the golden image or config-only (R171). -/
def State.loadFail (s : State) (code seg : Nat) : State :=
  let t := s.noteFail code seg
  match s.cfg.attempt with
  | 0 => let u := t.toGolden; if s.cfg.bootSel = 0#2 then u.raise 128 [0] else u
  | 1 => let u := t.toConfigOnly; if s.cfg.bootSel = 0#2 then u.raise 129 [0] else u
  | 2 =>
    match s.cfg.host with
    | some h => match h.mb with
      | some m => (t.finish m (loadCode code) (t.hostPay h.consumed)).toConfigOnly
      | none => t.toConfigOnly
    | none => t.toConfigOnly
  | _ => t.toConfigOnly

/-! ### The stream (R161, R163) -/

/-- Is the controller taking a stream: from flash or the ring, or from the host in config-only? -/
def State.streaming (s : State) : Bool :=
  decide (s.cfg.st = .loading) || (s.configOnly && s.cfg.host.isSome)

/-- KINDs that a load takes (R161 step 3). -/
def State.kindsTaken (s : State) : List Nat :=
  match s.cfg.attempt with
  | 0 => [1]
  | 1 => [2]
  | _ => [1, 2]

/-- What a host load does with `n` bytes that the stream brings next: none where they are more than the chunks offered. -/
def State.hostTake (s : State) (n : Nat) : Option State :=
  match s.cfg.host with
  | none => some s
  | some h =>
    if h.consumed + n ≤ h.offered then some { s with cfg.host := some { h with consumed := h.consumed + n } } else none

/-- A chunk of a host load is consumed: without LAST it completes OK (R177). -/
def State.chunkDone (s : State) : State :=
  match s.cfg.host with
  | none => s
  | some h =>
    match h.mb with
    | none => s
    | some m =>
      if h.last then s
      else ({ s with cfg.host := some { h with
          consumed := h.offered
          since := s.now
          mb := none } } : State).finish m .ok (s.hostPay h.offered)

/-- The stream goes beyond the chunks offered: the last chunk leaves it truncated. -/
def State.chunkShort (s : State) (seg : Nat) : State :=
  match s.cfg.host with
  | some h => if h.last then s.loadFail 12 seg else s.chunkDone
  | none => s

/-- A host chunk that ends exactly here completes; a stream that LAST leaves open is truncated. -/
def State.chunkEnd (s : State) (seg : Nat) : State :=
  match s.cfg.host with
  | some h =>
    if h.consumed < h.offered then s
    else if h.last then (if s.cfg.st = .waitDone then s else s.loadFail 12 seg)
    else s.chunkDone
  | none => s

/-- A header passes the checks of R161, or refuses the stream. -/
def State.takeHeader (s : State) (h : List Byte) : State :=
  match s.headerErr h s.kindsTaken with
  | some e => s.loadFail e 0
  | none => ({ s with cfg.stream := some (s.streamOf h) } : State).chunkEnd 0

/-- The source takes `bs` of its image and passes them on to the ring (R167). -/
def State.sourced (s : State) (bs : List Byte) : State := { s.ringFeed bs with cfg.taken := s.cfg.taken + bs.length }

/-- STREAM_HEADER: a container header reaches the controller, `h` or, at a source, the next 512 bytes of the image in flash. A
listener that waits for CFG_DONE and sees a golden header clears and takes it (R168). -/
def State.streamHeader (s : State) (h : List Byte) : State :=
  let s := { s with cfg.lastByte := s.now }
  if s.streaming ∧ s.cfg.stream = none then
    let h := if s.ownFlash then s.imageNext 512 else h
    match s.hostTake h.length with
    | none => s.chunkShort 0
    | some t => (if s.ownFlash then t.sourced h else t).takeHeader h
  else if s.cfg.st = .waitDone ∧ ¬ s.cfg.golden ∧ (s.cfg.bootSel = 1#2 ∨ s.cfg.bootSel = 3#2) ∧ hdrKind h = 2 then
    s.toGolden.takeHeader h
  else s

def execStreamHeader (hdr : List (BitVec 8)) (s : State) : Out := .next (s.streamHeader hdr)

/-- The checks of R163 on a manifest, as a CFG_ERR_CODE. -/
def Manifest.err (m : Manifest) : Option Nat :=
  let sizes := m.regions.filterMap fun r => r.storeSize
  let bad (n : Nat) : Bool := n < 0x1000000 || 0x100000000 < n || n % 0x100000 ≠ 0
  if m.startup.length ≠ 4 ∨ ¬ ((List.range 4).all fun i => m.startup.contains i) then some 16
  else if sizes.any bad ∨ sizes.any (fun n => some n ≠ sizes.head?) then some 17
  else none

/-- The effect of a segment that the device takes: the stream after it, or a CFG_ERR_CODE. -/
def State.takeSegment (s : State) (x : Stream) (g : List Byte) : (Nat × State) ⊕ (Stream × State) :=
  match x.payload g with
  | .inl e => .inl (e, s)
  | .inr p =>
    if segKind g = 0 then
      if x.took then .inl (17, s)
      else match manifestOf p with
        | none => .inl (13, s)
        | some m => match m.err with
          | some e => .inl (e, s)
          | none => .inr ({ x with
              man := some m
              took := true }, s)
    else if x.man.isNone then .inl (17, s)
    else match recsOf (segKind g) p with
      | none => .inl (13, s)
      | some rs =>
        let r := s.loadRecs (hdrEncrypted x.hdr) rs
        if r.1 = 0 then .inr (x, r.2) else .inl r

/-- Flash offset of the image being loaded (R176). -/
def State.imageOffset (s : State) : W32 :=
  if s.cfg.attempt = 2 then 0xFFFFFFFF#32
  else if s.cfg.golden then BitVec.ofNat 32 goldenBase
  else match s.dirRead with
    | some d => BitVec.ofNat 32 d.primary
    | none => 0#32

/-- Bits 29:24 of the words that the image gives follow the ECC setting that its frames give the block (R141). -/
def State.imageChecks (s : State) : State :=
  { s with fab.word := s.fab.word.filterMap fun (e : Nat × BWord) =>
      if e.2.chk = .image then
        let w : BWord := { e.2 with chk := if (s.bramCfg (e.1 / 2048)).ecc then .valid else .raw 0#6 }
        if w = {} then none else some (e.1, w)
      else some e }

/-- A load has passed every check (R168): CFG_DONE is released and the device waits for it. -/
def State.loaded (s : State) (x : Stream) (m : Manifest) : State :=
  let s := s.ringQuiet.imageChecks.imageClocks
  { s with
    cfg.st := .waitDone
    cfg.doneAt := some s.now
    cfg.stream := none
    cfg.man := m
    cfg.image := if s.cfg.attempt = 2 then 3 else if s.cfg.golden then 2 else 1
    cfg.offset := s.imageOffset
    cfg.version := hdrVersion x.hdr
    cfg.target := BitVec.ofNat 32 (hdrTarget x.hdr)
    cfg.chain := hdrChain x.hdr
    ovl.region := []
    mbx.ready := false }

/-- SEGMENT: a segment, `g` or, at a source, the next of the image in flash, is checked, decrypted and its records written, or the stream refused and cleared (R161, R163). -/
def State.segment (s : State) (g : List Byte) : State :=
  match s.cfg.stream with
  | none => s
  | some x =>
    if ¬ s.streaming then s
    else
      let s := { s with cfg.lastByte := s.now }
      let g := if s.ownFlash then s.imageNext (min 8388689 (segSize (s.imageNext 16))) else g
      match s.hostTake g.length with
      | none => s.chunkShort x.next
      | some s =>
        let s := if s.ownFlash then s.sourced g else s
        match x.chainErr g with
        | some e => s.loadFail e x.next
        | none =>
          match (if segTaken g s.cfg.group.toNat then s.takeSegment x g else .inr (x, s)) with
          | .inl (e, t) => t.loadFail e x.next
          | .inr (y, t) =>
            if x.next + 1 < hdrCount x.hdr then
              ({ t with cfg.stream := some (y.after g) } : State).chunkEnd x.next
            else match y.man with
              | none => t.loadFail 17 x.next
              | some m => (t.loaded y m).chunkEnd x.next

def execSegment (seg : List (BitVec 8)) (s : State) : Out := .next (s.segment seg)

/-- SOURCE_SILENT: a flash or ring stream delivers nothing for 100 ms (R176). -/
def State.sourceSilent (s : State) : State :=
  if s.cfg.st = .loading ∧ s.cfg.lastByte + 100000000 ≤ s.now then
    s.loadFail 19 (match s.cfg.stream with | some x => x.next | none => 0)
  else s

def execSourceSilent (s : State) : Out := .next s.sourceSilent

/-- HOST_LOAD_GAP: more than 1 s between chunks (R177). -/
def State.hostGap (s : State) : State :=
  match s.cfg.host with
  | some h =>
    if h.mb = none ∧ s.configOnly ∧ h.since + 1000000000 < s.now then
      s.loadFail 12 (match s.cfg.stream with | some x => x.next | none => 0)
    else s
  | none => s

def execHostLoadGap (s : State) : Out := .next s.hostGap

/-! ### Start-up (R168, R169) -/

/-- CFG_DONE_HIGH: the pin is high and the start-up sequence begins. -/
def execCfgDoneHigh (s : State) : Out :=
  .next (if s.cfg.st = .waitDone then { s with
      cfg.donePin := true
      cfg.st := .startup
      cfg.stepAt := s.now }
    else s)

/-- DONE_WAIT in ns (R166): 1,000 ms where the directory does not give it or the golden was reached through it. -/
def State.doneWait (s : State) : Nat :=
  1000000 * (match s.dirOk with | some d => d.doneWait | none => 1000)

/-- DONE_WAIT_EXPIRY: CFG_DONE is not high DONE_WAIT ms after the source released it (R168). A reload has no golden attempt
to fall back to (R171). -/
def State.doneExpiry (s : State) : State :=
  match s.cfg.doneAt with
  | none => s
  | some t =>
    if s.cfg.st ≠ .waitDone ∨ s.now < t + s.doneWait then s
    else if s.cfg.attempt = 0 ∧ s.cfg.bootSel = 0#2 then ((s.noteFail 18 0).toGolden).raise 131 [0]
    else if s.cfg.attempt = 1 ∨ s.cfg.attempt = 3 then ((s.noteFail 18 0).toConfigOnly).raise 131 [0]
    else s

def execDoneWaitExpiry (s : State) : Out := .next s.doneExpiry

/-- Is step `k` of R169 done? -/
def State.stepDone (s : State) (k : Nat) : Bool :=
  match k with
  | 0 => s.cfg.lockDone
  | 1 => !s.cfg.gsr
  | 2 => s.cfg.writesOn
  | _ => s.cfg.ioOn

/-- Position of step `k` in the start-up order. -/
def State.stepPos (s : State) (k : Nat) : Nat := s.cfg.man.startup.getD k k

/-- The instant from which step `k` may be performed: its WAIT count of 2 ns cycles after the step before. -/
def State.stepFrom (s : State) (k : Nat) : Nat := s.cfg.stepAt + 2 * (s.cfg.man.waits.getD k 0#16).toNat

/-- Is step `k` the next of the start-up sequence, and its WAIT over (R169)? -/
def State.stepDue (s : State) (k : Nat) : Bool :=
  (decide (s.cfg.st = .startup) || decide (s.cfg.st = .running)) && !s.stepDone k &&
  ((List.range 4).all fun j => s.stepPos k ≤ s.stepPos j || s.stepDone j) && decide (s.stepFrom k ≤ s.now)

/-- The fabric PLLs that the image selects (R118). -/
def State.imagePlls (s : State) : List (Fin 24) := Config.waitPlls s.imageFrames

/-- Is every fabric PLL and SPLL that the image selects locked (R169)? -/
def State.clocksLocked (s : State) : Bool :=
  (s.imagePlls.all fun (n : Fin 24) => (s.fpll n).locked) &&
  (Config.waitSplls s.imageFrames).all fun (d : Fin 4) => (s.clkSrc (4 + d.val)).ready

/-- A start-up step is done: the next one's wait counts from here. -/
def State.stepped (s : State) (f : State → State) : State := f { s with cfg.stepAt := s.now }

def execWaitLock (s : State) : Out :=
  .next (if s.stepDue 0 ∧ s.clocksLocked then
    s.stepped fun t => { t with cfg.lockDone := true } else s)

/-- LOCK_TIMEOUT: a limit of 0 is none. -/
def execLockTimeout (s : State) : Out :=
  let n := s.cfg.man.lockTimeout.toNat
  .next (if s.stepDue 0 ∧ n ≠ 0 ∧ s.stepFrom 0 + 16000 * n ≤ s.now then
    (s.stepped fun t => { t with
      cfg.lockDone := true
      cfg.lockTo := true }).raise 130 [0] else s)

def execReleaseGsr (s : State) : Out :=
  .next (if s.stepDue 1 then s.stepped fun t => { t with cfg.gsr := false } else s)

def execEnableWrites (s : State) : Out :=
  .next (if s.stepDue 2 then s.stepped fun t => { t with cfg.writesOn := true } else s)

/-- RELEASE_IO: the device is running (R169); a host load's last chunk completes (R177), ERR_N's hold of an L4 reaction ends
(R445), and configuration requests succeed (R173). -/
def State.releaseIo (s : State) : State :=
  let t := s.stepped fun t => { t with
    cfg.ioOn := true
    cfg.st := .running
    cfg.loadUs := BitVec.ofNat 32 ((s.now - s.cfg.start) / 1000)
    cfg.host := none
    flt.errnChip := false
    pce.crs := false }
  match s.cfg.host with
  | some h => match h.mb with
    | some m => t.finish m .ok (t.hostPay h.consumed)
    | none => t
  | none => t

def execReleaseIo (s : State) : Out := .next (if s.stepDue 3 then s.releaseIo else s)

/-! ### The device while it loads (R173) -/

/-- What a user I/O ball outside its image configuration is pulled to: up or down by IO_PULL_SEL, weakly; none once
RELEASE_IO has given it that configuration. -/
def State.userPull (s : State) : Option Bool := if s.cfg.ioOn then none else some s.cfg.ioPull

/-- The level of DDR5 RESET_n of port `k`: low until its training begins. -/
def State.ddrResetN (s : State) (k : Nat) : Bool :=
  s.dportOn k && decide ((s.dport k).st ≠ .untrained)

/-! ### READY (R31, R169) -/

/-- The heartbeat of user source 1008 + `i` (R127). -/
def State.heartOf (s : State) (i : Nat) : Heartbeat :=
  match s.man.faults.find? fun u => u.src == 1008 + i with
  | some u => match u.heartbeat with
    | some (sec, p) => { sector := some sec, period := p, last := s.now }
    | none => {}
  | none => {}

/-- The owners and bindings that the manifest gives the units (R162). -/
def State.applyManifest (s : State) : State :=
  let man := s.man
  let s := man.pins.foldl (fun (t : State) (e : PinCode × Owner × Option SectorId × Bool) => t.modPin e.1 fun p => { p with
    owner := e.2.1
    sector := e.2.2.1
    shared := e.2.2.2 }) s
  let s := man.axes.foldl (fun (t : State) (e : AxisId × Owner) => t.modAxis e.1 fun a => { a with controller := e.2 }) s
  let s := man.plls.foldl (fun (t : State) (e : PllId × Owner) => t.modFpll e.1 fun p => { p with owner := e.2 }) s
  let s := man.caps.foldl (fun (t : State) (e : CapId × Owner) => t.modCap e.1 fun c => { c with owner := e.2 }) s
  let s := { s with fab.heart := (List.range 16).filterMap fun i => if s.heartOf i = {} then none else some (i, s.heartOf i) }
  let s := [0, 1].foldl (fun (t : State) (p : Nat) => if s.ringPresent p then t.modRing p fun r => { r with ringId := man.ringId } else t) s
  man.regions.foldl (fun (t : State) (r : RegionRec) => t.modOvlRegion r.region fun x => { x with
    actVer := s.cfg.version
    shownAct := s.cfg.version }) s

/-- DRAM training begins (R337). -/
def State.trainPorts (s : State) : State :=
  (List.range 8).foldl (fun (t : State) (k : Nat) =>
    if s.dportOn k ∧ (s.dport k).st = .untrained then t.modDport k fun p => { p with st := .training } else t) s

/-- ATMON_READY: the manifest is applied and READY reported. -/
def State.atmonReady (s : State) : State :=
  if s.cfg.st ≠ .running ∨ s.mbx.prog ≠ .atmon ∨ s.mbx.ready then s
  else ({ s with man := { s.cfg.man with inForce := true } } : State).applyManifest.trainPorts.report

def execAtmonReady (s : State) : Out := .next s.atmonReady

/-! ### The commands of R177 -/

def cfgQuery (s : State) : Ans :=
  ok s (pay 0x58 [(0x10, 4, s.cfgStat.toNat), (0x14, 4, s.cfgErr.toNat), (0x18, 4, 0x07140A01), (0x1C, 4, s.cfg.target.toNat),
    (0x20, 4, s.cfg.version.toNat), (0x24, 4, s.cfg.loadUs.toNat), (0x28, 48, leNat s.cfg.chain)])

def execCfgQuery (m : Mb) (s : State) : Out := .next (s.serve m 0x0201 anyForm 0x58 fun _ s => cfgQuery s)

/-- Base and size of host memory (R37). -/
def hostFrom : Nat := 0x020000000000
def hostTo : Nat := 0x030000000000

/-- Does extent `i` of CFG_HOST_LOAD lie in host memory? -/
def extentOk (r : Running) (i : Nat) : Bool :=
  let o := 0x18 + 16 * i
  hostFrom ≤ r.u64 o && r.u64 o + r.u32 (o + 8) ≤ hostTo && r.u32 (o + 12) = 0

/-- CFG_HOST_LOAD: a chunk is offered to the controller, which takes it in STREAM_HEADER and SEGMENT. -/
def cfgHostLoad (m : Mb) (r : Running) (s : State) : Ans :=
  let n := r.u32 0x14
  let first := r.bit 0x10 0
  let total := ((List.range n).map fun i => r.u32 (0x18 + 16 * i + 8)).foldl (· + ·) 0
  if ¬ s.configOnly then no .wrongState s
  else if s.mbx.prog ≠ .atmon then .reply .wrongState 4 [] s
  else if n = 0 ∨ 62 < n ∨ ¬ (List.range n).all (extentOk r) ∨ 3 < r.u32 0x10 then no .wrongState s
  else match s.cfg.host with
    | none =>
      if ¬ first then no .wrongState s
      else .accepted { s with
        cfg.host := some { offered := total, consumed := 0, since := s.now, last := r.bit 0x10 1, mb := some m }
        cfg.attempt := 2
        cfg.golden := false
        cfg.fallback := false
        cfg.errCode := 0
        cfg.errSeg := 0
        cfg.errAttempt := 0
        cfg.stream := none }
    | some h =>
      if first ∨ h.mb.isSome then no .wrongState s
      else .accepted { s with cfg.host := some { h with
        offered := h.offered + total
        last := r.bit 0x10 1
        mb := some m } }

def execCfgHostLoad (m : Mb) (s : State) : Out :=
  .next (s.serveLong m 0x0202 anyForm 0x1C fun r s => s.withConfig m (cfgHostLoad m r s))

def cfgReload (r : Running) (s : State) : Ans :=
  if 2 < r.u32 0x10 ∨ 1 < r.u32 0x14 then no .wrongState s
  else if s.anyAdmitted ∧ ¬ r.bit 0x14 0 then no .wrongState s
  else ok { s with
    cfg.reload := some (s.now + 1000000, r.u32 0x10)
    mbx.reloading := true }

def execCfgReload (m : Mb) (s : State) : Out :=
  .next (s.serve m 0x0203 anyForm 0x10 fun r s => s.withConfig m (cfgReload r s))

/-! ### Flash commands (R177, R417) -/

/-- The words at offset `off` of control space that a command reads, up to the first that is refused. -/
def State.cmdWords (s : State) (who : Initiator) (off n : Nat) : NocStatus × List Byte × State :=
  (List.range (ceilDiv n 4)).foldl (fun (r : NocStatus × List Byte × State) (i : Nat) =>
    if r.1 ≠ .ok then r
    else
      let x := r.2.2.ctlRead who (off + 4 * i) (min 4 (n - 4 * i))
      (x.1, r.2.1 ++ x.2.1, x.2.2)) (.ok, [], s)

/-- Bytes that a command of owner `o` reads at a global address, in control space a word at a time. What host memory and other
units return is free. -/
def State.cmdRead (s : State) (o : Owner) (a n : Nat) : NocStatus × List Byte × State :=
  let other := s.freshBytes n
  match s.place a n with
  | .ctl off => s.cmdWords (.unit o) off n
  | _ => match s.serveRead (.unit o) o a n with
    | .done st bs t => (st, bs, t)
    | _ => (.ok, other.1, other.2)

/-- Bytes that a command of owner `o` writes at a global address; owner 0's in control space are the belfry's writes. -/
def State.cmdWrite (s : State) (o : Owner) (a : Nat) (bs : List Byte) : NocStatus × State :=
  match s.place a bs.length with
  | .ctl off => (List.range (ceilDiv bs.length 4)).foldl (fun (r : NocStatus × State) (i : Nat) =>
      if r.1 ≠ .ok then r else r.2.ctlWrite (if o = 0 then .belfry else .unit o) (off + 4 * i) (bytesAt bs (4 * i) 4)) (.ok, s)
  | _ => match s.serveWrite (.unit o) o a bs with
    | .done st _ t => (st, t)
    | _ => (.ok, s)

/-- The status of a command whose transfer was answered with an error. -/
def xferCode : NocStatus → Code
  | .notOwner => .notOwner
  | .absent => .absentUnit
  | _ => .wrongState

/-- Checks that the flash commands share. -/
def State.withFlash (s : State) (r : Running) (f : Nat → Nat → Ans) : Ans :=
  if ¬ s.drivesFlash ∨ 0x4000000 < r.u32 0x14 then no .wrongState s else f (r.u32 0x10) (r.u32 0x14)

/-- Does a change of the flash touch the golden area in life-cycle DEPLOYED? -/
def State.goldenKept (s : State) (a n : Nat) : Bool := decide (s.sec.lc = .deployed) && meets a n goldenBase s.goldenEnd

def flashRead (m : Mb) (r : Running) (s : State) : Ans :=
  s.withFlash r fun a n =>
    let w := s.cmdWrite (s.issuer m) (r.u64 0x18) (s.flashBytes a n)
    if w.1 = .ok then .accepted (w.2.finish m .ok) else no (xferCode w.1) w.2

def execFlashRead (m : Mb) (s : State) : Out :=
  .next (s.serveLong m 0x0210 anyForm 0x10 fun r s => s.withConfig m (flashRead m r s))

def flashEraseCmd (m : Mb) (r : Running) (s : State) : Ans :=
  s.withFlash r fun a n =>
    if a % 0x10000 ≠ 0 ∨ n % 0x10000 ≠ 0 ∨ s.goldenKept a n then no .wrongState s
    else .accepted ((s.flashErase a n).finish m .ok)

def execFlashErase (m : Mb) (s : State) : Out :=
  .next (s.serveLong m 0x0211 anyForm 0x10 fun r s => s.withConfig m (flashEraseCmd m r s))

def flashWriteCmd (m : Mb) (r : Running) (s : State) : Ans :=
  s.withFlash r fun a n =>
    if s.goldenKept a n then no .wrongState s
    else
      let x := s.cmdRead (s.issuer m) (r.u64 0x18) n
      if x.1 = .ok then .accepted ((x.2.2.flashWrite a x.2.1).finish m .ok) else no (xferCode x.1) x.2.2

def execFlashWrite (m : Mb) (s : State) : Out :=
  .next (s.serveLong m 0x0212 anyForm 0x10 fun r s => s.withConfig m (flashWriteCmd m r s))

/-- The directory's FIRMWARE field and CRC rewritten (R166, R417). -/
def State.setFirmware (s : State) (a : Nat) : State :=
  let sector := s.flashBytes 0 0x10000
  let head := sector.take 0xC ++ leBytes 4 a ++ (sector.drop 0x10).take 0xC
  (s.flashErase 0 0x10000).flashWrite 0 (head ++ leBytes 4 (crc32c head).toNat ++ sector.drop 0x20)

def fwUpdate (m : Mb) (r : Running) (s : State) : Ans :=
  let n := r.u32 0x18
  let a := r.u32 0x1C
  if ¬ s.drivesFlash ∨ a % 0x10000 ≠ 0 ∨ 1 < r.u32 0x20 ∨ s.flashProtected a n then no .wrongState s
  else
    let x := s.cmdRead (s.issuer m) (r.u64 0x10) n
    if x.1 ≠ .ok then no (xferCode x.1) x.2.2
    else
      let e := s.fwErrOf x.2.1
      if e ≠ 0 then no (fwCode e) (x.2.2.fwFailed e)
      else
        let t := { x.2.2 with
          mbx.fwErr := 0
          mbx.fwFail := false }
        let t := (t.flashErase a n).flashWrite a x.2.1
        let t := if r.bit 0x20 0 then t.setFirmware a else t
        .accepted (t.finish m .ok (pay 0x18 [(0x10, 4, fieldAt x.2.1 8 4), (0x14, 4, fieldAt x.2.1 0xC 4)]))

def execFwUpdate (m : Mb) (s : State) : Out :=
  .next (s.serveLong m 0x0110 anyForm 0x18 fun r s => s.withConfig m (fwUpdate m r s))

/-- FW_LOAD (R418): the recovery monitor reads the image, which FIRMWARE_CHECK brings. -/
def fwLoad (m : Mb) (r : Running) (s : State) : Ans :=
  if s.issuer m ≠ 0 then no .notOwner s
  else if ¬ s.configOnly ∨ s.mbx.prog = .atmon ∨ (List.finRange 33).any (fun (k : Mb) => k != m && s.fwWaits k) then no .wrongState s
  else if r.u64 0x10 < hostFrom ∨ hostTo < r.u64 0x10 + r.u32 0x18 then no .wrongState s
  else .accepted s

def execFwLoad (m : Mb) (s : State) : Out := .next (s.serveLong m 0x0111 anyForm 0x10 (fwLoad m))

end Sys2Proof.Machine
end

