-- ==== Sys2Proof/Machine/Overlay.lean ====
section
/-!
DEFINITION. Machine/Overlay.lean: the image store and the frame copy (R182 to R184), staging (R185 to R187), arming and swaps
(R188 to R192), quiesced loads (R193, R194), the configuration scrubber (R195 to R197), their commands (R199) and ENG_LOAD
(R227).
-/
namespace Sys2Proof.Machine

/-! ### The image store -/

/-- A stored container. -/
def State.stored (s : State) (h : Nat) : Option Stored := tget s.ovl.store none h
def State.setStored (s : State) (h : Nat) (v : Option Stored) : State := { s with ovl.store := tput s.ovl.store none h v }

/-- Bytes of the container area (R182). -/
def State.storeSize (s : State) : Nat := (s.man.regions.findSome? fun r => r.storeSize).getD 0x1000000

/-- Bytes of the container area in use. -/
def State.storeUsed (s : State) : Nat :=
  (s.ovl.store.map fun (e : Nat × Option Stored) => match e.2 with | some x => x.bytes.length | none => 0).foldl (· + ·) 0

/-- Does a read of region 15 succeed: its range not failed, and no port of it frozen, resetting or failed (R187)? -/
def State.storeReadable (s : State) : Bool :=
  ((s.region 15).enc.isNone || ((s.range 7).keyed && !(s.range 7).failed)) &&
  (maskList 8 (s.region 15).ports.toNat).all fun k => (portRefusal (s.dport k).st).isNone

/-- Bytes of region 15: the store's two parts, with the metadata of a protected region, as a multiple of its stripe. -/
def State.storeTotal (s : State) (ports : Nat) : Nat :=
  let need := s.storeSize + 180 * 0x100000
  let whole := if s.variant.mxe then ceilDiv (need * 7) 6 + 4096 else need
  let unit := ports * 0x100000
  ceilDiv whole unit * unit

/-- IMAGE_STORE_CREATE (R182). -/
def State.storeCreate (s : State) : State :=
  let ks := (List.range 8).filter s.dportPresent
  if ¬ s.mbx.ready ∨ s.configOnly ∨ s.ovl.made ∨ ¬ ks.all (fun k => decide ((s.dport k).st = .ready)) then s
  else
    let size := s.storeTotal ks.length
    match s.findPbase (2 ^ ks.length - 1) (size / ks.length) with
    | none => s
    | some pb =>
      let s := s.setRegion 15 {
        defined := true
        owner := 0
        base := vaultBase - size
        size := size
        ports := BitVec.ofNat 8 (2 ^ ks.length - 1)
        gexp := 12
        pbase := pb
        enc := if s.variant.mxe then some 7 else none }
      let s : State := if s.variant.mxe then
          let f := s.fresh 256
          { f.2.setRange 7 { keyed := true, key := f.1, region := some 15, owner := 0 } with mxe.keyless := false }
        else s
      { s with ovl.made := true }

def execImageStoreCreate (s : State) : Out := .next s.storeCreate

/-- Does a frame belong to a plane that holds a complete configuration: the base design's, an active plane or a READY
shadow (R183)? -/
def State.frameSettled (s : State) (a : Nat) : Bool :=
  let b : Bool := 524288 ≤ a
  match s.quadRegion (a % 512) with
  | none => !b
  | some r => let x := s.ovlRegion r; x.active == b || x.shadow = .ready

/-- FRAME_COPY_FILL (R183): a frame is read back, checked and copied. -/
def State.frameFill (s : State) (a : Nat) : State :=
  let f := s.frame a
  if ¬ s.ovl.made ∨ ¬ frameExists a ∨ f.finding ≠ .clean ∨ (f.enc ∧ ¬ s.variant.mxe) ∨ ¬ s.frameSettled a ∨ ¬ s.storeReadable then s
  else s.setFrame a { f with copied := true }

def execFrameCopyFill (frame : BitVec 20) (s : State) : Out := .next (s.frameFill frame.toNat)

/-! ### Checks of a container (R184, R187) -/

/-- REASON of a header code (R187). -/
def headerReason (e : Nat) : Nat := if e = 4 ∨ e = 5 then 2 else 1

/-- The first segment of a byte string and the rest. -/
def nextSegment (bs : List Byte) : List Byte × List Byte := (bs.take (segSize bs), bs.drop (segSize bs))

/-- The whole hash chain and every tag of a container (R184): 6 CHAIN, 7 TAG, 0 where all hold. -/
def chainReason : Nat → Stream → List Byte → Nat
  | 0, _, _ => 6
  | fuel + 1, x, bs =>
    let g := (nextSegment bs).1
    if (x.chainErr g).isSome then 6
    else match x.payload g with
      | .inl 11 => 7
      | _ =>
        if x.next + 1 < hdrCount x.hdr then chainReason fuel (x.after g) (nextSegment bs).2
        else if (nextSegment bs).2 = [] then 0 else 6

/-- The status of a REASON (R187, R194). -/
def reasonCode (reason : Nat) : Code :=
  if reason = 3 then .notOwner
  else if reason = 6 ∨ reason = 7 then .authFailed
  else if reason = 8 ∨ reason = 9 then .ovlBadFrame
  else .ovlBadImage

/-- A refusal with a REASON at an offset of the response. -/
def refuse (c : Code) (len off reason : Nat) (s : State) : Ans := .reply c 0 (pay len [(off, 4, reason)]) s

def ovlStore (m : Mb) (r : Running) (s : State) : Ans :=
  let n := r.u32 0x18
  let o := s.issuer m
  let bad (c : Code) (reason : Nat) (s : State) : Ans := refuse c 0x1C 0x18 reason s
  if ¬ s.ovl.made then no .absentUnit s
  else if s.storeSize < s.storeUsed + n then no .refusedResources s
  else
    let x := s.cmdRead o (r.u64 0x10) n
    let s := x.2.2
    let h := x.2.1
    if x.1 ≠ .ok then no (xferCode x.1) s
    else if ¬ s.storeReadable then bad .ovlBadImage 11 s
    else match s.headerErr (h.take 512) [3, 4] with
      | some e => bad (loadCode e) (headerReason e) s
      | none =>
        let reg := hdrRegion h
        let reason := chainReason (hdrCount h) (s.streamOf (h.take 512)) (h.drop 512)
        if hdrOwner h ≠ o.val then bad .notOwner 3 s
        else if hdrKind h = 3 ∧ (s.regionRec reg).isNone then bad .wrongState 3 s
        else if hdrKind h = 3 ∧ ¬ (s.regionRec reg).any (fun d => d.owner = o) then bad .notOwner 3 s
        else if reason ≠ 0 then bad (reasonCode reason) reason s
        else match firstFree 65536 fun i => (s.stored i).isNone with
          | none => no .refusedResources s
          | some i =>
            let s := s.setStored i (some {
              bytes := h
              owner := o
              kind := hdrKind h
              region := reg
              version := hdrVersion h })
            .accepted (s.finish m .ok (pay 0x1C [(0x10, 2, i), (0x12, 1, reg), (0x14, 4, (hdrVersion h).toNat)]))

def execOvlStore (m : Mb) (s : State) : Out := .next (s.serveLong m 0x0220 anyForm 0x1C (ovlStore m))

/-- A stored container that its owner names; `other` answers for another owner's. -/
def State.withStored (s : State) (o : Owner) (h : Nat) (other : Ans) (f : Stored → Ans) : Ans :=
  match s.stored h with
  | none => no .wrongState s
  | some x => if x.owner = o then f x else other

/-- Is a container resident in a plane, or being staged (R184)? -/
def State.resident (s : State) (h : Nat) : Bool :=
  (List.range 32).any fun r =>
    let x := s.ovlRegion r
    x.act == some h || x.shd == some h || (match x.staging with | some t => t.handle == h | none => false)

def execOvlDrop (m : Mb) (s : State) : Out :=
  .next (s.serve m 0x0221 anyForm 0x10 fun r s => s.withStored (s.issuer m) (r.u16 0x10) (no .notOwner s) fun _ =>
    if s.resident (r.u16 0x10) then no .wrongState s else ok (s.setStored (r.u16 0x10) none))

/-! ### Planes -/

/-- A plane of quads cleared to zero, with the signatures of zero frames. -/
def State.clearPlane (s : State) (b : Bool) (quads : List Nat) : State :=
  { s with cfg.frame := s.cfg.frame.filter fun (e : Nat × Frame) => !(decide (e.1 / 524288 = b2n b) && quads.contains (e.1 % 512)) }

/-- The region's registers follow its planes, except while a swap's record is due (R189). -/
def OvlRegion.show (x : OvlRegion) : OvlRegion :=
  if x.record then x
  else { x with
    shownActive := x.active
    shownShadow := x.shadow
    shownAct := x.actVer
    shownShd := x.shdVer }

/-- Change a region and its registers. -/
def State.onRegion (s : State) (r : Nat) (f : OvlRegion → OvlRegion) : State := s.modOvlRegion r fun x => (f x).show

/-- The shadow plane of a region is cleared and EMPTY. -/
def State.emptyShadow (s : State) (d : RegionRec) : State :=
  let r := d.region.val
  (s.clearPlane (!(s.ovlRegion r).active) d.quads).onRegion r fun x => { x with
    shadow := .empty
    shd := none
    shdVer := 0#32
    con := none }

/-- A staging is discarded (R187, R194): the shadow plane is cleared, the region runs on, and the command ends with REASON. -/
def State.discardStaging (s : State) (d : RegionRec) (t : Staging) (reason : Nat) : State :=
  let s := (s.emptyShadow d).onRegion d.region fun x => { x with
    rejectS := true
    staging := none
    quiesced := none
    swapDue := false }
  s.finish t.mb (reasonCode reason) (pay (if t.quiesced then 0x1C else 0x18) [(0x10, 4, reason), (0x14, 4, (s.now - t.since) / 1000)])

/-- Is `n` a contract of owner `o` with a read reservation on region 15 (R185)? -/
def State.stagingCon (s : State) (o : Owner) (n : Nat) : Bool :=
  match s.con n with
  | some k => decide (k.owner = o) && (decide (k.st = .admitted) || decide (k.st = .suspended)) &&
      k.flows.any fun f => decide (f.dst = .region 15) && !f.write
  | none => false

/-- REASON of the checks that come before any frame (R187), 0 where all pass. -/
def State.stageReason (s : State) (c : Stored) (d : RegionRec) : Nat × Code :=
  let hdr := c.bytes.take 512
  match s.headerErr hdr [3] with
  | some e => (headerReason e, if e = 4 ∨ e = 5 then .ovlBadImage else loadCode e)
  | none =>
    let g := (nextSegment (c.bytes.drop 512)).1
    let x := s.streamOf hdr
    if ¬ s.storeReadable then (11, .ovlBadImage)
    else if (x.chainErr g).isSome then (6, .authFailed)
    else match x.payload g with
      | .inl 11 => (7, .authFailed)
      | .inl _ => (10, .ovlBadImage)
      | .inr p =>
        if segKind g ≠ 0 then (4, .ovlBadImage)
        else match overlayRecord p with
          | none => (10, .ovlBadImage)
          | some (reg, quads, border) =>
            if reg = d.region.val ∧ quads.all d.quads.contains ∧ d.quads.all quads.contains ∧ border = d.border then (0, .ok)
            else (4, .ovlBadImage)

/-- OVL_STAGE and OVL_LOAD_QUIESCED up to their first frame (R185 to R187, R193). -/
def ovlStage (quiesced : Bool) (m : Mb) (r : Running) (s : State) : Ans :=
  let h := r.u16 0x10
  let o := s.issuer m
  let len := if quiesced then 0x1C else 0x18
  s.withStored o h (refuse .notOwner len 0x10 3 s) fun c =>
    match s.regionRec c.region with
    | none => if c.kind = 3 then no .wrongState s else refuse .ovlBadImage len 0x10 1 s
    | some d =>
      let i := d.region.val
      let x := s.ovlRegion i
      if c.kind ≠ 3 then refuse .ovlBadImage len 0x10 1 s
      else if d.owner ≠ o then refuse .notOwner len 0x10 3 s
      else if s.armed i ∨ x.quiesced.isSome ∨ x.swapping.isSome ∨ x.staging.isSome ∨ ¬ s.stagingCon o (r.u32 0x14) ∨
          ¬ d.quads.all (fun q => bitOf s.ckr.pwrSec.toNat (quadSector q)) then no .wrongState s
      else
        let s := s.emptyShadow d
        let e := s.stageReason c d
        if e.1 ≠ 0 then refuse e.2 len 0x10 e.1 (s.onRegion i fun x => { x with rejectS := true })
        else .accepted (s.onRegion i fun x => { x with
          shadow := .staging
          staging := some { mb := m, handle := h, quiesced := quiesced, since := s.now, con := r.u32 0x14 } })

def execOvlStage (m : Mb) (s : State) : Out := .next (s.serveLong m 0x0222 anyForm 0x18 (ovlStage false m))
def execOvlLoadQuiesced (m : Mb) (s : State) : Out := .next (s.serveLong m 0x0225 anyForm 0x1C (ovlStage true m))

/-- Frames of a segment into the shadow plane `b` of a region: 8 FRAME_ADDRESS, 9 BUSLINE. -/
def State.stageRecs (s : State) (d : RegionRec) (b enc : Bool) (h : Nat) : List Rec → Nat × State
  | [] => (0, s)
  | .frame a v :: rs =>
    if ¬ frameExists a ∨ a / 524288 ≠ b2n b ∨ ¬ d.quads.contains (a % 512) then (8, s)
    else
      let t := s.putFrame a v enc (some h)
      if t.quadClash b (a % 512) then (9, t) else t.stageRecs d b enc h rs
  | _ :: _ => (10, s)

/-- Block memories of a segment of a quiesced load: 12 BLOCK_NUMBER; with the blocks written. Their check bits follow the
ECC setting in the incoming plane `b` (R141, R193). -/
def State.stageBlocks (s : State) (d : RegionRec) (b : Bool) (done : List Nat) : List Rec → Nat × List Nat × State
  | [] => (0, done, s)
  | .block i bs :: rs =>
    if ¬ d.quads.contains (i / 12) then (12, done, s)
    else
      let chk : Check := if (Config.bram (s.planeFrames b (i / 12)) (i % 12)).ecc then .valid else .raw 0#6
      let t := (List.range 2048).foldl (fun (t : State) (n : Nat) =>
        t.setBword i n { d := BitVec.ofNat 24 (fieldAt bs (3 * n) 3), chk := chk }) s
      t.stageBlocks d b (i :: done) rs
  | _ :: _ => (10, done, s)

/-- One pass over a container's segments: with `blocks` false its frames are staged, with `blocks` true its block memories
are written. REASON, the blocks written, and the state. -/
def State.stageWalk (s : State) (d : RegionRec) (b quiesced blocks : Bool) (h : Nat) :
    Nat → Stream → List Byte → List Nat → Nat × List Nat × State
  | 0, _, _, done => (6, done, s)
  | fuel + 1, x, bs, done =>
    let g := (nextSegment bs).1
    let k := segKind g
    let r : Nat × List Nat × State :=
      if (x.chainErr g).isSome then (6, done, s)
      else if ¬ segTaken g s.cfg.group.toNat then (0, done, s)
      else match x.payload g with
        | .inl 11 => (7, done, s)
        | .inl _ => (10, done, s)
        | .inr p =>
          if k = 0 then (if x.next = 0 then 0 else 10, done, s)
          else if k = 1 then
            if blocks then (0, done, s)
            else match recsOf k p with
              | none => (10, done, s)
              | some rs => let t := s.stageRecs d b (hdrEncrypted x.hdr) h rs; (t.1, done, t.2)
          else if k = 2 ∧ quiesced then
            if ¬ blocks then (0, done, s)
            else match recsOf k p with
              | none => (10, done, s)
              | some rs => s.stageBlocks d b done rs
          else (5, done, s)
    if r.1 ≠ 0 then r
    else if x.next + 1 < hdrCount x.hdr then
      r.2.2.stageWalk d b quiesced blocks h fuel (x.after g) (nextSegment bs).2 r.2.1
    else r

/-- The walk over a stored container. -/
def State.stageAll (s : State) (d : RegionRec) (t : Staging) (blocks : Bool) : Nat × List Nat × State :=
  match s.stored t.handle with
  | none => (11, [], s)
  | some c =>
    if ¬ s.storeReadable then (11, [], s)
    else s.stageWalk d (!(s.ovlRegion d.region).active) t.quiesced blocks t.handle (hdrCount c.bytes)
      (s.streamOf (c.bytes.take 512)) (c.bytes.drop 512) []

/-- STAGING_COMPLETE (R185 to R187, R193): the frames are written; OVL_STAGE completes, or the region is quiesced. `read` is
false where a read of the image store met an error response, such as a failed integrity tag (R187). -/
def State.stagingComplete (s : State) (r : Nat) (read : Bool) : State :=
  match s.regionRec r, (s.ovlRegion r).staging with
  | some d, some t =>
    if (s.ovlRegion r).quiesced.isSome ∨ (s.ovlRegion r).shadow ≠ .staging then s
    else
      let w := if read then s.stageAll d t false else (11, [], s)
      if w.1 ≠ 0 then w.2.2.discardStaging d t w.1
      else
        let s := w.2.2.onRegion r fun x => { x with
          shadow := .ready
          shd := some t.handle
          shdVer := match s.stored t.handle with | some c => c.version | none => 0#32
          con := some t.con
          staging := if t.quiesced then some t else none
          quiesced := if t.quiesced then some s.now else none }
        if t.quiesced then s else s.finish t.mb .ok (pay 0x18 [(0x10, 4, 0), (0x14, 4, (s.now - t.since) / 1000)])
  | _, _ => s

def execStagingComplete (r : RegionId) (read : Bool) (s : State) : Out := .next (s.stagingComplete r.val read)

/-- QUIESCE_END (R193, R194): the block memories are written and a swap is due, or the load is undone. -/
def State.quiesceEnd (s : State) (r : Nat) (read : Bool) : State :=
  match s.regionRec r, (s.ovlRegion r).staging with
  | some d, some t =>
    if (s.ovlRegion r).quiesced.isNone ∨ (s.ovlRegion r).swapDue then s
    else
      let w := if read then s.stageAll d t true else (11, [], s)
      if w.1 ≠ 0 then
        let s := w.2.1.foldl (fun (u : State) (i : Nat) =>
          (List.range 2048).foldl (fun (v : State) (n : Nat) => v.setBword i n {}) u) w.2.2
        s.discardStaging d t w.1
      else w.2.2.modOvlRegion r fun x => { x with swapDue := true }
  | _, _ => s

def execQuiesceEnd (r : RegionId) (read : Bool) (s : State) : Out := .next (s.quiesceEnd r.val read)

/-! ### Arming and the swap (R188 to R192) -/

/-- A region that its owner names. -/
def State.withRegion (s : State) (o : Owner) (r : Nat) (f : RegionRec → Ans) : Ans :=
  match s.regionRec r with
  | none => no .wrongState s
  | some d => if d.owner = o then f d else no .notOwner s

def ovlArmSwap (m : Mb) (r : Running) (s : State) : Ans :=
  let i := r.u32 0x10
  let n := r.u32 0x14
  let arm := r.u32 0x2C
  s.withRegion (s.issuer m) i fun d =>
    let x := s.ovlRegion i
    let a := s.axis n
    let toggle : Bool := r.u64 0x20 ≠ 0
    if 15 < n ∨ 1 < r.u32 0x28 ∨ 255 < arm ∨ x.shadow ≠ .ready ∨ a.cfg.bidir ∨ a.st = .disabled ∨ s.armed i ∨
        x.quiesced.isSome ∨ x.swapping.isSome ∨ (toggle ∧ (x.act.isNone ∨ x.shd.isNone)) then no .wrongState s
    else
      let s := s.modOvlRegion i fun x => { x with
        toggle := toggle
        armId := BitVec.ofNat 8 arm }
      let s := s.setStrike i {
        pos := BitVec.ofNat 64 (r.u64 0x18)
        interval := BitVec.ofNat 64 (r.u64 0x20)
        arg := BitVec.ofNat 64 (i + 256 * arm)
        ctl := BitVec.ofNat 16 (n + 0x30 + 0x200 * r.u32 0x28 + 0x400)
        owner := d.owner }
      ok (s.catchUp i 0) (pay 0x14 [(0x10, 4, i)])

def execOvlArmSwap (m : Mb) (s : State) : Out := .next (s.serve m 0x0223 anyForm 0x14 (ovlArmSwap m))

/-- OVL_DISARM: not once the swap has been committed ahead. -/
def ovlDisarm (m : Mb) (r : Running) (s : State) : Ans :=
  let i := r.u32 0x10
  s.withRegion (s.issuer m) i fun d =>
    if ¬ s.armed i ∨ (s.stk.swaps.any fun (w : Nat × Nat × Nat) => w.1 == i) then no .wrongState s
    else ok ((s.modStrike i fun e => e.setValid false).modAllot d.owner fun a => { a with
      waiting := a.waiting.filter fun (w : Nat × Strike × Nat) => w.1 ≠ i })

def execOvlDisarm (m : Mb) (s : State) : Out := .next (s.serve m 0x0224 anyForm 0x10 (ovlDisarm m))

def ovlQuery (m : Mb) (r : Running) (s : State) : Ans :=
  let i := r.u32 0x10
  match s.regionRec i with
  | none => no .wrongState s
  | some d =>
    let bs := ((List.range 4).map fun j => leBytes 4 (s.ovlReg i j).toNat).flatten
    ok (if d.owner = s.issuer m then s.modOvlRegion i fun x => { x with
        swapS := false
        lateS := false
        rejectS := false } else s) bs

def execOvlQuery (m : Mb) (s : State) : Out := .next (s.serve m 0x0226 anyForm 0x20 (ovlQuery m))

/-- The swap edge of a crossing instant in 1/256 ns: the nearest edge of the 500 MHz configuration clock (R189). -/
def swapEdgeOf (t0 : Nat) : Nat := (t0 + 256) / 512 * 2

/-- The planes of a region flip, and its registers take the incoming overlay's values (R142, R150, R189, R190). -/
def State.flip (s : State) (d : RegionRec) : State :=
  let r := d.region.val
  let t := s.modOvlRegion r fun x => { x with
    active := !x.active
    act := x.shd
    shd := x.act
    actVer := x.shdVer
    shdVer := x.actVer
    shadow := .ready }
  let mine (q : Nat) : Bool := d.quads.contains q
  let carried := (d.quads.flatMap quadCells).filter fun c => (s.cellCfg c).carried && (t.cellCfg c).carried
  let blocks := (s.fab.bport.map fun (e : Nat × BPort) => e.1).filter fun n => mine (n / 24)
  let t := { t with
    fab.ff := carried.foldl (fun (u : Tab (Option Bool)) (c : Nat) => tput u none c (some (s.ffVal c)))
      (s.fab.ff.filter fun (e : Nat × Option Bool) => !mine (quadAt (cellX e.1) (cellY e.1)))
    fab.wire := s.fab.wire.filter fun (e : Nat × Option Bool) => match wirePlace e.1 with
      | some p => !mine (quadAt p.1 p.2)
      | none => true
    fab.slice := s.fab.slice.filter fun (e : Nat × Slice) => !mine (e.1 / 32) }
  blocks.foldl (fun (u : State) (n : Nat) => u.modBport n fun p => { p with
    out := none
    outSbe := false
    outDbe := false
    coll := false
    wrote := []
    read := [] }) t

/-- The swap of a region at edge `e`. -/
def State.swapAt (s : State) (d : RegionRec) (e : Nat) : State :=
  (s.flip d).modOvlRegion d.region fun x => { x with
    swapping := some e
    lastSwap := some e
    record := true
    swapDue := false
    quiesced := none }

/-- Is readback capture active on a sector that holds part of the region (KL-09)? -/
def State.capturing (s : State) (d : RegionRec) : Bool := d.quads.any fun q => (s.sector (quadSector q)).capture

/-- SWAP_EDGE (R189, R193, R517): a swap committed ahead or a quiesced load's swap is performed at its edge. -/
def State.swapEdge (s : State) (r : Nat) : State :=
  let x := s.ovlRegion r
  match s.regionRec r with
  | none => s
  | some d =>
    if x.swapping.isSome then s
    else if x.swapDue then
      match x.staging, x.quiesced with
      | some t, some q =>
        let e := (s.now + 1) / 2 * 2
        let s := (s.swapAt d e).modOvlRegion r fun x => { x with staging := none }
        s.finish t.mb .ok (pay 0x1C [(0x10, 4, 0), (0x14, 4, (s.now - t.since) / 1000), (0x18, 4, e + 8 - q)])
      | _, _ => s
    else match s.stk.swaps.find? fun (w : Nat × Nat × Nat) => w.1 == r with
      | none => s
      | some w =>
        let e := swapEdgeOf w.2.2
        if s.now < e then s
        else
          let s : State := { s with stk.swaps := s.stk.swaps.erase w }
          if x.shadow ≠ .ready then s
          else (s.swapAt d (if s.capturing d then s.now else e)).modOvlRegion r fun x => { x with armId := BitVec.ofNat 8 w.2.1 }

def execSwapEdge (r : RegionId) (s : State) : Out := .next (s.swapEdge r.val)

/-- REGION_USABLE: 8 ns after the swap edge. -/
def State.regionUsable (s : State) (r : Nat) : State :=
  match (s.ovlRegion r).swapping with
  | some e => if s.now < e + 8 then s else s.modOvlRegion r fun x => { x with swapping := none }
  | none => s

def execRegionUsable (r : RegionId) (s : State) : Out := .next (s.regionUsable r.val)

/-- SWAP_RECORD_UPDATE: the region's registers, SWAP_S and the count. -/
def State.swapRecord (s : State) (r : Nat) : State :=
  if (s.ovlRegion r).record then s.onRegion r fun x => { x with
    record := false
    swapS := true
    swaps := x.swaps + 1 }
  else s

def execSwapRecordUpdate (r : RegionId) (s : State) : Out := .next (s.swapRecord r.val)

/-! ### The scrubber (R195 to R197) -/

/-- The first frame at or after quad `q` of the row of frames that starts at address `row`. -/
def frameIn (row q : Nat) : Option Nat := (((List.range 384).drop q).find? fun i => frameExists (row + i)).map (row + ·)

/-- The next frame in address order; none after the last (R195). -/
def frameAfter (a : Nat) : Option Nat :=
  let row := a / 512 * 512
  (frameIn row (a % 512 + 1)).orElse fun _ =>
    if bitsOf a 9 10 < 959 then frameIn (row + 512) 0 else if a < 524288 then frameIn 524288 0 else none

/-- CFG_SCRUB_CONFIG: an enable begins a lap at the first frame (DESIGN CHOICE, log 127). -/
def execCfgScrubConfig (m : Mb) (s : State) : Out :=
  .next (s.serve m 0x0230 anyForm 0x10 fun r s => s.withConfig m (
    let t := { s with ovl.scrubEn := r.bit 0x10 0 }
    ok (if r.bit 0x10 0 ∧ ¬ s.ovl.scrubEn then { t with
        ovl.scan := some 0
        ovl.lapAt := s.now }
      else t)))

def execCfgScrubQuery (m : Mb) (s : State) : Out :=
  .next (s.serve m 0x0231 anyForm 0x28 fun _ s => ok s ((List.range 6).map fun j => leBytes 4 (s.scrubReg j).toNat).flatten)

/-- Does the scrubber skip a quad: within 16 ns of a swap edge of its region (R197)? -/
def State.scrubSkips (s : State) (q : Nat) : Bool :=
  match s.quadRegion q with
  | none => false
  | some r =>
    (match (s.ovlRegion r).lastSwap with | some e => decide (s.now < e + 16) | none => false) || (s.ovlRegion r).swapDue ||
    s.stk.swaps.any fun (w : Nat × Nat × Nat) => w.1 == r && decide (swapEdgeOf w.2.2 ≤ s.now + 16)

/-- SCRUB_FRAME_READ: the next frame of the lap is read, or its quad skipped. `flips` are the bits of the frame and of its check
bits that have been upset since its latest read. -/
def State.scrubRead (s : State) (flips : BitVec 3084) : State :=
  match s.ovl.scan with
  | none => s
  | some a =>
    if ¬ s.ovl.scrubEn then s
    else
      let s := { s with ovl.scan := frameAfter a }
      if s.scrubSkips (a % 512) then s
      else
        let x : Frame := { s.frame a with up := (s.frame a).up ^^^ flips }
        s.setFrame a { x with found := x.finding }

def execScrubFrameRead (flips : BitVec 3084) (s : State) : Out := .next (s.scrubRead flips)

/-- SCRUB_LAST. -/
def scrubLast (a kind : Nat) : W32 := packW [(0, a), (20, kind)]

/-- A frame is marked UNREPAIRED; the scrubber retries it once per lap (R196). -/
def State.unrepaired (s : State) (a src : Nat) : State :=
  ({ s.modFrame a (fun x => { x with unrep := true, found := .clean }) with ovl.last := scrubLast a 4 } : State).raise src [s.quadOwner (a % 512)]

/-- A frame is rewritten with its golden contents: bus-line drivers that R114 disabled follow it again, and a frame repaired
on three consecutive laps is PERSISTENT (R196). -/
def State.rewritten (s : State) (a kind : Nat) : State :=
  let x := s.frame a
  let n := if x.reps ≠ 0 ∧ x.lap + 1 = s.ovl.lap then x.reps + 1 else 1
  let y : Frame := { x with
    up := 0#3084
    found := .clean
    unrep := false
    reps := n
    lap := s.ovl.lap }
  let s := { (s.setFrame a y).busRepaired a with ovl.last := scrubLast a kind }
  if n = 3 ∧ ¬ x.persist then
    (({ s.modFrame a (fun x => { x with persist := true }) with
      ovl.last := scrubLast a 5
      ovl.persisted := satInc s.ovl.persisted } : State).healthCause 4).raise 134 [0]
  else s

/-- FRAME_REPAIR (R196), once for each read that found the frame failing: `repaired` is false where the repair read fails or the
rewritten frame fails again. -/
def State.frameRepair (s : State) (a : Nat) (repaired : Bool) : State :=
  let x := s.frame a
  let o := s.quadOwner (a % 512)
  if ¬ frameExists a then s
  else match x.found with
    | .clean => s
    | .corrected =>
      if ¬ repaired then s.unrepaired a 135
      else ({ s.rewritten a 1 with ovl.sbe := satInc s.ovl.sbe } : State).raise 132 [0]
    | .uncorrectable =>
      let source : Bool := match x.handle with | some h => (s.stored h).isSome | none => false
      if x.copied ∨ source then
        if ¬ repaired ∨ ¬ s.storeReadable then s.unrepaired a 135
        else ({ s.rewritten a (if x.copied then 2 else 3) with ovl.mbe := satInc s.ovl.mbe } : State).raise 133 [o]
      else s.unrepaired a 133

def execFrameRepair (frame : BitVec 20) (repaired : Bool) (s : State) : Out := .next (s.frameRepair frame.toNat repaired)

/-- SCRUB_LAP_END (R195, R197): every frame of the lap has been read. LAG stays until chip reset (R198). -/
def State.scrubLapEnd (s : State) : State :=
  if ¬ s.ovl.scrubEn ∨ s.ovl.scan.isSome then s
  else
    let lag : Bool := 125000000 < s.now - s.ovl.lapAt
    let s := { s with
      ovl.lapUs := BitVec.ofNat 32 ((s.now - s.ovl.lapAt) / 1000)
      ovl.lap := s.ovl.lap + 1
      ovl.lag := s.ovl.lag || lag
      ovl.scan := some 0
      ovl.lapAt := s.now }
    if lag then s.raise 137 [0] else s

def execScrubLapEnd (s : State) : Out := .next s.scrubLapEnd

/-! ### ENG_LOAD (R227) -/

/-- May an ENGINE record write `n` bytes at `a`: P, X or Y of a STOPPED engine, or kit memory of a kit with no engine
running, in kits of owner `o`? -/
def State.engineRecCode (s : State) (o : Owner) (a n : Nat) : Code :=
  let k := (a - kitBase) / kitStride
  let off := (a - kitBase) % kitStride
  if ¬ inKits a n ∨ kitStride < off + n ∨ ¬ s.kitPresent k then .ovlBadImage
  else if (s.kitAt k).owner ≠ o then .notOwner
  else
    let one (w : Nat) : Code := match kitLoc (4 * w) with
      | .cell .kit _ _ => if (kitEngines k).all fun g => (s.engAt g).st = .stopped ∨ (s.engAt g).st = .off then .ok else .wrongState
      | .cell _ e _ => if (s.engAt (8 * k + e)).st = .stopped then .ok else .wrongState
      | _ => .ovlBadImage
    ((spanOf 4 off n).map one).foldl (fun c d => if c = .ok then d else c) .ok

/-- Engine memory written, with the ranges written so far; a status that is not OK ends the load. -/
def State.engineWrite (s : State) (o : Owner) (done : List (Nat × Nat)) : List Rec → Code × Nat × List (Nat × Nat) × State
  | [] => (.ok, 0, done, s)
  | .words a bs :: rs =>
    let c := s.engineRecCode o a bs.length
    if c ≠ .ok then (c, if c = .ovlBadImage then 10 else if c = .notOwner then 3 else 0, done, s)
    else
      let w := s.kitWrite .belfry 0 ((a - kitBase) / kitStride) ((a - kitBase) % kitStride) bs
      w.2.engineWrite o ((a, bs.length) :: done) rs
  | _ :: _ => (.ovlBadImage, 10, done, s)

/-- The segments of an engine container written in order. -/
def State.engineWalk (s : State) (o : Owner) : Nat → Stream → List Byte → List (Nat × Nat) →
    Code × Nat × List (Nat × Nat) × State
  | 0, _, _, done => (.authFailed, 6, done, s)
  | fuel + 1, x, bs, done =>
    let g := (nextSegment bs).1
    let r : Code × Nat × List (Nat × Nat) × State :=
      if (x.chainErr g).isSome then (.authFailed, 6, done, s)
      else if ¬ segTaken g s.cfg.group.toNat then (.ok, 0, done, s)
      else match x.payload g with
        | .inl 11 => (.authFailed, 7, done, s)
        | .inl _ => (.ovlBadImage, 10, done, s)
        | .inr p =>
          if segKind g = 4 then
            match recsOf 4 p with
            | none => (.ovlBadImage, 10, done, s)
            | some rs => s.engineWrite o done rs
          else if segKind g = 0 then (.ok, 0, done, s)
          else (.ovlBadImage, 5, done, s)
    if r.1 ≠ .ok then r
    else if x.next + 1 < hdrCount x.hdr then r.2.2.2.engineWalk o fuel (x.after g) (nextSegment bs).2 r.2.2.1
    else r

def engLoad (m : Mb) (r : Running) (s : State) : Ans :=
  let o := s.issuer m
  s.withStored o (r.u16 0x10) (refuse .notOwner 0x14 0x10 3 s) fun c =>
    let hdr := c.bytes.take 512
    match s.headerErr hdr [4] with
    | some e => refuse (if e = 4 ∨ e = 5 then .ovlBadImage else loadCode e) 0x14 0x10 (headerReason e) s
    | none =>
      if hdrOwner hdr ≠ o.val then refuse .notOwner 0x14 0x10 3 s
      else if ¬ s.storeReadable then refuse .ovlBadImage 0x14 0x10 11 s
      else
        let w := s.engineWalk o (hdrCount hdr) (s.streamOf hdr) (c.bytes.drop 512) []
        if w.1 = .ok then .accepted (w.2.2.2.finish m .ok (pay 0x14 [(0x10, 4, 0)]))
        else
          let t := w.2.2.1.foldl (fun (u : State) (p : Nat × Nat) =>
            (u.kitWrite .belfry 0 ((p.1 - kitBase) / kitStride) ((p.1 - kitBase) % kitStride) (List.replicate p.2 0#8)).2) w.2.2.2
          refuse w.1 0x14 0x10 w.2.1 t

def execEngLoad (m : Mb) (s : State) : Out := .next (s.serveLong m 0x0240 anyForm 0x14 (engLoad m))

end Sys2Proof.Machine
end

