-- ==== Sys2Proof/Machine/Reset.lean ====
section
/-!
DEFINITION. Machine/Reset.lean: block resets (R288, R289, R432), power domains (R433, R434), PCI Express reset events (R367),
chip reset, POR and reload (R431, R177), thermal shutdown (R455), supplies (R429, R431).
-/
namespace Sys2Proof.Machine

/-! ### Block resets -/

/-- Requests whose initiator lies in a block end with it: their responses find no one. -/
def State.dropOwn (s : State) (b : Block) : State :=
  { s with noc.req := s.noc.req.filter fun (e : Nat × Option Req) => match e.2 with
      | some r => initBlock r.who != some b
      | none => true }

/-- The token that an engine of a kit under reset held (R432): completed as MISSED at once where its miss is already
reported, else at its deadline. -/
def State.orphanToken (s : State) (g : Nat) : State :=
  match tget s.tdu.running none g with
  | none => s
  | some (t, _) =>
    let s : State := { s with tdu.running := tput s.tdu.running none g none }
    if t.missed then s.completeHw t 4 true (some g) .tdu
    else { s with tdu.orphan := s.tdu.orphan ++ [(t, g)] }

/-- An engine after its kit's reset: STOPPED, with its memories, remap tables and registers kept (R432). -/
def Eng.afterReset (e : Eng) : Eng := { e with
  st := if e.st = .off then .off else .stopped
  ldepth := 0
  late := []
  slot := none
  once := false
  fdepth := 0
  double := false
  stall := none
  argReq := none
  argGot := []
  argData := none
  pNew := []
  lock := none
  swi := false
  urge := false
  dbgInt := false
  task := 0#14
  wdog := 0#24
  frozen := false
  haltReq := false
  steps := 0
  fenced := e.fenced || e.fencing
  fencing := false
  chan := Vector.replicate 4 {} }

/-- Kit `k` (R432). -/
def State.resetKit (s : State) (k : Nat) : State :=
  let s := (List.range 8).foldl (fun (t : State) (i : Nat) =>
    let g : EngineId := Fin.ofNat 128 (8 * k + i)
    ((t.orphanToken g).engUnlock g).modEngAt g Eng.afterReset) s
  s.modKitAt k fun x => { x with locks := [] }

/-- Host pushes in the receive buffer of the functions that `p` names are discarded and counted in PCE_DROP (R367). -/
def State.dropHost (s : State) (p : Fin 2 → Bool) : State :=
  let held := s.qcu.held.filter fun (h : Held) => match h.who with | .initiator (.pf fn) => p fn | _ => false
  let posted := s.pce.posted.filter fun (w : Posted) => p w.fn
  let pushes := posted.filter fun (w : Posted) => match w.dst, w.read with
    | .at a, none => (match s.place a w.data.length with | .doorbell _ off => off = 0 | _ => false)
    | _, _ => false
  ({ s with
    qcu.held := s.qcu.held.filter fun (h : Held) => match h.who with | .initiator (.pf fn) => !p fn | _ => true
    pce.posted := s.pce.posted.filter fun (w : Posted) => !p w.fn
    pce.drop := satAdd s.pce.drop (held.length + pushes.length) } : State).postedAll

/-- The endpoint's block reset (R367, scope PCIE): ABASE and the outbound windows are kept. -/
def State.resetPcie (s : State) : State :=
  let s := { (s.dropHost fun _ => true) with
    pce.linkUp := false
    pce.training := none
    pce.unmasked := []
    pce.msixPend := [] }
  (s.dueTokens fun m => decide (m.val < 4 ∨ m.val = 10)).raise 786 [0, s.pfOwner 0]

/-- Lane group `k`: lanes, the JESD link layer and the MAC on its lanes, whose configuration is kept (R432). -/
def State.resetLanes (s : State) (k : Nat) : State :=
  let s := (List.range 8).foldl (fun (t : State) (i : Nat) => t.modLane (8 * k + i) fun l => { l with lock := false }) s
  let s := s.modJesd k fun j => { j with st := if j.en then 1 else j.st }
  if k = 2 ∨ k = 3 then s.modMac (k - 2) fun x => { x with
    link := false
    txPend := none
    txGot := []
    stamps := []
    rxPend := [] }
  else s

/-- Ring port `p`: its state is cleared, its join settings kept; a joined port heals its segment (R386). -/
def State.resetRing (s : State) (p : Nat) : State :=
  s.modRing p fun r => { r with
    st := if r.closed then r.st else .healing
    unacked := []
    txSeq := 0
    rxSeq := 0
    trail := []
    rxHold := none
    replayMs := (0, 0) }

/-- What the reset of a block clears (R432); a DRAM port's is DRAM_PORT_RESET (R342). -/
def State.clearBlock (s : State) : Block → State
  | .kit k => s.resetKit k
  | .fport sec =>
    { s.modSector sec (fun x => { x with
        reserved := 0
        responses := [] }) with
      qcu.held := s.qcu.held.filter fun (h : Held) => h.who ≠ .fabric sec }
  | .vport _ => s
  | .dport _ => s
  | .lane k => s.resetLanes k
  | .ring p => s.resetRing p
  | .pcie => s.resetPcie

/-- A block's reset is asserted (R288): requests it accepted and requests toward it are answered RESET_ABORT, its contracts
are suspended, and what R432 names is cleared. -/
def State.assertBlock (s : State) (b : Block) : State :=
  let n := blockRouter b
  let s := (s.abortWhere fun r => r.dst == n).dropOwn b
  let s := { s with
    ckr.inReset := s.ckr.inReset ++ [b]
    noc.window := (s.noc.window.filter fun (w : Block × Option Nat) => w.1 != b) ++ [(b, none)] }
  (s.clearBlock b).suspendWhere (fun _ c => s.conAt c b) 1 n none

/-- BLOCK_RESET_ASSERT: a reset asked for by an L3 reaction or by BLOCK_RESET. -/
def State.resetAssert (s : State) (b : Block) : State :=
  match s.ckr.resetReq.find? fun (q : Block × Option Mb) => q.1 == b with
  | none => s
  | some q =>
    let s := { s with
      ckr.resetReq := s.ckr.resetReq.erase q
      ckr.resetWait := match q.2 with | some m => s.ckr.resetWait ++ [(b, m)] | none => s.ckr.resetWait }
    if s.ckr.inReset.contains b then s
    else match b with
      | .dport k => ({ s with ckr.inReset := s.ckr.inReset ++ [b] } : State).dportReset k none
      | _ => s.assertBlock b

def execBlockResetAssert (b : Block) (s : State) : Out := .next (s.resetAssert b)

/-- Is engine `g` in an engine group? -/
def State.grouped (s : State) (g : EngineId) : Bool :=
  (List.range 16).any fun n => (s.grp n).defined && (s.grp n).engines.contains g

/-- After a kit's t_r its engines in groups run from the START vector (R432). -/
def State.restartKit (s : State) (k : Nat) : State :=
  (List.range 8).foldl (fun (t : State) (i : Nat) =>
    let g : EngineId := Fin.ofNat 128 (8 * k + i)
    if t.grouped g ∧ ¬ (t.engAt g).fenced then t.modEngAt g Eng.started else t) s

/-- BLOCK_RESET_RELEASE (R288): the block accepts requests again, its window ends 1 ms later with the revalidation of its
contracts, and BLOCK_RESET completes. A DRAM port's t_r is the end of its DRAM_PORT_RESET. -/
def State.resetRelease (s : State) (b : Block) : State :=
  let port : Bool := match b with | .dport _ => true | _ => false
  if port ∨ ¬ s.ckr.inReset.contains b then s
  else
    let waits := s.ckr.resetWait.filter fun (w : Block × Mb) => w.1 == b
    let s := { s with
      ckr.inReset := s.ckr.inReset.filter fun (x : Block) => x != b
      ckr.resetWait := s.ckr.resetWait.filter fun (w : Block × Mb) => w.1 != b
      noc.window := (s.noc.window.filter fun (w : Block × Option Nat) => w.1 != b) ++ [(b, some (s.now + 1000000))]
      flt.inFault := s.flt.inFault.filter fun (x : Block) => x != b
      flt.errnLatch := s.flt.errnLatch.filter fun (x : Option Block) => x != some b }
    let s := s.revalWhere (fun _ c => s.conAt c b) (s.now + 1000000)
    let s := match b with
      | .kit k => s.restartKit k
      | .pcie => { s with pce.training := if s.pce.perst then none else some s.now }
      | _ => s
    waits.foldl (fun (t : State) (w : Block × Mb) => t.finish w.2 .ok) s

def execBlockResetRelease (b : Block) (s : State) : Out := .next (s.resetRelease b)

def blockReset (m : Mb) (r : Running) (s : State) : Ans :=
  let unit := r.u8 0x10
  let idx := r.u8 0x11
  match unitBlock unit idx with
  | none => no .wrongState s
  | some b =>
    if ¬ s.blockPresent b then no .absentUnit s
    else if s.ckr.resetWait.any fun (w : Block × Mb) => w.1 == b then no .wrongState s
    else .accepted (s.askReset b (some m))

def execBlockReset (m : Mb) (s : State) : Out :=
  .next (s.serveLong m 0x0720 anyForm 0x10 fun r s => s.withConfig m (blockReset m r s))

/-! ### Power domains (R290, R433, R434) -/

/-- May a domain be switched off (R433)? -/
def State.mayPowerOff (s : State) (unit idx : Nat) : Bool :=
  match unit with
  | 0 => !s.kitAssigned idx
  | 1 => (List.range 16).all fun r => !((s.region r).defined && inMask (s.region r).ports.toNat idx)
  | 2 => (List.range 8).all fun i => (s.lane (8 * idx + i)).use = 0
  | 5 => (s.ring idx).closed && decide ((s.ring idx).st = .bypassed)
  | 7 => 4 ≤ idx % 12 && idx % 12 ≤ 7 &&
      (sectorQuads idx).all fun q => (s.planeFrames false q).isEmpty && (s.planeFrames true q).isEmpty
  | _ => s.man.pf0.isNone && s.man.pf1.isNone

/-- Is the index of a power domain in range (R438)? -/
def powerIndex (unit idx : Nat) : Bool :=
  match unit with
  | 0 => idx < 16
  | 1 => idx < 8
  | 2 => idx < 8
  | 5 => idx < 2
  | 7 => idx < 96
  | 8 => idx = 0
  | _ => false

/-- Every admitted, suspended or demoted contract with a flow at the domain is revoked (R290). -/
def State.revokeAt (s : State) (n : Nat) : State :=
  let at_ (k : Contract) : Bool := match routerBlock n with
    | some b => s.conAt k b
    | none => false
  s.contracts.foldl (fun (t : State) (e : Nat × Contract) =>
    if at_ e.2 ∧ e.2.st ≠ .revoked then t.conSet e.1 e.2 .revoked 4 n none else t) s

/-- Checks that both forms of POWER_DOMAIN share. -/
def State.withDomain (s : State) (m : Mb) (r : Running) (f : Nat → Nat → Ans) : Ans :=
  let unit := r.u8 0x10
  let idx := r.u8 0x11
  s.withConfig m
    (if ¬ powerIndex unit idx then no .wrongState s
    else if ¬ s.unitPresent unit idx then no .absentUnit s
    else if s.ckr.powering.isSome then no .wrongState s
    else f unit idx)

/-- POWER_DOMAIN_OFF: contracts are revoked and the NI drains; the supply switch opens once it is DRAINED. -/
def powerOff (m : Mb) (r : Running) (s : State) : Ans :=
  s.withDomain m r fun unit idx =>
    if ¬ s.powerOn unit idx then .accepted (s.finish m .ok)
    else if ¬ s.mayPowerOff unit idx then no .wrongState s
    else
      let n := powerRouter unit idx
      .accepted { (s.revokeAt n).modRtr n (fun x => { x with
          ni := some 2
          drainSince := some s.now }) with ckr.powering := some (unit, idx, m.val) }

def execPowerDomainOff (m : Mb) (s : State) : Out :=
  .next (s.serveLong m 0x0710 (fun r => !r.bit 0x14 0) 0x10 (powerOff m))

/-- A domain's state once its supply is good and its reset is released (R433). -/
def State.powerUp (s : State) (unit idx : Nat) : State :=
  match unit with
  | 0 => (List.range 8).foldl (fun (t : State) (i : Nat) => t.modEngAt (8 * idx + i) fun e => { e with st := .stopped }) s
  | 1 => s.modDport idx fun p => { p with st := .training }
  | 8 => { s with pce.training := if s.pce.perst then none else some s.now }
  | _ => s

/-- POWER_DOMAIN_ON. -/
def powerOnCmd (m : Mb) (r : Running) (s : State) : Ans :=
  s.withDomain m r fun unit idx =>
    if s.powerOn unit idx then .accepted (s.finish m .ok)
    else
      let n := powerRouter unit idx
      let s := (s.setPower unit idx true).powerUp unit idx
      .accepted ((s.modRtr n fun x => { x with
        ni := none
        proxy := none }).finish m .ok)

def execPowerDomainOn (m : Mb) (s : State) : Out :=
  .next (s.serveLong m 0x0710 (fun r => r.bit 0x14 0) 0x10 (powerOnCmd m))

/-! ### Chip reset, POR and reload (R431) -/

/-- What a chip reset leaves: the key store, the health record and fault history with the fenced engines and links and
erased devices that Atmon re-applies from it (R456), RESET_CAUSE, BOOT_SEL and the group ID, the flash, the pins'
levels, and what the spec keeps until POR. -/
def State.afterReset (s : State) : State :=
  { pending := s.pending
    now := s.now
    freeCount := s.freeCount
    readData := s.readData
    variant := s.variant
    speed := s.speed
    gradeE := s.gradeE
    flt := {
      history := s.flt.history
      histFirst := s.flt.histFirst
      causes := s.flt.causes
      errnChip := s.flt.errnChip
      errnSince := s.flt.errnSince }
    ckr := {
      cause := s.ckr.cause
      count := s.ckr.count
      supply := s.ckr.supply
      coreLost := s.ckr.coreLost
      por := false }
    noc := { rtr := tmap s.noc.rtr {} fun (x : Router) => { fence := x.fence } }
    eng := tmap s.eng {} fun (e : Eng) => { fenced := e.fenced || e.fencing }
    dram := { port := tmap s.dram.port {} fun (p : DPort) => {
      erased0 := p.erased0
      erased1 := p.erased1 } }
    pce := {
      perst := s.pce.perst
      training := if s.pce.perst then none else some s.now }
    cfg := {
      bootSel := s.cfg.bootSel
      group := s.cfg.group
      flash := s.cfg.flash
      ioPull := s.cfg.ioPull }
    sec := { s.sec with
      nonce := []
      resetAt := none }
    dbg := { fails := s.dbg.fails } }

/-- A chip reset with a cause, up to the load (R431, R436). None after a thermal shutdown, which only POR ends (R455). -/
def State.chipResetNow (s : State) (cause : Nat) : State :=
  { s.afterReset with
    ckr.cause := cause
    ckr.count := satInc s.ckr.count }

/-- A chip reset, then a load as after POR_N release. While a core supply is out of range the reset holds. -/
def State.chipReset (s : State) (cause : Nat) : State :=
  if s.thm.shutdown ∨ s.ckr.por then s
  else
    let t := s.chipResetNow cause
    if t.ckr.coreLost = 0#3 then t.boot else t

/-- CHIP_RESET_EXECUTE: the reset that is due. -/
def State.chipResetDue (s : State) : State :=
  match s.ckr.chipReset with
  | some (t, cause) => if t ≤ s.now then s.chipReset cause else s
  | none => s

def execChipResetExecute (s : State) : Out := .next s.chipResetDue

/-- LIFECYCLE_RESET (R482). -/
def State.lifecycleReset (s : State) : State :=
  match s.sec.resetAt with
  | some t => if t ≤ s.now then s.chipReset 5 else s
  | none => s

def execLifecycleReset (s : State) : Out := .next s.lifecycleReset

def execProgN (s : State) : Out := .next (s.chipReset 2)

/-- CORE_SUPPLY_LOSS: VCC_CORE, VCC_SRAM or VCC_AUX leaves its range; the chip reset holds until all are back. -/
def State.coreLoss (s : State) (i : Fin 3) : State :=
  if s.ckr.por ∨ s.thm.shutdown then s
  else
    let s := { s with
      ckr.coreLost := s.ckr.coreLost ||| BitVec.ofNat 3 (2 ^ i.val)
      ckr.supply := BitVec.ofNat 32 (setBits s.ckr.supply.toNat i.val 1 0) }
    if s.ckr.cause = 6 ∧ s.cfg.st = .clearing then s else s.chipResetNow 6

def execCoreSupplyLoss (i : Fin 3) (s : State) : Out := .next (s.coreLoss i)

/-- CORE_SUPPLY_RETURN: the held reset ends, FSRC 77 is recorded and the device loads. -/
def execCoreSupplyReturn (s : State) : Out :=
  .next (if s.ckr.coreLost = 0#3 ∨ s.ckr.por then s
    else ({ s with
      ckr.coreLost := 0#3
      ckr.supply := s.ckr.supply ||| 7#32 } : State).boot.raise 77 [0])

/-- SUPPLY_OUT_OF_RANGE (R429): `i` counts the bits of CKR_SUPPLY; the core supplies have their own event. -/
def execSupplyOutOfRange (i : Fin 18) (s : State) : Out :=
  let bit := if i.val < 6 then i.val else i.val + 2
  .next (if i.val < 3 then s
    else ({ s with ckr.supply := BitVec.ofNat 32 (setBits s.ckr.supply.toNat bit 1 0) } : State).raise 76 [0])

/-- POR (R431): nothing but eFuse is kept; the flash, the part and the pin of PERST# are outside the reset. -/
def State.powerOnReset (s : State) : State :=
  { pending := s.pending
    now := s.now
    freeCount := s.freeCount
    variant := s.variant
    speed := s.speed
    gradeE := s.gradeE
    pce := { perst := s.pce.perst }
    cfg := { flash := s.cfg.flash, ioPull := s.cfg.ioPull }
    sec := {
      lc := s.sec.lc
      undeploys := s.sec.undeploys
      serial := s.sec.serial
      digest := s.sec.digest
      devFuse := s.sec.devFuse
      svnMin := s.sec.svnMin
      settings := s.sec.settings
      fusePwr := s.sec.fusePwr } }

def execPor (s : State) : Out := .next s.powerOnReset

/-- Mailboxes 0 to 3 and 10 keep their state through a reload; long commands end BUSY with DETAIL RELOADING (R412). -/
def State.keepBoxes (s : State) : State :=
  let s := (List.finRange 33).foldl (fun (t : State) (m : Mb) => t.finish m .busy [] 8) s
  { s with
    mbx.box := s.mbx.box.filter fun (e : Nat × Mailbox) => decide (e.1 < 4 ∨ e.1 = 10)
    mbx.order := s.mbx.order.filter fun (m : Mb) => decide (m.val < 4 ∨ m.val = 10) }

/-- The load of a reload: from the primary (0) or the golden (1), or none (2). -/
def State.reloadFrom (s : State) (src : Nat) : State :=
  let s : State := { s with
    cfg.attempt := 3
    cfg.golden := decide (src = 1)
    cfg.start := s.now
    cfg.lastByte := s.now
    cfg.taken := 0
    cfg.st := .firmware }
  if src = 2 then s.toConfigOnly
  else if src = 0 ∧ s.dirOk.isNone then s.loadFail 1 0
  else s

/-- RELOAD_EXECUTE (R177, R412, R431): every unit but the belfry and the PCIe endpoint is reset, which ends every contract,
and the image loads. -/
def State.reloadExecute (s : State) : State :=
  match s.cfg.reload with
  | none => s
  | some (t, src) =>
    if s.now < t then s
    else
      let k := s.keepBoxes
      let u : State := { s.afterReset with
        pce := s.pce
        mbx := { k.mbx with
          ready := false
          reloading := true } }
      u.reloadFrom src

def execReloadExecute (s : State) : Out := .next s.reloadExecute

/-- THERMAL_SHUTDOWN (R455): every unit but the belfry and the endpoint is held in reset; the fault and thermal registers
stand, and the mailbox hardware answers. -/
def State.thermalShutdown (s : State) : State :=
  if s.thm.shutdown ∨ ¬ s.thm.sens.any (fun (e : Nat × Sensor) => e.2.valid && decide (e.2.hot = 2)) then s
  else
    ({ s.afterReset with
      pce := s.pce
      flt := { s.flt with errnChip := true }
      thm := { s.thm with shutdown := true }
      mbx := { s.mbx with
        prog := .hardware
        ready := false } } : State).raise 123 [0]

def execThermalShutdown (s : State) : Out := .next s.thermalShutdown

/-! ### PCI Express reset events (R367) -/

/-- The endpoint's reset by PERST#, hot reset or DL_Down: outstanding outbound requests are aborted, no contract is
affected. -/
def State.endpointReset (s : State) : State := ((s.abortWhere fun r => r.dst == 131).dropOwn .pcie).resetPcie

def execPerst (s : State) : Out :=
  .next (let s := { s with pce.perst := true }
    if s.man.perstChip then s.chipReset 3 else s.endpointReset)

/-- HOT_RESET and DL_Down: the link then trains again. -/
def execHotReset (s : State) : Out :=
  .next { s.endpointReset with pce.training := if s.pce.perst then none else some s.now }

def execPerstDeassert (s : State) : Out :=
  .next (if s.pce.perst then { s with
      pce.perst := false
      pce.training := some s.now }
    else s)

/-- FUNCTION_LEVEL_RESET. -/
def State.functionReset (s : State) (fn : Fin 2) : State :=
  if fn = 1 ∧ ¬ s.pce.set.pf1 then s
  else
    let s := s.dropHost fun f => f == fn
    let s := s.abortWhere fun r => r.dst == 131 && s.outFn r.addr == fn
    let s := { s with
      pce.unmasked := s.pce.unmasked.filter fun (v : Fin 2 × Nat) => v.1 != fn
      pce.msixPend := s.pce.msixPend.filter fun (v : Fin 2 × Nat) => v.1 != fn }
    s.dueTokens fun m => if fn = 0 then decide (m.val < 4) else decide (m.val = 10)

def execFunctionLevelReset (fn : Fin 2) (s : State) : Out := .next (s.functionReset fn)

end Sys2Proof.Machine
end

