-- ==== Sys2Proof/Machine/Commands.lean ====
section
/-!
DEFINITION. Machine/Commands.lean: COMMAND_COPY: the copy of a posted command and the checks made before it starts (R400, R401,
R407, R408, R411, R412, R419).
-/
namespace Sys2Proof.Machine

/-- The least LENGTH of an opcode's layout (R400), from its chapter's table, in bytes; none for an opcode listed nowhere
(R419). -/
def opLen : Nat → Option Nat
  | 0x0101 => some 0x10 | 0x0102 => some 0x10 | 0x0103 => some 0x10 | 0x0110 => some 0x24 | 0x0111 => some 0x1C
  | 0x0201 => some 0x10 | 0x0202 => some 0x18 | 0x0203 => some 0x18 | 0x0210 => some 0x20 | 0x0211 => some 0x18
  | 0x0212 => some 0x20 | 0x0220 => some 0x1C | 0x0221 => some 0x14 | 0x0222 => some 0x18 | 0x0223 => some 0x30
  | 0x0224 => some 0x14 | 0x0225 => some 0x18 | 0x0226 => some 0x14 | 0x0230 => some 0x14 | 0x0231 => some 0x10
  | 0x0240 => some 0x14 | 0x0241 => some 0x24 | 0x0242 => some 0x14
  | 0x0301 => some 0x30 | 0x0302 => some 0x18 | 0x0303 => some 0x20 | 0x0304 => some 0x14 | 0x0310 => some 0x18
  | 0x0311 => some 0x10 | 0x0320 => some 0x18 | 0x0321 => some 0x18 | 0x0330 => some 0x24
  | 0x0401 => some 0x18 | 0x0402 => some 0x14 | 0x0403 => some 0x14 | 0x0410 => some 0x14
  | 0x0501 => some 0x20 | 0x0502 => some 0x14 | 0x0503 => some 0x14 | 0x0510 => some 0x24 | 0x0511 => some 0x14
  | 0x0520 => some 0x44 | 0x0521 => some 0x14 | 0x0522 => some 0x14 | 0x0530 => some 0x20 | 0x0531 => some 0x18
  | 0x0601 => some 0x14 | 0x0602 => some 0x14 | 0x0603 => some 0x2C | 0x0604 => some 0x18 | 0x0605 => some 0x18
  | 0x0606 => some 0x18 | 0x0620 => some 0x40 | 0x0621 => some 0x14 | 0x0622 => some 0x14 | 0x0640 => some 0x18
  | 0x0641 => some 0x18 | 0x0642 => some 0x10 | 0x0643 => some 0x18
  | 0x0701 => some 0x10 | 0x0702 => some 0x18 | 0x0703 => some 0x18 | 0x0704 => some 0x18 | 0x0710 => some 0x18
  | 0x0711 => some 0x10 | 0x0720 => some 0x14 | 0x0721 => some 0x14
  | 0x0801 => some 0x1C | 0x0802 => some 0x38 | 0x0803 => some 0x2C | 0x0804 => some 0x14 | 0x0805 => some 0x14
  | 0x0806 => some 0x14
  | 0x0901 => some 0x18 | 0x0902 => some 0x1C | 0x0903 => some 0x14 | 0x0904 => some 0x18 | 0x0905 => some 0x1C
  | 0x0906 => some 0x14
  | 0x0A01 => some 0x18 | 0x0A02 => some 0x24 | 0x0A10 => some 0x34 | 0x0A11 => some 0x34 | 0x0A12 => some 0x24
  | 0x0A20 => some 0x20 | 0x0A21 => some 0x14 | 0x0A22 => some 0x14 | 0x0A23 => some 0x18 | 0x0A24 => some 0x20
  | 0x0B01 => some 0x34 | 0x0B02 => some 0x1D4 | 0x0B03 => some 0x80 | 0x0B04 => some 0x10 | 0x0B10 => some 0x30
  | 0x0B11 => some 0x40 | 0x0B12 => some 0x20 | 0x0B13 => some 0x20 | 0x0B14 => some 0x18 | 0x0B20 => some 0x10
  | 0x0B21 => some 0x10 | 0x0B22 => some 0x10 | 0x0B23 => some 0x160 | 0x0B24 => some 0x74 | 0x0B25 => some 0x74
  | 0x0B26 => some 0x74 | 0x0B27 => some 0x74 | 0x0B28 => some 0x18 | 0x0B29 => some 0x94
  | 0x0C01 => some 0x78 | 0x0C02 => some 0x14
  | _ => none

/-- The least LENGTH of a command whose layout depends on its own fields. -/
def Running.need (r : Running) (least : Nat) : Nat :=
  match r.op with
  | 0x0202 => least + 16 * r.u32 0x14
  | 0x0401 => least + 32 * r.u8 0x14 + 4 * r.u8 0x15
  | 0x0601 => if r.u8 0x10 = 1 then 0x28 else least
  | 0x0B12 => if r.u32 0x1C = 1 then least + r.u32 0x18 else least
  | _ => least

/-- Does the command's selector name one of its forms? -/
def Running.formOk (r : Running) : Bool :=
  match r.op with
  | 0x0241 => r.u32 0x20 < 2
  | 0x0601 => r.u8 0x10 = 1 || r.u8 0x10 = 2
  | 0x0604 => r.u32 0x14 = 1 || r.u32 0x14 = 2
  | 0x0B10 => r.u32 0x20 < 6
  | _ => true

/-- Does config-only serve the opcode on mailboxes 0 and 10 (R172)? -/
def opInConfigOnly (op : Nat) : Bool :=
  op / 256 = 1 || op / 256 = 0xB || op / 256 = 0xC || (0x0201 ≤ op && op ≤ 0x0203) || (0x0210 ≤ op && op ≤ 0x0212)

/-- Does the JTAG page accept the opcode (R463)? -/
def opOnJtag (op : Nat) : Bool := (0x0101 ≤ op && op ≤ 0x0103) || op / 256 = 0xB || op / 256 = 0xC

/-- Why a copied command has no effect: the status and DETAIL of its answer. -/
def State.copyRefusal (s : State) (m : Mb) (r : Running) (token : Nat) : Option (Code × Nat) :=
  if s.mbx.reloading then some (.busy, 8)
  else if token ≠ (s.box m).token.toNat then some (.notOwner, 3)
  else if m = jtagBox ∧ ¬ opOnJtag r.op then some (.wrongState, 1)
  else if s.configOnly ∧ m ≠ jtagBox ∧ ¬ opInConfigOnly r.op then some (.busy, 5)
  else match opLen r.op with
    | none => some (.wrongState, 1)
    | some n =>
      if r.length < max 16 (r.need n) ∨ 1024 < r.length ∨ r.length % 4 ≠ 0 then some (.wrongState, 2)
      else if ¬ r.formOk then some (.wrongState, 0)
      else none

/-- COMMAND_COPY: the serving program copies a posted command and starts it, or answers it (R401, R408). -/
def State.commandCopy (s : State) (m : Mb) : State :=
  let b := s.box m
  if b.st ≠ .posted ∨ b.run.isSome ∨ ¬ s.boxReady m ∨ s.flt.lockstep then s
  else
    let r := b.copied
    match s.copyRefusal m r (rdLE b.cmd 0xC 4) with
    | some (c, d) => (s.took m).respond m r c d []
    | none => s.setBox m { b with
        st := .running
        run := some r }

def execCommandCopy (m : Mb) (s : State) : Out := .next (s.commandCopy m)

end Sys2Proof.Machine
end

