-- ==== Sys2Proof/Machine/Dispatch.lean ====
section
/-!
DEFINITION. Machine/Dispatch.lean: one arm per command of spec/opcode_table.json.
-/
namespace Sys2Proof.Machine

/-- The command's effect on everything but the queue of waiting commands. -/
def exec (i : Instr) (s : State) : Host.Outcome State Fault Refusal :=
  match i with
  | .inventory m => Sys2Proof.Machine.execInventory m s
  | .health m => Sys2Proof.Machine.execHealth m s
  | .echo m => Sys2Proof.Machine.execEcho m s
  | .fwUpdate m => Sys2Proof.Machine.execFwUpdate m s
  | .fwLoad m => Sys2Proof.Machine.execFwLoad m s
  | .cfgQuery m => Sys2Proof.Machine.execCfgQuery m s
  | .cfgHostLoad m => Sys2Proof.Machine.execCfgHostLoad m s
  | .cfgReload m => Sys2Proof.Machine.execCfgReload m s
  | .reloadExecute => Sys2Proof.Machine.execReloadExecute s
  | .flashRead m => Sys2Proof.Machine.execFlashRead m s
  | .flashErase m => Sys2Proof.Machine.execFlashErase m s
  | .flashWrite m => Sys2Proof.Machine.execFlashWrite m s
  | .ovlStore m => Sys2Proof.Machine.execOvlStore m s
  | .ovlDrop m => Sys2Proof.Machine.execOvlDrop m s
  | .ovlStage m => Sys2Proof.Machine.execOvlStage m s
  | .ovlArmSwap m => Sys2Proof.Machine.execOvlArmSwap m s
  | .ovlDisarm m => Sys2Proof.Machine.execOvlDisarm m s
  | .ovlLoadQuiesced m => Sys2Proof.Machine.execOvlLoadQuiesced m s
  | .ovlQuery m => Sys2Proof.Machine.execOvlQuery m s
  | .cfgScrubConfig m => Sys2Proof.Machine.execCfgScrubConfig m s
  | .cfgScrubQuery m => Sys2Proof.Machine.execCfgScrubQuery m s
  | .engLoad m => Sys2Proof.Machine.execEngLoad m s
  | .engControlStart m => Sys2Proof.Machine.execEngControlStart m s
  | .engControlStop m => Sys2Proof.Machine.execEngControlStop m s
  | .engQuery m => Sys2Proof.Machine.execEngQuery m s
  | .axisConfig m => Sys2Proof.Machine.execAxisConfig m s
  | .axisEnable m => Sys2Proof.Machine.execAxisEnable m s
  | .axisDisable m => Sys2Proof.Machine.execAxisDisable m s
  | .axisReset m => Sys2Proof.Machine.execAxisReset m s
  | .axisQuery m => Sys2Proof.Machine.execAxisQuery m s
  | .strikeAlloc m => Sys2Proof.Machine.execStrikeAlloc m s
  | .strikeFree m => Sys2Proof.Machine.execStrikeFree m s
  | .pinConfig m => Sys2Proof.Machine.execPinConfig m s
  | .captureConfig m => Sys2Proof.Machine.execCaptureConfig m s
  | .axisLockPll m => Sys2Proof.Machine.execAxisLockPll m s
  | .contractOpen m => Sys2Proof.Machine.execContractOpen m s
  | .contractClose m => Sys2Proof.Machine.execContractClose m s
  | .contractQuery m => Sys2Proof.Machine.execContractQuery m s
  | .nocRoute m => Sys2Proof.Machine.execNocRoute m s
  | .queueAlloc m => Sys2Proof.Machine.execQueueAlloc m s
  | .queueFree m => Sys2Proof.Machine.execQueueFree m s
  | .queueQuery m => Sys2Proof.Machine.execQueueQuery m s
  | .groupCreate m => Sys2Proof.Machine.execGroupCreate m s
  | .groupDelete m => Sys2Proof.Machine.execGroupDelete m s
  | .contextAlloc m => Sys2Proof.Machine.execContextAlloc m s
  | .contextFree m => Sys2Proof.Machine.execContextFree m s
  | .contextQuery m => Sys2Proof.Machine.execContextQuery m s
  | .observeMode m => Sys2Proof.Machine.execObserveMode m s
  | .statsRead m => Sys2Proof.Machine.execStatsRead m s
  | .dramRegionCreate m => Sys2Proof.Machine.execDramRegionCreate m s
  | .dramRegionDelete m => Sys2Proof.Machine.execDramRegionDelete m s
  | .dramQuery m => Sys2Proof.Machine.execDramQuery m s
  | .dramMap m => Sys2Proof.Machine.execDramMap m s
  | .dramSelfrefEnter m => Sys2Proof.Machine.execDramSelfrefEnter m s
  | .dramSelfrefExit m => Sys2Proof.Machine.execDramSelfrefExit m s
  | .dramPortReset m => Sys2Proof.Machine.execDramPortReset m s
  | .freezeRecord m => Sys2Proof.Machine.execFreezeRecord m s
  | .mxeRangeCreate m => Sys2Proof.Machine.execMxeRangeCreate m s
  | .mxeRangeDelete m => Sys2Proof.Machine.execMxeRangeDelete m s
  | .mxeQuery m => Sys2Proof.Machine.execMxeQuery m s
  | .vaultAlloc m => Sys2Proof.Machine.execVaultAlloc m s
  | .vaultFree m => Sys2Proof.Machine.execVaultFree m s
  | .vaultQuery m => Sys2Proof.Machine.execVaultQuery m s
  | .vaultConfig m => Sys2Proof.Machine.execVaultConfig m s
  | .clockQuery m => Sys2Proof.Machine.execClockQuery m s
  | .clockSwitch m => Sys2Proof.Machine.execClockSwitch m s
  | .clockMonitor m => Sys2Proof.Machine.execClockMonitor m s
  | .clockGate m => Sys2Proof.Machine.execClockGate m s
  | .powerDomainOff m => Sys2Proof.Machine.execPowerDomainOff m s
  | .powerDomainOn m => Sys2Proof.Machine.execPowerDomainOn m s
  | .powerQuery m => Sys2Proof.Machine.execPowerQuery m s
  | .blockReset m => Sys2Proof.Machine.execBlockReset m s
  | .chipReset m => Sys2Proof.Machine.execChipReset m s
  | .chipResetExecute => Sys2Proof.Machine.execChipResetExecute s
  | .ptpConfig m => Sys2Proof.Machine.execPtpConfig m s
  | .ptpStep m => Sys2Proof.Machine.execPtpStep m s
  | .ptpSetRate m => Sys2Proof.Machine.execPtpSetRate m s
  | .ptpHoldover m => Sys2Proof.Machine.execPtpHoldover m s
  | .ptpResetTime m => Sys2Proof.Machine.execPtpResetTime m s
  | .ptpQuery m => Sys2Proof.Machine.execPtpQuery m s
  | .faultConfig m => Sys2Proof.Machine.execFaultConfig m s
  | .faultNotify m => Sys2Proof.Machine.execFaultNotify m s
  | .faultAck m => Sys2Proof.Machine.execFaultAck m s
  | .faultHistory m => Sys2Proof.Machine.execFaultHistory m s
  | .faultInject m => Sys2Proof.Machine.execFaultInject m s
  | .thermalConfig m => Sys2Proof.Machine.execThermalConfig m s
  | .pcieAperture m => Sys2Proof.Machine.execPcieAperture m s
  | .pcieOutwin m => Sys2Proof.Machine.execPcieOutwin m s
  | .laneConfig m => Sys2Proof.Machine.execLaneConfig m s
  | .jesdConfig m => Sys2Proof.Machine.execJesdConfig m s
  | .ethConfig m => Sys2Proof.Machine.execEthConfig m s
  | .ringJoin m => Sys2Proof.Machine.execRingJoin m s
  | .ringLeave m => Sys2Proof.Machine.execRingLeave m s
  | .ringQuery m => Sys2Proof.Machine.execRingQuery m s
  | .ringAxisExport m => Sys2Proof.Machine.execRingAxisExport m s
  | .ringWindow m => Sys2Proof.Machine.execRingWindow m s
  | .dbgAuth m => Sys2Proof.Machine.execDbgAuth m s
  | .dbgAuthBegin m => Sys2Proof.Machine.execDbgAuthBegin m s
  | .dbgAuthFinish m => Sys2Proof.Machine.execDbgAuthFinish m s
  | .dbgEnd m => Sys2Proof.Machine.execDbgEnd m s
  | .dbgEngHalt m => Sys2Proof.Machine.execDbgEngHalt m s
  | .dbgEngResume m => Sys2Proof.Machine.execDbgEngResume m s
  | .dbgEngStep m => Sys2Proof.Machine.execDbgEngStep m s
  | .dbgEngReadReg m => Sys2Proof.Machine.execDbgEngReadReg m s
  | .dbgEngWriteReg m => Sys2Proof.Machine.execDbgEngWriteReg m s
  | .dbgEngSetPc m => Sys2Proof.Machine.execDbgEngSetPc m s
  | .dbgBreak m => Sys2Proof.Machine.execDbgBreak m s
  | .dbgMem m => Sys2Proof.Machine.execDbgMem m s
  | .dbgFreeze m => Sys2Proof.Machine.execDbgFreeze m s
  | .dbgThaw m => Sys2Proof.Machine.execDbgThaw m s
  | .dbgReadback m => Sys2Proof.Machine.execDbgReadback m s
  | .lcQuery m => Sys2Proof.Machine.execLcQuery m s
  | .lcNonce m => Sys2Proof.Machine.execLcNonce m s
  | .lcIdentity m => Sys2Proof.Machine.execLcIdentity m s
  | .lcTakeOwnership m => Sys2Proof.Machine.execLcTakeOwnership m s
  | .lcDeploy m => Sys2Proof.Machine.execLcDeploy m s
  | .lcUndeploy m => Sys2Proof.Machine.execLcUndeploy m s
  | .lcScrap m => Sys2Proof.Machine.execLcScrap m s
  | .svnRaise m => Sys2Proof.Machine.execSvnRaise m s
  | .tamperConfig m => Sys2Proof.Machine.execTamperConfig m s
  | .lcSettingsFuse m => Sys2Proof.Machine.execLcSettingsFuse m s
  | .returnPrepare m => Sys2Proof.Machine.execReturnPrepare m s
  | .returnRead m => Sys2Proof.Machine.execReturnRead m s
  | .lifecycleReset => Sys2Proof.Machine.execLifecycleReset s
  | .mbxDoorbell who m v => Sys2Proof.Machine.execMbxDoorbell who m v s
  | .commandCopy m => Sys2Proof.Machine.execCommandCopy m s
  | .notReadyAnswer m => Sys2Proof.Machine.execNotReadyAnswer m s
  | .interimResponse m permille remain work => Sys2Proof.Machine.execInterimResponse m permille remain work s
  | .mbxRpop who m => Sys2Proof.Machine.execMbxRpop who m s
  | .sessionTokenDraw m => Sys2Proof.Machine.execSessionTokenDraw m s
  | .doorbellPush who q data => Sys2Proof.Machine.execDoorbellPush who q data s
  | .consume who q n => Sys2Proof.Machine.execConsume who q n s
  | .popWindowPop who o => Sys2Proof.Machine.execPopWindowPop who o s
  | .ptuTsqPop who n => Sys2Proof.Machine.execPtuTsqPop who n s
  | .ptuTsqStatRead who n lostNow => Sys2Proof.Machine.execPtuTsqStatRead who n lostNow s
  | .stkLateRead who o => Sys2Proof.Machine.execStkLateRead who o s
  | .stkDelayedRead who o => Sys2Proof.Machine.execStkDelayedRead who o s
  | .stkDropRead who o => Sys2Proof.Machine.execStkDropRead who o s
  | .qcuHostdropRead who => Sys2Proof.Machine.execQcuHostdropRead who s
  | .qcuDbdropRead who o => Sys2Proof.Machine.execQcuDbdropRead who o s
  | .tduGrpMissRead who n => Sys2Proof.Machine.execTduGrpMissRead who n s
  | .kitLockRead who k => Sys2Proof.Machine.execKitLockRead who k s
  | .pceDropRead who => Sys2Proof.Machine.execPceDropRead who s
  | .fltPendWrite who o v => Sys2Proof.Machine.execFltPendWrite who o v s
  | .fpllFlagClear who n v => Sys2Proof.Machine.execFpllFlagClear who n v s
  | .engSwiSet who g v => Sys2Proof.Machine.execEngSwiSet who g v s
  | .dbgRunHalt who g => Sys2Proof.Machine.execDbgRunHalt who g s
  | .dbgRunResume who g => Sys2Proof.Machine.execDbgRunResume who g s
  | .dbgRunStep who g => Sys2Proof.Machine.execDbgRunStep who g s
  | .strikeStageWrite who slot off wide v => Sys2Proof.Machine.execStrikeStageWrite who slot off wide v s
  | .strikeEntryCommit who slot wide v => Sys2Proof.Machine.execStrikeEntryCommit who slot wide v s
  | .registerWrite who off wide v => Sys2Proof.Machine.execRegisterWrite who off wide v s
  | .debugRead k addr n => Sys2Proof.Machine.execDebugRead k addr n s
  | .extest cells => Sys2Proof.Machine.execExtest cells s
  | .samplePreload cells => Sys2Proof.Machine.execSamplePreload cells s
  | .idcode => Sys2Proof.Machine.execIdcode s
  | .clamp => Sys2Proof.Machine.execClamp s
  | .highz => Sys2Proof.Machine.execHighz s
  | .extestPulse cells => Sys2Proof.Machine.execExtestPulse cells s
  | .extestTrain cells => Sys2Proof.Machine.execExtestTrain cells s
  | .bypass => Sys2Proof.Machine.execBypass s
  | .dbgPage off write v => Sys2Proof.Machine.execDbgPage off write v s
  | .nop g m1 m2 => Sys2Proof.Machine.execNop g m1 m2 s
  | .dmpy g acc sel m1 m2 => Sys2Proof.Machine.execDmpy g acc sel m1 m2 s
  | .dmac g acc sel m1 m2 => Sys2Proof.Machine.execDmac g acc sel m1 m2 s
  | .dmsa g acc sel m1 m2 => Sys2Proof.Machine.execDmsa g acc sel m1 m2 s
  | .mpy2 g acc sel m1 m2 => Sys2Proof.Machine.execMpy2 g acc sel m1 m2 s
  | .mac2 g acc sel m1 m2 => Sys2Proof.Machine.execMac2 g acc sel m1 m2 s
  | .mas2 g acc sel m1 m2 => Sys2Proof.Machine.execMas2 g acc sel m1 m2 s
  | .mpy g acc sel m1 m2 => Sys2Proof.Machine.execMpy g acc sel m1 m2 s
  | .mac g acc sel m1 m2 => Sys2Proof.Machine.execMac g acc sel m1 m2 s
  | .macn g acc sel m1 m2 => Sys2Proof.Machine.execMacn g acc sel m1 m2 s
  | .aluAdd g acc sel m1 m2 => Sys2Proof.Machine.execAluAdd g acc sel m1 m2 s
  | .aluSub g acc sel m1 m2 => Sys2Proof.Machine.execAluSub g acc sel m1 m2 s
  | .aluCmp g acc sel m1 m2 => Sys2Proof.Machine.execAluCmp g acc sel m1 m2 s
  | .copy g acc sel m1 m2 => Sys2Proof.Machine.execCopy g acc sel m1 m2 s
  | .aluMax g acc sel m1 m2 => Sys2Proof.Machine.execAluMax g acc sel m1 m2 s
  | .clr g acc m1 m2 => Sys2Proof.Machine.execClr g acc m1 m2 s
  | .rnd g acc m1 m2 => Sys2Proof.Machine.execRnd g acc m1 m2 s
  | .abs g acc m1 m2 => Sys2Proof.Machine.execAbs g acc m1 m2 s
  | .neg g acc m1 m2 => Sys2Proof.Machine.execNeg g acc m1 m2 s
  | .asr1 g acc m1 m2 => Sys2Proof.Machine.execAsr1 g acc m1 m2 s
  | .asl1 g acc m1 m2 => Sys2Proof.Machine.execAsl1 g acc m1 m2 s
  | .asr8 g acc m1 m2 => Sys2Proof.Machine.execAsr8 g acc m1 m2 s
  | .asl8 g acc m1 m2 => Sys2Proof.Machine.execAsl8 g acc m1 m2 s
  | .ldi g r imm => Sys2Proof.Machine.execLdi g r imm s
  | .ldih g r imm => Sys2Proof.Machine.execLdih g r imm s
  | .movec g d src => Sys2Proof.Machine.execMovec g d src s
  | .movem g r store y a => Sys2Proof.Machine.execMovem g r store y a s
  | .daluAdd g dd src => Sys2Proof.Machine.execDaluAdd g dd src s
  | .daluSub g dd src => Sys2Proof.Machine.execDaluSub g dd src s
  | .daluCmp g dd src => Sys2Proof.Machine.execDaluCmp g dd src s
  | .daluAnd g dd src => Sys2Proof.Machine.execDaluAnd g dd src s
  | .daluOr g dd src => Sys2Proof.Machine.execDaluOr g dd src s
  | .daluXor g dd src => Sys2Proof.Machine.execDaluXor g dd src s
  | .daluAsl g dd src => Sys2Proof.Machine.execDaluAsl g dd src s
  | .daluAsr g dd src => Sys2Proof.Machine.execDaluAsr g dd src s
  | .daluLsr g dd src => Sys2Proof.Machine.execDaluLsr g dd src s
  | .daluMin g dd src => Sys2Proof.Machine.execDaluMin g dd src s
  | .daluMax g dd src => Sys2Proof.Machine.execDaluMax g dd src s
  | .tst g dd src => Sys2Proof.Machine.execTst g dd src s
  | .jcc g cond target => Sys2Proof.Machine.execJcc g cond target s
  | .jsr g dn target => Sys2Proof.Machine.execJsr g dn target s
  | .jmpDn g dn => Sys2Proof.Machine.execJmpDn g dn s
  | .rep g last => Sys2Proof.Machine.execRep g last s
  | .repi g n last => Sys2Proof.Machine.execRepi g n last s
  | .endl g => Sys2Proof.Machine.execEndl g s
  | .take g => Sys2Proof.Machine.execTake g s
  | .done g nc status => Sys2Proof.Machine.execDone g nc status s
  | .doneCompletion g => Sys2Proof.Machine.execDoneCompletion g s
  | .rti g => Sys2Proof.Machine.execRti g s
  | .bkpt g => Sys2Proof.Machine.execBkpt g s
  | .stset g mask => Sys2Proof.Machine.execStset g mask s
  | .stclr g mask => Sys2Proof.Machine.execStclr g mask s
  | .kdma g c d => Sys2Proof.Machine.execKdma g c d s
  | .kdmaw g c => Sys2Proof.Machine.execKdmaw g c s
  | .pushq g dq size n inc => Sys2Proof.Machine.execPushq g dq size n inc s
  | .popq g dq size n inc => Sys2Proof.Machine.execPopq g dq size n inc s
  | .lock g vault da n => Sys2Proof.Machine.execLock g vault da n s
  | .unlock g store n => Sys2Proof.Machine.execUnlock g store n s
  | .illegalInstruction g => Sys2Proof.Machine.execIllegalInstruction g s
  | .interruptAccept g v => Sys2Proof.Machine.execInterruptAccept g v s
  | .tokenHandover n => Sys2Proof.Machine.execTokenHandover n s
  | .taskStart g => Sys2Proof.Machine.execTaskStart g s
  | .argFault g => Sys2Proof.Machine.execArgFault g s
  | .taskWatchdogExpiry g => Sys2Proof.Machine.execTaskWatchdogExpiry g s
  | .doubleFault g => Sys2Proof.Machine.execDoubleFault g s
  | .kdmaDescriptorComplete g c => Sys2Proof.Machine.execKdmaDescriptorComplete g c s
  | .lockBreak g => Sys2Proof.Machine.execLockBreak g s
  | .bankLockRelease g => Sys2Proof.Machine.execBankLockRelease g s
  | .engineRemap g mem addr => Sys2Proof.Machine.execEngineRemap g mem addr s
  | .eccWriteback g mem addr => Sys2Proof.Machine.execEccWriteback g mem addr s
  | .axisSourceEvent n x => Sys2Proof.Machine.execAxisSourceEvent n x s
  | .axisStall n => Sys2Proof.Machine.execAxisStall n s
  | .ringDiscontinuity n => Sys2Proof.Machine.execRingDiscontinuity n s
  | .strikeCrossing slot => Sys2Proof.Machine.execStrikeCrossing slot s
  | .strikeCommitAhead slot => Sys2Proof.Machine.execStrikeCommitAhead slot s
  | .pinEdge p => Sys2Proof.Machine.execPinEdge p s
  | .flinePulse sec line => Sys2Proof.Machine.execFlinePulse sec line s
  | .overflowMove slot => Sys2Proof.Machine.execOverflowMove slot s
  | .holdingBufferPush o => Sys2Proof.Machine.execHoldingBufferPush o s
  | .captureEdge c falling t => Sys2Proof.Machine.execCaptureEdge c falling t s
  | .captureRecordPush c => Sys2Proof.Machine.execCaptureRecordPush c s
  | .pllAxisRealign n => Sys2Proof.Machine.execPllAxisRealign n s
  | .txTimestamp n => Sys2Proof.Machine.execTxTimestamp n s
  | .holdTimeout n => Sys2Proof.Machine.execHoldTimeout n s
  | .slewEnd n => Sys2Proof.Machine.execSlewEnd n s
  | .buslineContention seg => Sys2Proof.Machine.execBuslineContention seg s
  | .fpllLossOfLock n => Sys2Proof.Machine.execFpllLossOfLock n s
  | .fpllRelock n => Sys2Proof.Machine.execFpllRelock n s
  | .fabricInitiatorRequest sec flow write addr n data => Sys2Proof.Machine.execFabricInitiatorRequest sec flow write addr n data s
  | .fabricQueuePush sec q data => Sys2Proof.Machine.execFabricQueuePush sec q data s
  | .fabricQueuePop sec q => Sys2Proof.Machine.execFabricQueuePop sec q s
  | .mailboxChannelAccess sec off write v => Sys2Proof.Machine.execMailboxChannelAccess sec off write v s
  | .targetTimeout sec id => Sys2Proof.Machine.execTargetTimeout sec id s
  | .faultLine sec => Sys2Proof.Machine.execFaultLine sec s
  | .heartbeatExpiry k => Sys2Proof.Machine.execHeartbeatExpiry k s
  | .vaultSideChannelAccess who off write be data collides => Sys2Proof.Machine.execVaultSideChannelAccess who off write be data collides s
  | .gselRequest n sel => Sys2Proof.Machine.execGselRequest n sel s
  | .por => Sys2Proof.Machine.execPor s
  | .porRelease bootSel group => Sys2Proof.Machine.execPorRelease bootSel group s
  | .progN => Sys2Proof.Machine.execProgN s
  | .coreSupplyLoss k => Sys2Proof.Machine.execCoreSupplyLoss k s
  | .firmwareCheck image => Sys2Proof.Machine.execFirmwareCheck image s
  | .streamHeader hdr => Sys2Proof.Machine.execStreamHeader hdr s
  | .segment seg => Sys2Proof.Machine.execSegment seg s
  | .sourceSilent => Sys2Proof.Machine.execSourceSilent s
  | .cfgDoneHigh => Sys2Proof.Machine.execCfgDoneHigh s
  | .doneWaitExpiry => Sys2Proof.Machine.execDoneWaitExpiry s
  | .waitLock => Sys2Proof.Machine.execWaitLock s
  | .lockTimeout => Sys2Proof.Machine.execLockTimeout s
  | .releaseGsr => Sys2Proof.Machine.execReleaseGsr s
  | .enableWrites => Sys2Proof.Machine.execEnableWrites s
  | .releaseIo => Sys2Proof.Machine.execReleaseIo s
  | .atmonReady => Sys2Proof.Machine.execAtmonReady s
  | .imageStoreCreate => Sys2Proof.Machine.execImageStoreCreate s
  | .frameCopyFill frame => Sys2Proof.Machine.execFrameCopyFill frame s
  | .swapEdge r => Sys2Proof.Machine.execSwapEdge r s
  | .regionUsable r => Sys2Proof.Machine.execRegionUsable r s
  | .swapRecordUpdate r => Sys2Proof.Machine.execSwapRecordUpdate r s
  | .scrubFrameRead flips => Sys2Proof.Machine.execScrubFrameRead flips s
  | .frameRepair frame repaired => Sys2Proof.Machine.execFrameRepair frame repaired s
  | .scrubLapEnd => Sys2Proof.Machine.execScrubLapEnd s
  | .tokenRelease q => Sys2Proof.Machine.execTokenRelease q s
  | .deadlineMiss tok => Sys2Proof.Machine.execDeadlineMiss tok s
  | .queuePushAccept who q data => Sys2Proof.Machine.execQueuePushAccept who q data s
  | .heldPushRetry q => Sys2Proof.Machine.execHeldPushRetry q s
  | .hostPushDiscard => Sys2Proof.Machine.execHostPushDiscard s
  | .routerHeader n dir id f => Sys2Proof.Machine.execRouterHeader n dir id f s
  | .nocRequest id ce ue => Sys2Proof.Machine.execNocRequest id ce ue s
  | .nocResponse id ce ue => Sys2Proof.Machine.execNocResponse id ce ue s
  | .fence id => Sys2Proof.Machine.execFence id s
  | .flowRelease id => Sys2Proof.Machine.execFlowRelease id s
  | .routingChange routes => Sys2Proof.Machine.execRoutingChange routes s
  | .epochFlip => Sys2Proof.Machine.execEpochFlip s
  | .epochDrainEnd ns => Sys2Proof.Machine.execEpochDrainEnd ns s
  | .epochDrainTimeout => Sys2Proof.Machine.execEpochDrainTimeout s
  | .linkFence n dir routes => Sys2Proof.Machine.execLinkFence n dir routes s
  | .linkFailure n dir => Sys2Proof.Machine.execLinkFailure n dir s
  | .blockResetAssert b => Sys2Proof.Machine.execBlockResetAssert b s
  | .blockResetRelease b => Sys2Proof.Machine.execBlockResetRelease b s
  | .contractRevalidate c => Sys2Proof.Machine.execContractRevalidate c s
  | .niDrained n => Sys2Proof.Machine.execNiDrained n s
  | .drainTimeout n => Sys2Proof.Machine.execDrainTimeout n s
  | .vaultAccess id f => Sys2Proof.Machine.execVaultAccess id f s
  | .secureWipe => Sys2Proof.Machine.execSecureWipe s
  | .secureWipeComplete => Sys2Proof.Machine.execSecureWipeComplete s
  | .vaultScrubRead b row f => Sys2Proof.Machine.execVaultScrubRead b row f s
  | .vaultScrubWriteback b row => Sys2Proof.Machine.execVaultScrubWriteback b row s
  | .bankStarved b => Sys2Proof.Machine.execBankStarved b s
  | .vaultRemap w => Sys2Proof.Machine.execVaultRemap w s
  | .vaultPageCleared p => Sys2Proof.Machine.execVaultPageCleared p s
  | .dramRequest id f => Sys2Proof.Machine.execDramRequest id f s
  | .refreshInterval k => Sys2Proof.Machine.execRefreshInterval k s
  | .refsb k rank bank => Sys2Proof.Machine.execRefsb k rank bank s
  | .mr4Reading k mr4 => Sys2Proof.Machine.execMr4Reading k mr4 s
  | .deviceErase k rank dev => Sys2Proof.Machine.execDeviceErase k rank dev s
  | .retrainingSlot k drift => Sys2Proof.Machine.execRetrainingSlot k drift s
  | .patrolRead k line f => Sys2Proof.Machine.execPatrolRead k line f s
  | .patrolLate k => Sys2Proof.Machine.execPatrolLate k s
  | .portTraining k res => Sys2Proof.Machine.execPortTraining k res s
  | .portFreeze k cause line syndrome => Sys2Proof.Machine.execPortFreeze k cause line syndrome s
  | .alertN k => Sys2Proof.Machine.execAlertN k s
  | .regionClearComplete r => Sys2Proof.Machine.execRegionClearComplete r s
  | .portResetComplete k ok => Sys2Proof.Machine.execPortResetComplete k ok s
  | .selfrefWake k => Sys2Proof.Machine.execSelfrefWake k s
  | .mxeWrite id f => Sys2Proof.Machine.execMxeWrite id f s
  | .mxeRead id f => Sys2Proof.Machine.execMxeRead id f s
  | .pageReencrypt r page => Sys2Proof.Machine.execPageReencrypt r page s
  | .counterCacheWriteback line => Sys2Proof.Machine.execCounterCacheWriteback line s
  | .counterCacheError line r f => Sys2Proof.Machine.execCounterCacheError line r f s
  | .hostRequest fn bar off write n data => Sys2Proof.Machine.execHostRequest fn bar off write n data s
  | .outboundRequest id reply => Sys2Proof.Machine.execOutboundRequest id reply s
  | .completionTimeout id => Sys2Proof.Machine.execCompletionTimeout id s
  | .perst => Sys2Proof.Machine.execPerst s
  | .hotReset => Sys2Proof.Machine.execHotReset s
  | .functionLevelReset fn => Sys2Proof.Machine.execFunctionLevelReset fn s
  | .jesdAlignmentLost n => Sys2Proof.Machine.execJesdAlignmentLost n s
  | .jesdRealign n => Sys2Proof.Machine.execJesdRealign n s
  | .ethTransmit n => Sys2Proof.Machine.execEthTransmit n s
  | .ethReceive n frame fcsError => Sys2Proof.Machine.execEthReceive n frame fcsError s
  | .ringCellReceive p cell => Sys2Proof.Machine.execRingCellReceive p cell s
  | .ringNak p seq => Sys2Proof.Machine.execRingNak p seq s
  | .ringAckTimeout p => Sys2Proof.Machine.execRingAckTimeout p s
  | .segmentHeal p trained => Sys2Proof.Machine.execSegmentHeal p trained s
  | .bypassClose p => Sys2Proof.Machine.execBypassClose p s
  | .quietSlot res => Sys2Proof.Machine.execQuietSlot res s
  | .joinTimeout p res => Sys2Proof.Machine.execJoinTimeout p res s
  | .ringMeasure p lat => Sys2Proof.Machine.execRingMeasure p lat s
  | .axisCellSend n => Sys2Proof.Machine.execAxisCellSend n s
  | .axisCellReceive p src c => Sys2Proof.Machine.execAxisCellReceive p src c s
  | .strikeCellLaunch slot => Sys2Proof.Machine.execStrikeCellLaunch slot s
  | .strikeCellReceive p src slotOff remain => Sys2Proof.Machine.execStrikeCellReceive p src slotOff remain s
  | .ringPkt p src pkt => Sys2Proof.Machine.execRingPkt p src pkt s
  | .referenceSelect chassisOk xoOk => Sys2Proof.Machine.execReferenceSelect chassisOk xoOk s
  | .monitorWindow k edges ppm => Sys2Proof.Machine.execMonitorWindow k edges ppm s
  | .ioscCrossCheck ppm => Sys2Proof.Machine.execIoscCrossCheck ppm s
  | .clockFailover k => Sys2Proof.Machine.execClockFailover k s
  | .fallbackTimeout d => Sys2Proof.Machine.execFallbackTimeout d s
  | .clockReturn k => Sys2Proof.Machine.execClockReturn k s
  | .sensorReading k t stuck => Sys2Proof.Machine.execSensorReading k t stuck s
  | .thermalShutdown => Sys2Proof.Machine.execThermalShutdown s
  | .faultRaise => Sys2Proof.Machine.execFaultRaise s
  | .lockstepDisagreement => Sys2Proof.Machine.execLockstepDisagreement s
  | .lockstepRecovery checkpointOk => Sys2Proof.Machine.execLockstepRecovery checkpointOk s
  | .tamperTrip k => Sys2Proof.Machine.execTamperTrip k s
  | .authFinishTimeout m => Sys2Proof.Machine.execAuthFinishTimeout m s
  | .nonceExpiry m => Sys2Proof.Machine.execNonceExpiry m s
  | .axisClockEdge refEdge => Sys2Proof.Machine.execAxisClockEdge refEdge s
  | .fabricClockEdge sec r near ext => Sys2Proof.Machine.execFabricClockEdge sec r near ext s
  | .targetResponse sec id status data => Sys2Proof.Machine.execTargetResponse sec id status data s
  | .stagingComplete r read => Sys2Proof.Machine.execStagingComplete r read s
  | .quiesceEnd r read => Sys2Proof.Machine.execQuiesceEnd r read s
  | .longCommandFinalResponse m => Sys2Proof.Machine.execLongCommandFinalResponse m s
  | .hostLoadGap => Sys2Proof.Machine.execHostLoadGap s
  | .jesdConfigTimeout n => Sys2Proof.Machine.execJesdConfigTimeout n s
  | .perstDeassert => Sys2Proof.Machine.execPerstDeassert s
  | .configurationRequest fn off write v => Sys2Proof.Machine.execConfigurationRequest fn off write v s
  | .ethLinkDown n => Sys2Proof.Machine.execEthLinkDown n s
  | .ethLinkUp n => Sys2Proof.Machine.execEthLinkUp n s
  | .laneRxLock k locked => Sys2Proof.Machine.execLaneRxLock k locked s
  | .supplyOutOfRange k => Sys2Proof.Machine.execSupplyOutOfRange k s
  | .coreSupplyReturn => Sys2Proof.Machine.execCoreSupplyReturn s
  | .errNHoldExpiry => Sys2Proof.Machine.execErrNHoldExpiry s
  | .delayedFiring o => Sys2Proof.Machine.execDelayedFiring o s
  | .tapReset => Sys2Proof.Machine.execTapReset s

end Sys2Proof.Machine
end

