-- ==== Sys2Proof/Safety.lean ====
section
/-!
DEFINITION. Safety.lean: the terms that statements use: what a record of data, a notification or a raised fault leaves alone,
what the fuses hold and how it may change, and the canonical form of the memories.
-/
namespace Sys2Proof.Machine

/-- The units that storing data, pushing queue entries, sending messages and raising faults leave alone. -/
structure Quiet where
  pending : List Instr
  now : Nat
  readData : List Byte
  variant : Variant
  speed : Nat
  gradeE : Bool
  man : Manifest
  thm : Thm
  ckr : Ckr
  mbx : Mbx
  axu : Axu
  stk : Stk
  ptu : Tab Ptu
  eng : Tab Eng
  kit : Tab Kit
  fab : Fab
  dbg : Dbg
  ser : Ser
  cfg : Cfg
  ovl : Ovl
  sec : Sec

/-- The part of a state that those operations leave alone. -/
def State.quiet (s : State) : Quiet :=
  { pending := s.pending, now := s.now, readData := s.readData, variant := s.variant, speed := s.speed, gradeE := s.gradeE,
    man := s.man, thm := s.thm, ckr := s.ckr, mbx := s.mbx, axu := s.axu, stk := s.stk, ptu := s.ptu, eng := s.eng, kit := s.kit,
    fab := s.fab, dbg := s.dbg, ser := s.ser, cfg := s.cfg, ovl := s.ovl, sec := s.sec }

/-- What is fused into the part: its identity, its life-cycle and its keys (R4, R479, R505). -/
structure Fuses where
  variant : Variant
  speed : Nat
  gradeE : Bool
  serial : W64
  lc : LifeCycle
  undeploys : BitVec 4
  digest : Option (List Byte)
  devFuse : Option (List Byte)
  svnMin : BitVec 6
  settings : Option (List Byte)
  deriving DecidableEq, Repr

/-- The fuses of a state. -/
def State.fuses (s : State) : Fuses :=
  { variant := s.variant, speed := s.speed, gradeE := s.gradeE, serial := s.sec.serial, lc := s.sec.lc,
    undeploys := s.sec.undeploys, digest := s.sec.digest, devFuse := s.sec.devFuse, svnMin := s.sec.svnMin,
    settings := s.sec.settings }

/-- The fuses `b` come from the fuses `a` by what R479 and R480 allow: the identity and settings once fused stay, the SVN minimum
only rises, and the life-cycle state stays with its keys and its count or takes one transition of the table of R480. -/
def Fuses.follow (a b : Fuses) : Prop :=
  b.variant = a.variant ∧ b.speed = a.speed ∧ b.gradeE = a.gradeE ∧ b.serial = a.serial ∧
  a.svnMin ≤ b.svnMin ∧ (a.settings ≠ none → b.settings = a.settings) ∧
  ((b.lc = a.lc ∧ b.undeploys = a.undeploys ∧ b.digest = a.digest ∧ b.devFuse = a.devFuse) ∨
   (a.lc = .blank ∧ b.lc = .owned ∧ b.undeploys = a.undeploys ∧ b.digest ≠ none ∧ b.devFuse ≠ none) ∨
   (a.lc = .owned ∧ b.lc = .deployed ∧ b.undeploys = a.undeploys ∧ b.digest = a.digest ∧ b.devFuse = a.devFuse) ∨
   (a.lc = .deployed ∧ b.lc = .owned ∧ a.undeploys ≠ 15#4 ∧ b.undeploys = a.undeploys + 1 ∧ b.digest = a.digest ∧
     b.devFuse = a.devFuse) ∨
   ((a.lc = .blank ∨ a.lc = .owned ∨ a.lc = .deployed) ∧ b.lc = .returned ∧ b.undeploys = a.undeploys ∧ b.digest = none ∧
     b.devFuse = none) ∨
   (a.lc ≠ .scrapped ∧ b.lc = .scrapped ∧ b.undeploys = a.undeploys ∧ b.digest = none ∧ b.devFuse = none))

/-- The vault, the DRAM regions, the strike slots and the flash are in canonical form: addresses rising, nothing listed that reads as an unlisted
address does. -/
def Memory.wf (s : State) : Bool :=
  memWf s.vlt.mem && tabWf WordState.unwritten s.vlt.word && memWf s.dram.mem &&
    tabWf ({} : Strike) s.stk.entry && tabWf 0xFF#8 s.cfg.flash

/-! ### Requests and answers -/

/-- No push of the host that is held stands before an access of `who` (R252). -/
def State.atOnce (s : State) (who : Initiator) : Bool := match who with
  | .pf _ => !s.hostHeld
  | _ => true

/-- Does an access of `n` bytes at `a` reach a target that answers at once: control space, a doorbell, the posting window or a kit? -/
def State.answersAtOnce (s : State) (a n : Nat) : Bool := match s.place a n with
  | .ctl _ => true
  | .doorbell _ _ => true
  | .strike _ _ => true
  | .kit _ _ => true
  | _ => false

/-- The field of `n` bytes at offset `off` of a response, whose payload begins at 0x10 (R400). -/
def payField (p : List Byte) (off n : Nat) : Nat := leNat ((p.drop (off - 0x10)).take n)

/-- An engine that RESUME at `now` lets go (R216, R468): a halted one goes on, a task's watchdog with at least 1,024 cycles. -/
def Eng.resumed (e : Eng) (now : Nat) : Eng :=
  if e.halted then { e with
    halted := false
    haltReq := false
    steps := 0
    frozen := false
    wdog := if e.st = .task ∧ e.wdog.toNat < 1024 then 1024#24 else e.wdog
    wdogAt := now * 5 / 4 }
  else { e with haltReq := false, steps := 0 }

/-- The nonce that a command of mailbox `m` is checked against: the one drawn there in the last 60 s (R481). -/
def State.liveNonce (s : State) (m : Mb) : Option (List Byte) := match tget s.sec.nonce none m.val with
  | some (n, t) => if s.now ≤ t + 60000000000 then some n else none
  | none => none

/-! ### One engine's instruction -/

/-- The words of a memory of an engine that have a spare (R224). -/
def Eng.spares (e : Eng) (mem : EngMem) : List (BitVec 13) := match mem with
  | .p => e.rmtP
  | .x => e.rmtX
  | .y => e.rmtY
  | .kit => []

/-- Engine `g` runs, the word at its PC spells `op` and has no uncorrectable error, no rule forbids `op` where it stands, and no debug
comparator is enabled: nothing comes before the instruction's own effect (R212, R229, R242, R471). -/
def State.plain (s : State) (g : EngineId) (op : EOp) : Bool :=
  s.engReady g && decide (engDecode (s.engWord g) = some op) && !(s.engAt g).misplaced op && !(s.engAt g).illegalHere op &&
  decide (tget (s.engAt g).marks .clean (s.engAt g).pc.toNat ≠ .poisoned) && (s.engAt g).dbg.ctl.toList.all fun k => !k.getLsbD 0

/-- The outcome `o` is a next state of `s` in which engine `g` is `e`, its watchdog having counted the cycles gone by before the
instruction as well (R216), and nothing else differs. -/
def State.engBecomes (s : State) (g : EngineId) (o : Out) (e : Eng) : Prop :=
  ∃ t : State, o = .next t ∧ t.engAt g = e.charge (s.engLag g) ∧ (∀ j, j ≠ g.val → t.engAt j = s.engAt j) ∧ { t with eng := s.eng } = s

end Sys2Proof.Machine
end

