-- ==== Sys2Proof/Certificates/Slice0/Obligations.lean ====
section
/-!
DEFINITION. Obligations.lean: what the commands and the machine do, stated from the rules of spec/.
-/
open Sys2Proof Sys2Proof.Machine


/-! ### The queue of waiting commands -/

/-- A step takes the command at the front of the queue and answers what `exec` answers for it on the state with the rest of
the queue; on an empty queue the block idles and its state stays (the model's choice, log entry 1). -/
def Obligations.StepRunsFrontCommand : Prop :=
  (∀ (c : Instr) (rest : List Instr) (s : State), step { s with pending := c :: rest } = exec c { s with pending := rest }) ∧
  (∀ s : State, s.pending = [] → step s = .next s)

/-- R408: a command whose TOKEN differs from the mailbox's has no effect and is answered NOT_OWNER with DETAIL 3, BAD_TOKEN,
when it is copied; while a reload is pending it is answered BUSY with DETAIL 8, RELOADING, instead (R412). Nothing but the
order of execution and the response changes. -/
def Obligations.BadTokenHasNoEffect : Prop :=
  ∀ (m : Mb) (s : State), (s.box m).st = .posted → (s.box m).run = none → s.boxReady m = true → s.flt.lockstep = false →
    rdLE (s.box m).cmd 0xC 4 ≠ (s.box m).token.toNat →
    exec (.commandCopy m) s = .next ((s.took m).respond m (s.box m).copied (if s.mbx.reloading then .busy else .notOwner)
      (if s.mbx.reloading then 8 else 3) [])

/-- R401, R397: a doorbell of 1 by one who passes the check is accepted in IDLE, and in any other state is dropped with FSRC 40; one that
fails the check leaves the mailbox as it is and leaves a fault note; a doorbell of 0 does nothing. R401, R402: a posted command that
passes the checks of the copy is copied and RUNNING; while no program reports READY for the mailbox the mailbox hardware answers it BUSY
with DETAIL 6, NOT_READY. -/
def Obligations.MailboxesTakeCommands : Prop :=
  (∀ (who : Initiator) (m : Mb) (v : BitVec 32) (s : State), s.atOnce who = true →
     (s.passes who (s.box m).owner = true → v.getLsbD 0 = true → (s.box m).st = .idle →
       ∃ t : State, exec (.mbxDoorbell who m v) s = .next t ∧
         t.box m = { s.box m with st := .posted, cseq := (s.box m).cseq + 1, dropped := false, since := s.now } ∧
         (∀ k, k ≠ m.val → t.box k = s.box k) ∧ t.mbx.order = s.mbx.order ++ [m] ∧
         t = { s with mbx.box := t.mbx.box, mbx.order := t.mbx.order }) ∧
     (s.passes who (s.box m).owner = true → v.getLsbD 0 = true → (s.box m).st ≠ .idle →
       exec (.mbxDoorbell who m v) s =
         .next ((s.setBox m { s.box m with dropped := true }).raiseBy 40 who (s.box m).owner)) ∧
     (s.passes who (s.box m).owner = false → exec (.mbxDoorbell who m v) s = .next (s.raiseBy 198 who (s.ownerOf who))) ∧
     (s.passes who (s.box m).owner = true → v.getLsbD 0 = false → exec (.mbxDoorbell who m v) s = .next s)) ∧
  (∀ (m : Mb) (s : State), (s.box m).st = .posted → (s.box m).run = none →
     (s.boxReady m = true → s.flt.lockstep = false →
       s.copyRefusal m (s.box m).copied (rdLE (s.box m).cmd 0xC 4) = none →
       exec (.commandCopy m) s = .next (s.setBox m { s.box m with st := .running, run := some (s.box m).copied })) ∧
     (s.boxReady m = false →
       exec (.notReadyAnswer m) s = .next ((s.took m).respond m (s.box m).copied .busy 6 [])))

/-- R403: a final response that is not discarded stands whole in the response buffer with RSEQ one higher and the mailbox COMPLETE and no
longer INTERIM. What else a response changes is its notification (R409): queues and their storage, MSI-X, faults raised and NLOST. R403,
R475: a read of MBX_RPOP_m by one who passes the check returns STATUS with VALID in COMPLETE and moves the mailbox to IDLE with NLOST
clear; in any other state it returns zero and changes nothing; a debug read only returns the value; a read that fails the check pops
nothing. R405, R407: a long command still at work rewrites its interim response, with STEP one higher, DONE in per mille and ELAPSED_US;
the work's end becomes the final response; a draw that is due ends the mailbox's debug session, gives the mailbox a new non-zero token and IDLE with no interim response, and leaves a
command in progress running with its final response to be discarded. -/
def Obligations.MailboxesAnswer : Prop :=
  (∀ (m : Mb) (r : Running) (c : Code) (d : Nat) (p : List Byte) (s : State), r.discard = false →
     ((s.respond m r c d p).box m).st = .complete ∧ ((s.respond m r c d p).box m).interim = false ∧
     ((s.respond m r c d p).box m).run = none ∧ ((s.respond m r c d p).box m).rseq = (s.box m).rseq + 1 ∧
     rdBytes ((s.respond m r c d p).box m).resp 0 (16 + p.length) = responseBytes c d false r.tag p ∧
     (∀ k, k ≠ m.val → (s.respond m r c d p).box k = s.box k) ∧
     (s.respond m r c d p).quiet = { s.quiet with mbx := (s.respond m r c d p).mbx }) ∧
  (∀ (who : Initiator) (m : Mb) (s : State), s.atOnce who = true →
     (s.passes who (s.box m).owner = true → (s.box m).st = .complete → isDebug who = false →
       ∃ t : State, exec (.mbxRpop who m) s = .next t ∧ t.box m = { s.box m with st := .idle, nlost := false } ∧
         (∀ k, k ≠ m.val → t.box k = s.box k) ∧
         leNat t.readData = rdLE (s.box m).resp 0 2 + 2 ^ 16 ∧ t = { s with mbx.box := t.mbx.box, readData := t.readData }) ∧
     (s.passes who (s.box m).owner = true → (s.box m).st ≠ .complete →
       exec (.mbxRpop who m) s = .next { s with readData := leBytes 4 0 }) ∧
     (s.passes who (s.box m).owner = true → isDebug who = true →
       exec (.mbxRpop who m) s = .next { s with readData := leBytes 4 (s.box m).rpop.toNat }) ∧
     (s.passes who (s.box m).owner = false →
       exec (.mbxRpop who m) s = .next { s.raiseBy 198 who (s.ownerOf who) with readData := [] })) ∧
  (∀ (m : Mb) (s : State),
     (∀ (r : Running) (permille : BitVec 16) (remain : BitVec 32) (work : BitVec 64), (s.box m).run = some r → r.long = true →
       r.final = none → r.discard = false →
       ∃ p, p = leBytes 4 (r.step + 1).toNat ++ leBytes 2 (min 1000 permille.toNat) ++ leBytes 2 0 ++
           leBytes 4 ((s.now - r.since) / 1000) ++ leBytes 4 remain.toNat ++ leBytes 8 work.toNat ∧
         exec (.interimResponse m permille remain work) s = .next ((s.setBox m { s.box m with
           resp := wrBytes (s.box m).resp 0 (responseBytes .longRunning 0 true r.tag p)
           interim := true
           run := some { r with step := r.step + 1 } }).notifyBox m .longRunning true { r with step := r.step + 1 })) ∧
     (∀ (r : Running) (c : Code) (d : Nat) (p : List Byte), (s.box m).run = some r → r.final = some (c.num, d, p) →
       exec (.longCommandFinalResponse m) s = .next (s.respond m r c d p)) ∧
     ((s.box m).tokenDue = true → ∃ t : State, exec (.sessionTokenDraw m) s = .next t ∧
       (t.box m).token ≠ 0#32 ∧ (t.box m).tokenDue = false ∧ (t.box m).st = .idle ∧ (t.box m).interim = false ∧
       (t.box m).run = (s.box m).run.map (fun r => { r with discard := true }) ∧ t.sessionOf m = none ∧
       ∀ k, k ≠ m.val → t.box k = s.box k))

/-! ### Information, axes, strikes, pins and captures -/

/-- R413: ECHO answers its payload unchanged. INVENTORY answers the device, variant, speed, temperature range, stepping, engines, kits, DRAM
ports, units of MISC, lane groups, JESD links, firmware, level 3, serial number, owners and bound mailboxes in their fields; HEALTH answers
REPLACE_SOON with SVC_N, the causes, the ports with an erased device, the vault entries used, the fenced engines and links, the persistent
frames and the lockstep recoveries in theirs. The response is the whole effect. -/
def Obligations.InformationCommandsAnswer : Prop :=
  ∀ (m : Mb) (r : Running) (s : State),
    (s.serving m 0x0103 anyForm = some r → 16 ≤ r.length → r.length ≤ 1024 →
      exec (.echo m) s = .next ((s.took m).respond m r .ok 0 (r.bytes 0x10 (r.length - 16)))) ∧
    (s.serving m 0x0101 anyForm = some r →
      ∃ p, exec (.inventory m) s = .next ((s.took m).respond m r .ok 0 p) ∧ p.length = 0x38 ∧
        payField p 0x10 4 = 0x07140A01 ∧ payField p 0x14 1 = s.variant.code ∧ payField p 0x15 1 = s.speed % 256 ∧
        payField p 0x16 1 = b2n s.gradeE ∧ payField p 0x17 1 = 1 ∧
        (∀ g, g < 128 → bitOf (payField p 0x18 16) g = s.engPresent g) ∧
        (∀ k, k < 16 → bitOf (payField p 0x28 2) k = s.kitPresent k) ∧
        (∀ k, k < 8 → bitOf (payField p 0x2A 1) k = s.dportPresent k) ∧
        (∀ k, k < 2 → bitOf (payField p 0x2B 1) k = s.ringPresent k) ∧ bitsOf (payField p 0x2B 1) 2 2 = 3 ∧
        bitOf (payField p 0x2B 1) 4 = s.variant.mxe ∧ bitOf (payField p 0x2B 1) 5 = s.pce.set.pf1 ∧
        (∀ k, k < 8 → bitOf (payField p 0x2C 1) k = decide (k < s.variant.groups) ∧ bitOf (payField p 0x2D 1) k = decide (k < s.variant.groups)) ∧
        payField p 0x30 4 = (if s.mbx.prog = .atmon then s.mbx.fwVersion.toNat else 0) ∧ payField p 0x34 2 = 3 ∧
        payField p 0x38 8 = s.sec.serial.toNat ∧ payField p 0x40 2 = (if s.configOnly then 1 else s.man.owners.toNat) ∧
        ∀ k, k < 32 → bitOf (payField p 0x44 4) k = (s.box k).bound) ∧
    (s.serving m 0x0102 anyForm = some r →
      ∃ p, exec (.health m) s = .next ((s.took m).respond m r .ok 0 p) ∧ p.length = 0x28 ∧
        payField p 0x10 1 = (if s.flt.causes = 0#32 then 0 else 1) ∧ payField p 0x11 1 = (if s.flt.causes = 0#32 then 0 else 1) ∧
        payField p 0x14 4 = s.flt.causes.toNat ∧
        (∀ k, k < 8 → (bitOf (payField p 0x18 1) k = true ↔ (s.dport k).erased0 ≠ 0xF#4 ∨ (s.dport k).erased1 ≠ 0xF#4)) ∧
        payField p 0x1A 2 = s.vlt.remap.length % 65536 ∧ (∀ g, g < 128 → bitOf (payField p 0x1C 16) g = (s.engAt g).fenced) ∧
        payField p 0x2C 2 = s.fencedLinks % 65536 ∧ payField p 0x2E 2 = s.ovl.persisted.toNat % 65536 ∧
        payField p 0x30 4 = s.flt.lockCount.toNat % 2 ^ 32)

/-- R43: a position counts as ahead of another when their difference modulo 2^64 is neither zero nor 2^63 or more. -/
def Obligations.PositionsCompareModulo : Prop :=
  ∀ p c : W64, posAhead p c = true ↔
    (p.toNat + 2 ^ 64 - c.toNat) % 2 ^ 64 ≠ 0 ∧ (p.toNat + 2 ^ 64 - c.toNat) % 2 ^ 64 < 2 ^ 63

/-- R44, R79, R519: the controller of a disabled axis configures it: source, direction and tracker as named, BSHIFT the least exponent with
RATE_MAX at most 1,024 × 2^BSHIFT, the position from START for an event source; it enables an axis whose source is one of R45 that the
part has, which leaves an enabled one as it is, and disables one that nothing uses. AXIS_QUERY answers LOCAL, then position, rate and status
of each axis named, 32 bytes each. R53: AXIS_RESET sets the position, cancels every valid entry on the axis without firing it, answers
their number with AXIS_DISCONTINUOUS, or OK where there was none, and is refused while a task set is admitted in a group on the axis or a
swap is armed on it. -/
def Obligations.AxisCommandsComplete : Prop :=
  (∀ (m : Mb) (r : Running) (s : State),
     (s.serving m 0x0301 anyForm = some r → r.u32 0x10 < 16 → (s.axis (r.u32 0x10)).controller = (s.box m).owner →
       (s.axis (r.u32 0x10)).st = .disabled → bitOf (r.u32 0x14) 0 = false → bitsOf (r.u32 0x14) 8 4 = 0 →
       bitsOf (r.u32 0x14) 20 12 = 0 → bitOf (r.u32 0x18) 30 = false → bitsOf (r.u32 0x18) 7 1 = 0 →
       bitsOf (r.u32 0x1C) 24 8 ≤ 30 →
       (srcDirect (bitsOf (r.u32 0x14) 1 5) = true ∨ srcEvent (bitsOf (r.u32 0x14) 1 5) = true) →
       (bitOf (r.u32 0x14) 6 = true → (8 ≤ bitsOf (r.u32 0x14) 1 5 ∧ bitsOf (r.u32 0x14) 1 5 ≤ 11) ∨
         (16 ≤ bitsOf (r.u32 0x14) 1 5 ∧ bitsOf (r.u32 0x14) 1 5 ≤ 23)) →
       (16 ≤ bitsOf (r.u32 0x14) 1 5 ∧ bitsOf (r.u32 0x14) 1 5 ≤ 23 → bitsOf (r.u32 0x18) 0 7 ≤ 95) →
       (8 ≤ bitsOf (r.u32 0x14) 1 5 ∧ bitsOf (r.u32 0x14) 1 5 ≤ 11 → bitsOf (r.u32 0x18) 16 9 ≤ 286) →
       (28 ≤ bitsOf (r.u32 0x14) 1 5 → pinKnown (bitsOf (r.u32 0x18) 8 8) = true) →
       (bitsOf (r.u32 0x14) 1 5 = 24 → bitsOf (r.u32 0x18) 0 7 ≤ 15 ∧ s.ringPresent (b2n (bitOf (r.u32 0x18) 31)) = true) →
       (srcEvent (bitsOf (r.u32 0x14) 1 5) = true →
         ∀ x ∈ s.axu.axis, x.1 ≠ r.u32 0x10 → x.2.cfg.src.toNat ≠ bitsOf (r.u32 0x14) 1 5) →
       ∃ (t : State) (k : Nat), exec (.axisConfig m) s = .next (t.respond m r .ok 0 (leBytes 4 k)) ∧
         r.u64 0x20 ≤ 1024 * 2 ^ k ∧ (∀ j, r.u64 0x20 ≤ 1024 * 2 ^ j → k ≤ j) ∧
         (t.axis (r.u32 0x10)).st = .disabled ∧ (t.axis (r.u32 0x10)).cfg.src.toNat = bitsOf (r.u32 0x14) 1 5 ∧
         (t.axis (r.u32 0x10)).cfg.bidir = bitOf (r.u32 0x14) 6 ∧ (t.axis (r.u32 0x10)).cfg.track = bitOf (r.u32 0x14) 7 ∧
         (t.axis (r.u32 0x10)).pos = (if srcEvent (bitsOf (r.u32 0x14) 1 5) then BitVec.ofNat 64 (r.u64 0x28)
           else (s.axis (r.u32 0x10)).pos) ∧ (t.axis (r.u32 0x10)).n = 0 ∧
         t = (s.took m).setAxis (r.u32 0x10) (t.axis (r.u32 0x10))) ∧
     (s.serving m 0x0302 (fun r => r.bit 0x14 0) = some r → r.u32 0x10 < 16 →
       (s.axis (r.u32 0x10)).controller = (s.box m).owner →
       (srcDirect (s.axis (r.u32 0x10)).cfg.src.toNat = true ∨ srcEvent (s.axis (r.u32 0x10)).cfg.src.toNat = true) →
       ((s.axis (r.u32 0x10)).cfg.src.toNat = 24 → s.ringPresent (bitsOf (s.axis (r.u32 0x10)).cfg.srcReg.toNat 31 1) = true) →
       ((s.axis (r.u32 0x10)).cfg.src.toNat = 1 → (s.ptuAt 0).st ≠ .unset) →
       ((s.axis (r.u32 0x10)).cfg.src.toNat = 2 → (s.ptuAt 1).st ≠ .unset) →
       ((s.axis (r.u32 0x10)).st = .disabled → ∃ t : State, exec (.axisEnable m) s = .next (t.respond m r .ok 0 []) ∧
         t.axis (r.u32 0x10) = { s.axis (r.u32 0x10) with
           cfg := { (s.axis (r.u32 0x10)).cfg with en := true }, st := .running, rate := 0#64, n := 0, events := [],
           spos := (s.axis (r.u32 0x10)).pos, since := 256 * s.now, ringTime := s.now, ringEpoch := none, first := true } ∧
         (∀ k, k ≠ r.u32 0x10 → t.axis k = s.axis k) ∧ t.stk = s.stk) ∧
       ((s.axis (r.u32 0x10)).st ≠ .disabled → exec (.axisEnable m) s = .next ((s.took m).respond m r .ok 0 []))) ∧
     (s.serving m 0x0302 (fun r => !r.bit 0x14 0) = some r → r.u32 0x10 < 16 →
       (s.axis (r.u32 0x10)).controller = (s.box m).owner → s.entriesOn (r.u32 0x10) = [] → s.groupsOn (r.u32 0x10) = [] →
       (∀ c ∈ s.axu.cap, c.2.mode = 0 ∨ c.2.ax ≠ r.u32 0x10) → (∀ p ∈ s.fab.pll, p.2.axisLocked = false ∨ p.2.ax.val ≠ r.u32 0x10) →
       exec (.axisDisable m) s = .next (((s.took m).setAxis (r.u32 0x10) { s.axis (r.u32 0x10) with
         cfg := { (s.axis (r.u32 0x10)).cfg with en := false }, st := .disabled }).respond m r .ok 0 [])) ∧
     (s.serving m 0x0304 anyForm = some r →
       ∃ p, exec (.axisQuery m) s = .next ((s.took m).respond m r .ok 0 p) ∧ p.take 8 = leBytes 8 s.localPos.toNat ∧
         p.length = 8 + 32 * (maskList 16 (r.u16 0x10)).length ∧
         ∀ i n, (maskList 16 (r.u16 0x10))[i]? = some n → (p.drop (8 + 32 * i)).take 32 = leBytes 8 (s.axis n).pos.toNat ++
           leBytes 8 (s.axisRate n).toNat ++ leBytes 4 (s.axis n).stat.toNat ++ leBytes 12 0)) ∧
  (∀ (m : Mb) (r : Running) (s : State), Memory.wf s = true → s.serving m 0x0303 anyForm = some r → r.u32 0x10 < 16 →
     (s.axis (r.u32 0x10)).controller = (s.box m).owner →
     ((∀ g ∈ s.groupsOn (r.u32 0x10), s.grpAdmitted g = false) → s.swapOn (r.u32 0x10) = false →
       ∃ t : State, exec (.axisReset m) s = .next (t.respond m r (if s.entriesOn (r.u32 0x10) = [] then .ok else .axisDiscontinuous) 0
           (leBytes 4 (s.entriesOn (r.u32 0x10)).length)) ∧
         (t.axis (r.u32 0x10)).pos.toNat = r.u64 0x18 ∧ (t.axis (r.u32 0x10)).discS = true ∧
         (∀ k, k ≠ r.u32 0x10 → t.axis k = s.axis k) ∧
         (∀ k, (s.strike k).valid = true → (s.strike k).ax = r.u32 0x10 →
           (t.strike k).valid = false ∧ (t.strike k).cancelled = true ∧ (t.strike k).fired = (s.strike k).fired) ∧
         t.stk.due = s.stk.due ∧
         (∀ k, ¬ ((s.strike k).valid = true ∧ (s.strike k).ax = r.u32 0x10) → t.strike k = s.strike k)) ∧
     ((s.swapOn (r.u32 0x10) = true ∨ ∃ g ∈ s.groupsOn (r.u32 0x10), s.grpAdmitted g = true) → exec (.axisReset m) s = .next ((s.took m).respond m r .wrongState 0 (padTo 4 []))))

/-- R45, R46, R90, R426: an edge of the axis clock advances the model's time, LOCAL and each time unit by one cycle, or by five while the
clock comes from IOSC; CHASSIS counts 10 ns where a rising edge of its reference came, and its interpolation starts again there. R45, R125:
what a source presents moves the source position of its enabled event axis: a FABRIC increment of a running sector by the increment, a
quadrature step of an encoder by one up or down, an edge of the kind that a PERIOD source counts by one; the published position stays until
the next clock edge. R52, R54: an event axis without an event, or a RING axis without a cell, for 2^STALL_EXP µs is STALLED at its last
position with FSRC 720 + n raised, and an announced discontinuity disables its axis and cancels the valid entries on it. -/
def Obligations.AxesAdvanceAndStall : Prop :=
  (∀ (s : State),
     (∀ (c : Bool) (k : Nat), k = (if (s.clkDom 2).iosc then 5 else 1) →
       ∃ t : State, exec (.axisClockEdge c) s = .next t ∧ t.now = s.now + k ∧ t.axu.localNs = s.axu.localNs + BitVec.ofNat 48 k ∧
         t.axu.chassisNs = (if c then s.axu.chassisNs + 10 else s.axu.chassisNs) ∧
         t.axu.chassisSub = (if c then 0 else min 10 (s.axu.chassisSub + k)) ∧
         (∀ n, n < 2 → t.ptuAt n = (s.ptuAt n).tick (s.now + k) k)) ∧
     (∀ (n : AxisId) (x : AxisInput) (inc : BitVec 16), (s.axis n).st ≠ .disabled →
       (match x with
         | .fabric i _ => 16 ≤ (s.axis n).cfg.src.toNat ∧ (s.axis n).cfg.src.toNat ≤ 23 ∧ inc = i ∧
             s.sectorStopped (Fin.ofNat 96 (bitsOf (s.axis n).cfg.srcReg.toNat 0 7)) = false
         | .quad a b => 8 ≤ (s.axis n).cfg.src.toNat ∧ (s.axis n).cfg.src.toNat ≤ 11 ∧
             ((quadPlace (a, b) = (quadPlace (s.axis n).quad + 1) % 4 ∧ inc = 1#16) ∨
               ((quadPlace (a, b) + 1) % 4 = quadPlace (s.axis n).quad ∧ inc = 0xFFFF#16))
         | .edge f => 28 ≤ (s.axis n).cfg.src.toNat ∧ f = bitOf (s.axis n).cfg.srcReg.toNat 29 ∧ inc = 1#16) →
       ∃ t : State, exec (.axisSourceEvent n x) s = .next t ∧
         (t.axis n).spos = (s.axis n).spos + (inc.signExtend 64 <<< 16) ∧ (t.axis n).pos = (s.axis n).pos ∧
         (t.axis n).st ≠ .stalled ∧ ∀ k, k ≠ n.val → t.axis k = s.axis k)) ∧
  (∀ (n : AxisId) (s : State),
     ((s.axis n).st ≠ .disabled → (s.axis n).st ≠ .stalled →
       ((srcEvent (s.axis n).cfg.src.toNat = true ∧
           (s.axis n).since + 2 ^ (s.axis n).cfg.stallExp.toNat * 256000 ≤ 256 * s.now) ∨
         ((s.axis n).cfg.src.toNat = 24 ∧
           256 * (s.axis n).ringTime + 2 ^ (s.axis n).cfg.stallExp.toNat * 256000 ≤ 256 * s.now)) →
       ∃ t : State, exec (.axisStall n) s = .next t ∧ (t.axis n).st = .stalled ∧ (t.axis n).pos = (s.axis n).pos ∧
         (∀ k, k ≠ n.val → t.axis k = s.axis k) ∧
         (t.flt.raised.map (·.src)) = (s.flt.raised.map (·.src)) ++ [720 + n.val]) ∧
     ((s.axis n).discPend = true →
       ∃ t : State, exec (.ringDiscontinuity n) s = .next t ∧ (t.axis n).st = .disabled ∧ (t.axis n).discS = true ∧
         (t.axis n).discPend = false ∧ (t.axis n).pos = (s.axis n).pos ∧
         (Memory.wf s = true → ∀ k, (s.strike k).valid = true → (s.strike k).ax = n.val →
           (t.strike k).valid = false ∧ (t.strike k).cancelled = true)))

/-- R64, R79: STRIKE_ALLOC of an owner without an allotment, within the firings per µs that are left, takes a free contiguous run of slots
above the swap slots wherever there is one. R79: STRIKE_FREE makes every entry of the owner's allotment invalid without firing it and ends
the allotment. PIN_CONFIG by the pin's owner, after READY, sets a mode that the pin's directions allow. CAPTURE_CONFIG arms a unit on a
pin, an enabled axis and an EVENT queue that its owner may use, or disarms it, and clears LOST. -/
def Obligations.StrikeCommandsComplete : Prop :=
  (∀ (m : Mb) (r : Running) (s : State), s.serving m 0x0310 anyForm = some r → 1 ≤ r.u32 0x10 → r.u32 0x10 ≤ 65504 →
     1 ≤ r.u32 0x14 → r.u32 0x14 ≤ 1000 → (s.allot (s.box m).owner.val).count = 0 → r.u32 0x14 ≤ s.rateLeft →
     (∃ b, 32 ≤ b ∧ b + r.u32 0x10 ≤ 65536 ∧
       ∀ a ∈ s.stk.allot, a.2.count ≠ 0 → b + r.u32 0x10 ≤ a.2.base ∨ a.2.base + a.2.count ≤ b) →
     ∃ (b : Nat) (t : State), exec (.strikeAlloc m) s = .next (t.respond m r .ok 0
         (leBytes 4 b ++ leBytes 4 (r.u32 0x10) ++ leBytes 4 t.rateLeft)) ∧
       t = (s.took m).setAllot (s.box m).owner.val { s.allot (s.box m).owner.val with
         base := b, count := r.u32 0x10, rate := r.u32 0x14 } ∧
       32 ≤ b ∧ b + r.u32 0x10 ≤ 65536 ∧
       ∀ a ∈ s.stk.allot, a.2.count ≠ 0 → b + r.u32 0x10 ≤ a.2.base ∨ a.2.base + a.2.count ≤ b) ∧
  (∀ (m : Mb) (r : Running) (s : State), Memory.wf s = true →
     (s.serving m 0x0311 anyForm = some r → (s.allot (s.box m).owner.val).count ≠ 0 →
       ∃ t : State, exec (.strikeFree m) s = .next (t.respond m r .ok 0 []) ∧ (t.allot (s.box m).owner.val).count = 0 ∧
         (t.allot (s.box m).owner.val).rate = 0 ∧
         (∀ k, (s.allot (s.box m).owner.val).base ≤ k →
           k < (s.allot (s.box m).owner.val).base + (s.allot (s.box m).owner.val).count →
             (t.strike k).valid = false ∧ (t.strike k).fired = (s.strike k).fired) ∧ t.stk.due = s.stk.due ∧
         (∀ k, k < (s.allot (s.box m).owner.val).base ∨
           (s.allot (s.box m).owner.val).base + (s.allot (s.box m).owner.val).count ≤ k → t.strike k = s.strike k) ∧
         ∀ o, o ≠ (s.box m).owner.val → t.allot o = s.allot o) ∧
     (s.serving m 0x0320 anyForm = some r → pinKnown (r.u32 0x10) = true → (s.pin (r.u32 0x10)).owner = (s.box m).owner →
       s.mbx.ready = true → bitsOf (r.u32 0x14) 4 12 = 0 →
       pinAllows (r.u32 0x10) (bitsOf (r.u32 0x14) 0 2) (s.pin (r.u32 0x10)).sector.isSome = true →
       exec (.pinConfig m) s = .next (((s.took m).setPin (r.u32 0x10) { s.pin (r.u32 0x10) with
         cfg := BitVec.ofNat 32 (r.u32 0x14)
         fab := if (s.pin (r.u32 0x10)).mode = bitsOf (r.u32 0x14) 0 2 then (s.pin (r.u32 0x10)).fab else none }).respond m r .ok 0 [])) ∧
     (s.serving m 0x0321 anyForm = some r → r.u32 0x10 ≤ 63 → (s.cap (r.u32 0x10)).owner = (s.box m).owner →
       bitsOf (r.u32 0x14) 12 2 ≠ 3 →
       (bitsOf (r.u32 0x14) 12 2 ≠ 0 → pinKnown (bitsOf (r.u32 0x14) 0 6) = true ∧ bitsOf (r.u32 0x14) 6 2 ≠ 3 ∧
         (s.queue (bitsOf (r.u32 0x14) 14 18)).kind = .event ∧ (s.queue (bitsOf (r.u32 0x14) 14 18)).owner = (s.box m).owner ∧
         ((s.pin (bitsOf (r.u32 0x14) 0 6)).owner = (s.box m).owner ∨ (s.pin (bitsOf (r.u32 0x14) 0 6)).shared = true) ∧
         (s.axis (bitsOf (r.u32 0x14) 8 4)).st ≠ .disabled) →
       ∃ t : State, exec (.captureConfig m) s = .next (t.respond m r .ok 0 []) ∧
         t = (s.took m).setCap (r.u32 0x10) (t.cap (r.u32 0x10)) ∧ (t.cap (r.u32 0x10)).cfg = BitVec.ofNat 32 (r.u32 0x14) ∧
         (t.cap (r.u32 0x10)).lost = 0#16 ∧ (t.cap (r.u32 0x10)).lostFlag = false ∧
         (t.cap (r.u32 0x10)).owner = (s.cap (r.u32 0x10)).owner ∧ (t.cap (r.u32 0x10)).held = (s.cap (r.u32 0x10)).held))

/-- R57, R58, R80: an aligned write to bytes 0 to 23 of an allotted entry stages its bytes; of an entry that another initiator is staging it
leaves every other slot and the entry in force alone; a write to CONTROL ends what is staged and, without an owner error, puts the
staged entry in force at once, with its status clear; an entry that may not be posted is dropped with VALID zero and counted; a writer
without the slot changes nothing but leaves a fault note. R51, R59, R60, R62, R63: the first entry due fires; one of no INTERVAL ends with
FIRED set and VALID zero, and a repeating one moves on by one or more intervals. An entry committed ahead is noted with the edge that
publishes its predicted crossing and fires in the same way; one that the axis has passed already is flagged late. R67: an entry no
longer beyond the horizon leaves the overflow list. -/
def Obligations.StrikesPostFireAndRepeat : Prop :=
  (∀ (who : Initiator) (slot : SlotId) (off : Fin 24) (wide : Bool) (v : BitVec 64) (s : State), s.atOnce who = true →
     (s.slotMine who slot.val = true → off.val % (if wide then 8 else 4) = 0 →
       (∀ e ∈ s.stk.stager, e.1 = slot.val → e.2 = who) →
       ∃ t : State, exec (.strikeStageWrite who slot off wide v) s = .next t ∧
         (∀ i, i < (if wide then 8 else 4) →
           tget t.stk.stage none (24 * slot.val + off.val + i) = some (BitVec.ofNat 8 (v.toNat / 256 ^ i))) ∧
         (∀ k, k < 24 * slot.val + off.val ∨ 24 * slot.val + off.val + (if wide then 8 else 4) ≤ k →
           tget t.stk.stage none k = tget s.stk.stage none k) ∧
         t = { s with stk.stage := t.stk.stage, stk.stager := t.stk.stager }) ∧
     (s.slotMine who slot.val = true → off.val % (if wide then 8 else 4) = 0 →
       (∃ e ∈ s.stk.stager, e.1 = slot.val ∧ e.2 ≠ who) →
       ∃ t : State, exec (.strikeStageWrite who slot off wide v) s = .next t ∧
         (∀ k, k < 24 * slot.val ∨ 24 * slot.val + 24 ≤ k → tget t.stk.stage none k = tget s.stk.stage none k) ∧
         t = { s with stk.stage := t.stk.stage, freeCount := t.freeCount }) ∧
     (s.slotMine who slot.val = false → off.val % (if wide then 8 else 4) = 0 →
       exec (.strikeStageWrite who slot off wide v) s = .next (s.raiseBy 198 who (s.ownerOf who))) ∧
     (s.slotMine who slot.val = false → exec (.strikeEntryCommit who slot wide v) s = .next (s.raiseBy 198 who (s.ownerOf who))) ∧
     (s.slotMine who slot.val = true → ∃ t : State, exec (.strikeEntryCommit who slot wide v) s = .next t ∧
       (∀ i, i < 24 → tget t.stk.stage none (24 * slot.val + i) = none) ∧ ∀ e ∈ t.stk.stager, e.1 ≠ slot.val) ∧
     (∀ w, w = (if wide then v.toNat else v.toNat % 2 ^ 32) → s.slotMine who slot.val = true → bitsOf w 11 5 = 0 → bitsOf w 20 12 = 0 →
       ∀ e : Strike, e = s.entryFrom slot.val (s.ownerOf who) w →
         (e.valid = false → ∃ t : State, exec (.strikeEntryCommit who slot wide v) s = .next t ∧ t.strike slot.val = e ∧
           (∀ k, k ≠ slot.val → t.strike k = s.strike k)) ∧
         (e.valid = true → argReserved e.action e.arg.toNat = false → (e.action = 4 → bitsOf e.arg.toNat 16 8 ≠ 0) →
           (∀ n, s.commitReason e = some n → ∃ t : State, exec (.strikeEntryCommit who slot wide v) s = .next t ∧
             (t.strike slot.val).valid = false ∧ (t.strike slot.val).dropped = true ∧
             (t.allot (s.ownerOf who).val).drop = satInc (s.allot (s.ownerOf who).val).drop ∧
             (t.allot (s.ownerOf who).val).reason = BitVec.ofNat 4 n) ∧
           (s.commitReason e = none → s.lateCount e = 0 → ∃ t : State, exec (.strikeEntryCommit who slot wide v) s = .next t ∧
             t.strike slot.val = { e with ovf := s.beyondWheel e } ∧ (∀ k, k ≠ slot.val → t.strike k = s.strike k))))) ∧
  (∀ (slot : SlotId) (s : State),
     (∀ (pos : W64) (t0 : Nat) (rest : List (Nat × W64 × Nat)), s.stk.due = (slot.val, pos, t0) :: rest →
       (s.strike slot).valid = true → (s.strike slot).pos = pos → (s.strike slot).isAhead = false →
       ∃ t : State, exec (.strikeCrossing slot) s = .next t ∧ t.stk.due = rest ∧
         ((s.strike slot).interval = 0#64 → (t.strike slot).valid = false ∧ (t.strike slot).fired = true) ∧
         ((s.strike slot).interval ≠ 0#64 → ∃ k, 1 ≤ k ∧ (t.strike slot).pos =
           if (s.strike slot).dir = 1 then pos - BitVec.ofNat 64 (k * (s.strike slot).interval.toNat)
           else pos + BitVec.ofNat 64 (k * (s.strike slot).interval.toNat))) ∧
     ((s.strike slot).valid = true → (s.strike slot).isAhead = true → (s.axis (s.strike slot).ax).st ≠ .disabled →
       (s.passed (s.strike slot) = false → ∀ t0 down edge, s.predicted (s.strike slot) = some (t0, down, edge) →
         ∃ t : State, exec (.strikeCommitAhead slot) s = .next t ∧
           t.stk.ahead = s.stk.ahead ++
             [({ slot := slot.val, ax := (s.strike slot).ax, pos := (s.strike slot).pos, down := down, edge := edge } : Ahead)] ∧
           ((s.strike slot).interval = 0#64 → (t.strike slot).valid = false ∧ (t.strike slot).fired = true)) ∧
       (s.passed (s.strike slot) = true → ∃ t : State, exec (.strikeCommitAhead slot) s = .next t ∧ (t.strike slot).late = true)) ∧
     ((s.strike slot).valid = true → (s.strike slot).ovf = true → s.beyondWheel (s.strike slot) = false →
       exec (.overflowMove slot) s = .next (s.setStrike slot.val { s.strike slot with ovf := false })))

/-- R64 to R66, R70, R71: an edge whose instant has come drives its pin in mode STRIKE with INVERT applied; a strike line of a running sector
rises for its width; the first firing held back is performed and counted when its owner's rate admits it; the first held entry whose queue
has room, and which may still take it, is pushed. R73 to R75: an edge of the armed kind, 2 ns or more after the one before and with fewer
than eight records held, makes a record with the axis's position at its instant, and a unit in mode ONE is disarmed; the capture units on
a pin see the edges that the device drives; the oldest record goes to its EVENT queue. R78, R13, R475: a read of an owner's late, delayed or
dropped count returns it and clears it; a debug session's read leaves it. -/
def Obligations.StrikeActionsAndCaptures : Prop :=
  (∀ (s : State),
     (∀ (p : PinCode) (e : PinEdge) (rest : List PinEdge), (s.pin p).edges = e :: rest → e.time ≤ (256 * s.now : Int) →
       (s.pin p).mode = 2 → (∀ t a, (s.pin p).lastEdge = some (t, a) → a = e.ax ∨ t + 512 ≤ e.time) →
       ∃ (v : Bool) (q : Pin), v = e.level.getD (!(s.pin p).out) ∧
         q = { s.pin p with edges := rest, out := v, lastEdge := some (e.time, e.ax) } ∧
         q.drive p = (if q.openDrain = true ∧ v ≠ q.invert then none else some (v != q.invert)) ∧
         exec (.pinEdge p) s = .next (if q.ball p = (s.pin p).ball p then s.setPin p.val q
           else (s.setPin p.val q).watch p (!q.ball p) e.time.toNat)) ∧
     (∀ (sec : SectorId) (line : Fin 64) (t0 w : Nat) (pre post : List (SectorId × Fin 64 × Nat × Nat)),
       s.stk.pulses = pre ++ (sec, line, t0, w) :: post → t0 ≤ 256 * s.now →
       (∀ x ∈ pre, ¬ (x.1 = sec ∧ x.2.1 = line ∧ x.2.2.1 ≤ 256 * s.now)) → (s.sector sec).frozen = false →
       exec (.flinePulse sec line) s = .next { s with
         stk.pulses := pre ++ post, stk.lines := s.stk.lines ++ [(sec, line, t0 + 256 * w)] }) ∧
     (∀ (o : Owner) (slot : Nat) (e : Strike) (t0 : Nat) (rest : List (Nat × Strike × Nat)),
       (s.allot o).waiting = (slot, e, t0) :: rest → (s.regulate slot o).1 = true →
       ∃ u : State, u = (s.regulate slot o).2 ∧ exec (.delayedFiring o) s = .next ((u.modAllot o.val fun a => { a with
           waiting := a.waiting.eraseIdx 0, delayed := satInc a.delayed }).strikePerform slot e
             (max t0 (256 * (if e.isAhead then s.now + 64 else s.now))) e.late)) ∧
     (∀ (o : Owner) (q : Nat) (bs : List Byte) (slot : Nat) (cap : Bool) (rest : List (Nat × List Byte × Nat × Bool)),
       (s.allot o).buffer = (q, bs, slot, cap) :: rest → (s.queue q).kind ≠ .free → (s.queue q).owner = o →
       (cap = true → (s.queue q).kind = .event) → ((s.setAllot o.val { s.allot o with buffer := rest }).qPush q bs).1 = .ok →
       exec (.holdingBufferPush o) s = .next ((s.setAllot o.val { s.allot o with buffer := rest }).qPush q bs).2)) ∧
  (∀ (c : CapId) (s : State),
     (∀ (falling : Bool) (at_ : Nat), (s.cap c).mode ≠ 0 →
       (bitsOf (s.cap c).cfg.toNat 6 2 = 2 ∨ bitsOf (s.cap c).cfg.toNat 6 2 = b2n falling) →
       (∀ t0, (s.cap c).lastEdge = some t0 → t0 + 512 ≤ at_) → (s.cap c).held.length < 8 →
       ∃ u : State, u = (s.modPin (bitsOf (s.cap c).cfg.toNat 0 6) fun p => { p with ext := !falling }).setCap c.val { s.cap c with
           held := (s.cap c).held ++ [{ ax := (s.cap c).ax, pos := s.posAt (s.cap c).ax at_, falling := falling, down := s.dirBit (s.cap c).ax }]
           lastEdge := some at_
           cfg := if (s.cap c).mode = 1 then BitVec.ofNat 32 (setBits (s.cap c).cfg.toNat 12 2 0) else (s.cap c).cfg } ∧
         exec (.captureEdge c falling at_) s = .next (if (s.cap c).held = [] then u.capPush c else u)) ∧
     (∀ (e : CapRec) (rest : List CapRec), (s.cap c).held = e :: rest → (s.queue (s.cap c).queue).kind = .event →
       (s.queue (s.cap c).queue).owner = (s.cap c).owner →
       ∃ bs, bs = captureBytes e.pos 1 c.val e.ax e.falling e.down (s.cap c).lostFlag (s.cap c).seq 0#64 0 ∧
         ((s.qPush (s.cap c).queue bs).1 = .ok → exec (.captureRecordPush c) s =
           .next ((s.qPush (s.cap c).queue bs).2.modCap c.val fun u => { u with
             held := rest, lostFlag := false, seq := u.seq + 1 })))) ∧
  (∀ (who : Initiator) (o : Owner) (s : State), s.atOnce who = true →
     (isDebug who = false →
       exec (.stkLateRead who o) s = .next { s.setAllot o.val { s.allot o with late := 0#32 } with
         readData := leBytes 4 (s.allot o).late.toNat } ∧
       exec (.stkDelayedRead who o) s = .next { s.setAllot o.val { s.allot o with delayed := 0#32 } with
         readData := leBytes 4 (s.allot o).delayed.toNat } ∧
       ∃ bs, exec (.stkDropRead who o) s = .next { s.setAllot o.val { s.allot o with drop := 0#28, reason := 0#4 } with
           readData := bs } ∧
         leNat bs = (s.allot o).drop.toNat + (s.allot o).reason.toNat * 2 ^ 28) ∧
     (isDebug who = true →
       exec (.stkLateRead who o) s = .next { s with readData := leBytes 4 (s.allot o).late.toNat } ∧
       exec (.stkDelayedRead who o) s = .next { s with readData := leBytes 4 (s.allot o).delayed.toNat } ∧
       ∃ bs, exec (.stkDropRead who o) s = .next { s with readData := bs }))

/-! ### Network time -/

/-- R90 to R94, R98, R99: PTP_CONFIG sets the latency and the holdover settings; PTP_STEP sets an unset unit's time and addend, naming the
edge of acceptance where LOCAL is 0; PTP_SET_RATE lets the base addend take effect 64 cycles later, after the slew where one is asked for;
PTP_HOLDOVER enters HOLDOVER at the base addend with FSRC 760 + n; PTP_QUERY answers the unit as it stands. R53, R95, R96: PTP_RESET_TIME
unsets the unit's time, empties its time-stamps, counts a new epoch, and disables every axis of the unit, cancelling the valid entries on
it; the answer is their number. R87 to R89, R93, R94, R98: a rate that was not set for T ms puts a tracking unit in HOLDOVER; the base
addend is in force when a slew's time is over; the time-stamp of the first frame sent that asks for one is queued while fewer than 64 are
held and else counted lost with FSRC 762 + n; a pop by the controller returns and removes the oldest and captures PTU_TSQ_HI for its
initiator, another owner's read returns zero, and a read of the queue's status clears OVF. A debug session's read of the queue captures but
removes nothing, and its read of the status changes nothing (R475). -/
def Obligations.TimeUnitsFollowCommandsAndEvents : Prop :=
  (∀ (m : Mb) (r : Running) (s : State), r.u32 0x10 ≤ 1 →
     (s.ptuOwner (r.u32 0x10) = (s.box m).owner →
       (s.serving m 0x0801 anyForm = some r → bitsOf (r.u32 0x18) 17 15 = 0 →
         exec (.ptpConfig m) s = .next (((s.took m).setPtuAt (r.u32 0x10) { s.ptuAt (r.u32 0x10) with
           lat := BitVec.ofNat 32 (r.u32 0x14), hold := BitVec.ofNat 32 (r.u32 0x18) }).respond m r .ok 0 [])) ∧
       (s.serving m 0x0802 anyForm = some r → (s.ptuAt (r.u32 0x10)).st = .unset → r.u32 0x14 ≤ 999999999 → r.u64 0x18 < 2 ^ 48 →
         0xFFBE76C9 ≤ r.u64 0x30 → r.u64 0x30 ≤ 0x100418937 →
         (r.u64 0x28 ≠ 0 → (s.localPos - BitVec.ofNat 64 (r.u64 0x28)).toNat ≤ 10 ^ 9 * 2 ^ 16) →
         ∃ t : State, exec (.ptpStep m) s = .next (t.respond m r .ok 0 []) ∧
           t = (s.took m).setPtuAt (r.u32 0x10) (t.ptuAt (r.u32 0x10)) ∧
           (t.ptuAt (r.u32 0x10)).st = .tracking ∧ (t.ptuAt (r.u32 0x10)).addend.toNat = r.u64 0x30 ∧
           (t.ptuAt (r.u32 0x10)).base.toNat = r.u64 0x30 ∧ (t.ptuAt (r.u32 0x10)).stepS = true ∧
           (t.ptuAt (r.u32 0x10)).epoch = (s.ptuAt (r.u32 0x10)).epoch + 1 ∧ (t.ptuAt (r.u32 0x10)).tsq = (s.ptuAt (r.u32 0x10)).tsq ∧
           (r.u64 0x28 = 0 → (t.ptuAt (r.u32 0x10)).sec.toNat = r.u64 0x18 ∧ (t.ptuAt (r.u32 0x10)).ns = r.u32 0x14 ∧
             (t.ptuAt (r.u32 0x10)).frac.toNat = r.u32 0x20)) ∧
       (s.serving m 0x0803 anyForm = some r → (s.ptuAt (r.u32 0x10)).st ≠ .unset → addendOk (r.u64 0x18) = true →
         (r.u32 0x28 ≠ 0 → addendOk (r.u64 0x20) = true) →
         exec (.ptpSetRate m) s = .next (((s.took m).setPtuAt (r.u32 0x10) { s.ptuAt (r.u32 0x10) with
           st := .tracking
           base := BitVec.ofNat 64 (r.u64 0x18)
           latched := (s.ptuAt (r.u32 0x10)).inFlight s.now ++ (if r.u32 0x28 = 0 then [(s.now + 64, BitVec.ofNat 64 (r.u64 0x18), false)]
             else [(s.now + 64, BitVec.ofNat 64 (r.u64 0x20), true), (s.now + 64 + r.u32 0x28, BitVec.ofNat 64 (r.u64 0x18), false)])
           slewEnd := if r.u32 0x28 = 0 then none else some (s.now + 64 + r.u32 0x28)
           lastRate := s.now }).respond m r .ok 0 [])) ∧
       (s.serving m 0x0804 anyForm = some r → (s.ptuAt (r.u32 0x10)).st = .tracking →
         ∃ t : State, exec (.ptpHoldover m) s = .next (t.respond m r .ok 0 []) ∧ t = (s.took m).ptuHold (r.u32 0x10) ∧
           (t.ptuAt (r.u32 0x10)).st = .holdover ∧ (t.ptuAt (r.u32 0x10)).holdS = true ∧ (t.ptuAt (r.u32 0x10)).slewEnd = none ∧
           (t.ptuAt (r.u32 0x10)).base = (s.ptuAt (r.u32 0x10)).base ∧ (∀ k, k ≠ r.u32 0x10 → t.ptuAt k = s.ptuAt k) ∧
           t.flt.raised.map (·.src) = s.flt.raised.map (·.src) ++ [760 + r.u32 0x10])) ∧
     (s.serving m 0x0806 anyForm = some r →
       exec (.ptpQuery m) s = .next ((s.took m).respond m r .ok 0 (leBytes 8 s.localPos.toNat ++
         leBytes 8 (s.ptuAt (r.u32 0x10)).sec.toNat ++ leBytes 4 (s.ptuAt (r.u32 0x10)).ns ++
         leBytes 4 (s.ptuAt (r.u32 0x10)).frac.toNat ++ leBytes 8 ((s.ptuAt (r.u32 0x10)).inForce s.now).1.toNat ++
         leBytes 4 ((s.ptuAt (r.u32 0x10)).stat s.now).toNat ++ leBytes 4 (s.ptuAt (r.u32 0x10)).tsqStat.toNat)))) ∧
  (∀ (m : Mb) (r : Running) (s : State), s.serving m 0x0805 anyForm = some r → r.u32 0x10 ≤ 1 →
     s.ptuOwner (r.u32 0x10) = (s.box m).owner → (s.ptuAt (r.u32 0x10)).st ≠ .unset →
     (∀ a ∈ s.ptuAxes (r.u32 0x10), (∀ g ∈ s.groupsOn a, s.grpAdmitted g = false) ∧ s.swapOn a = false) →
     ∃ (t : State) (k : Nat), exec (.ptpResetTime m) s =
         .next (t.respond m r (if k = 0 then .ok else .axisDiscontinuous) 0 (leBytes 4 k)) ∧
       k = ((s.ptuAxes (r.u32 0x10)).map fun a => (s.entriesOn a).length).sum ∧
       (t.ptuAt (r.u32 0x10)).st = .unset ∧ (t.ptuAt (r.u32 0x10)).sec = 0#48 ∧ (t.ptuAt (r.u32 0x10)).ns = 0 ∧
       (t.ptuAt (r.u32 0x10)).frac = 0#32 ∧ (t.ptuAt (r.u32 0x10)).tsq = [] ∧ (t.ptuAt (r.u32 0x10)).resetS = true ∧
       (t.ptuAt (r.u32 0x10)).epoch = (s.ptuAt (r.u32 0x10)).epoch + 1 ∧ (∀ n, n ≠ r.u32 0x10 → t.ptuAt n = s.ptuAt n) ∧
       (∀ a ∈ s.ptuAxes (r.u32 0x10), (t.axis a).st = .disabled ∧ (t.axis a).discS = true) ∧
       (∀ a, a ∉ s.ptuAxes (r.u32 0x10) → t.axis a = s.axis a)) ∧
  (∀ (n : Fin 2) (s : State),
     ((s.ptuAt n.val).st = .tracking → bitsOf (s.ptuAt n.val).hold.toNat 0 16 ≠ 0 →
       (s.ptuAt n.val).lastRate + bitsOf (s.ptuAt n.val).hold.toNat 0 16 * 1000000 ≤ s.now →
       exec (.holdTimeout n) s = .next (s.ptuHold n.val)) ∧
     (∀ t0, (s.ptuAt n.val).slewEnd = some t0 → t0 ≤ s.now →
       exec (.slewEnd n) s = .next (s.setPtuAt n.val { s.ptuAt n.val with
         slewEnd := none, addend := (s.ptuAt n.val).base, slewOn := false, latched := [] })) ∧
     (∀ (tsid : BitVec 16) (fail : Bool) (rest : List (BitVec 16 × Bool)), (s.mac n.val).stamps = (tsid, fail) :: rest →
       ((s.ptuAt n.val).tsq.length < 64 → ∃ (t : State) (ts : W32), exec (.txTimestamp n) s = .next t ∧
         t = (s.modMac n.val fun x => { x with stamps := rest }).setPtuAt n.val { s.ptuAt n.val with
           tsq := (s.ptuAt n.val).tsq ++ [{ ts := ts, tsid := tsid, epoch := (s.ptuAt n.val).epoch, fail := fail }] } ∧
         ts = BitVec.ofInt 32 (((((s.ptuAt n.val).sec.toNat * 10 ^ 9 + (s.ptuAt n.val).ns) * 256 +
           (s.ptuAt n.val).frac.toNat / 2 ^ 24 : Nat) + ((s.ptuAt n.val).lat.extractLsb' 16 16).toInt) / 256)) ∧
       (64 ≤ (s.ptuAt n.val).tsq.length → exec (.txTimestamp n) s =
         .next (((s.modMac n.val fun x => { x with stamps := rest }).setPtuAt n.val { s.ptuAt n.val with
           ovf := true, lostcnt := (s.ptuAt n.val).lostcnt + 1 }).raise (762 + n.val) [s.ptuOwner n.val]))) ∧
     (∀ (who : Initiator), s.atOnce who = true → s.passes who (s.ptuOwner n.val) = true →
       (∀ (e : TsEntry) (rest : List TsEntry), (s.ptuAt n.val).tsq = e :: rest →
         ∃ t : State, exec (.ptuTsqPop who n) s = .next t ∧ t.readData = leBytes 4 e.ts.toNat ∧
           (t.ptuAt n.val).tsq = (if isDebug who then e :: rest else rest) ∧
           (t.ptuAt n.val).hi.find? (fun x => x.1 = who) = some (who, e.hi) ∧
           ∀ w, w ≠ who → (t.ptuAt n.val).hi.find? (fun x => x.1 = w) = (s.ptuAt n.val).hi.find? fun x => x.1 = w) ∧
       ((s.ptuAt n.val).tsq = [] → ∃ t : State, exec (.ptuTsqPop who n) s = .next t ∧ t.readData = leBytes 4 0 ∧
         (t.ptuAt n.val).tsq = [] ∧ (t.ptuAt n.val).hi.find? (fun x => x.1 = who) = some (who, 0#32))) ∧
     (∀ (who : Initiator), s.atOnce who = true → s.passes who (s.ptuOwner n.val) = false →
       exec (.ptuTsqPop who n) s = .next { s with readData := leBytes 4 0 }) ∧
     (∀ (who : Initiator), s.atOnce who = true → isDebug who = false → ∃ t : State, exec (.ptuTsqStatRead who n false) s = .next t ∧
       t = { s.setPtuAt n.val { s.ptuAt n.val with ovf := false } with readData := leBytes 4 (s.ptuAt n.val).tsqStat.toNat }) ∧
     (∀ (who : Initiator), s.atOnce who = true → isDebug who = true →
       exec (.ptuTsqStatRead who n false) s = .next { s with readData := leBytes 4 (s.ptuAt n.val).tsqStat.toNat }))

/-! ### Fabric -/

/-- R76, R79, R118 to R121: AXIS_LOCK_PLL by the PLL's owner locks a PLL to an axis at a frequency that the PLL can reach, whose frequency then
follows the axis's rate, and releases a locked one (what the release leaves in its registers is the model's choice, log entry 122); the PLL
leaves AXIS_HOLD when its axis runs again; loss of lock clears LOCKED with FSRC 96 + n, a relock of an enabled PLL sets it; the owner clears
LOSS_S and HOLD_S by writing ones, anyone else changes nothing but leaves a fault note. R114, R115: contention on a bus-line segment of the
device whose drivers are on is counted, switches its drivers off and raises FSRC 160 to owner 0. -/
def Obligations.PllsFollowAndContentionEnds : Prop :=
  (∀ (s : State),
     (∀ (m : Mb) (r : Running), s.serving m 0x0330 anyForm = some r → r.u32 0x10 < 24 → r.u32 0x14 < 16 → r.u32 0x20 ≤ 1 →
       (s.fpll (r.u32 0x10)).owner = (s.box m).owner →
       (r.bit 0x20 0 = true → r.u32 0x1C ≠ 0 →
         5000000 * 2 ^ 32 * r.u32 0x1C ≤ (s.axis (r.u32 0x14)).cfg.rateMax.toNat * 10 ^ 9 * r.u32 0x18 →
         (s.axis (r.u32 0x14)).cfg.rateMax.toNat * 10 ^ 9 * r.u32 0x18 ≤ s.fabricLimit * 2 ^ 32 * r.u32 0x1C →
         ∃ t : State, exec (.axisLockPll m) s = .next (t.respond m r .ok 0
             (leBytes 8 ((s.axisRate (r.u32 0x14)).toInt.natAbs * 10 ^ 9 * r.u32 0x18 / r.u32 0x1C))) ∧
           (t.fpll (r.u32 0x10)).en = true ∧ (t.fpll (r.u32 0x10)).locked = true ∧ (t.fpll (r.u32 0x10)).axisLocked = true ∧
           (t.fpll (r.u32 0x10)).ax.val = r.u32 0x14 ∧ (t.fpll (r.u32 0x10)).stuck = false ∧
           t.lockKhz (r.u32 0x10) =
             (s.axisRate (r.u32 0x14)).toInt.natAbs * 10 ^ 6 * r.u32 0x18 / (r.u32 0x1C * 2 ^ 32) ∧
           ((t.fpll (r.u32 0x10)).axisHold = true ↔ (s.axis (r.u32 0x14)).st = .held ∨ (s.axis (r.u32 0x14)).st = .stalled ∨
             (s.axis (r.u32 0x14)).st = .disabled) ∧ (∀ k, k ≠ r.u32 0x10 → t.fpll k = s.fpll k) ∧
           ∀ k, t.axis k = s.axis k) ∧
       (r.bit 0x20 0 = false → (s.fpll (r.u32 0x10)).axisLocked = true →
         ∃ t : State, exec (.axisLockPll m) s = .next (t.respond m r .ok 0 (leBytes 8 0)) ∧
           (t.fpll (r.u32 0x10)).axisLocked = false ∧ (t.fpll (r.u32 0x10)).locked = false ∧
           (t.fpll (r.u32 0x10)).axisHold = false ∧ ∀ k, k ≠ r.u32 0x10 → t.fpll k = s.fpll k)) ∧
     (∀ n : PllId, (s.fpll n.val).axisLocked = true → (s.fpll n.val).axisHold = true → (s.fpll n.val).stuck = false →
       (s.axis (s.fpll n.val).ax.val).st = .running ∨ (s.axis (s.fpll n.val).ax.val).st = .extrap ∨
         (s.axis (s.fpll n.val).ax.val).st = .clamped →
       exec (.pllAxisRealign n) s = .next (s.setFpll n.val { s.fpll n.val with axisHold := false })) ∧
     (∀ n : PllId, (s.fpll n.val).locked = true → exec (.fpllLossOfLock n) s =
       .next ((s.setFpll n.val { s.fpll n.val with locked := false, lossS := true, khz := s.pllKhz n.val }).raise
         (96 + n.val) [(s.fpll n.val).owner])) ∧
     (∀ n : PllId, (s.fpll n.val).en = true →
       exec (.fpllRelock n) s = .next (s.setFpll n.val { s.fpll n.val with locked := true })) ∧
     (∀ (who : Initiator) (n : PllId) (v : BitVec 32), s.atOnce who = true →
       (s.passes who (s.fpll n.val).owner = true → ∃ t : State, exec (.fpllFlagClear who n v) s = .next t ∧
         t = s.setFpll n.val (t.fpll n.val) ∧
         t.fpll n.val = { s.fpll n.val with
           lossS := (s.fpll n.val).lossS && !v.getLsbD 8, holdS := (s.fpll n.val).holdS && !v.getLsbD 9 }) ∧
       (s.passes who (s.fpll n.val).owner = false →
         exec (.fpllFlagClear who n v) s = .next (s.raiseBy 198 who (s.ownerOf who))))) ∧
  (∀ (seg : BitVec 15) (s : State), segmentKnown seg.toNat = true → seg ∉ s.fab.busOff →
     ∃ t : State, exec (.buslineContention seg) s = .next t ∧ t.fab.busOff = s.fab.busOff ++ [seg] ∧
       t.fab.busCount = satInc s.fab.busCount ∧ bitsOf t.fab.busLast.toNat 0 15 = seg.toNat ∧
       bitsOf t.fab.busLast.toNat 16 4 = (s.quadOwner (segmentQuad seg.toNat)).val ∧
       t.flt.raised.map (fun f => (f.src, f.owners)) = s.flt.raised.map (fun f => (f.src, f.owners)) ++ [(160, [0])] ∧
       t = { s with fab.busOff := t.fab.busOff, fab.busCount := t.fab.busCount, fab.busLast := t.fab.busLast,
                    fab.busWait := t.fab.busWait, flt.raised := t.flt.raised })

/-- R101 to R110, R116, R117, R146, R147, R181, R433: in a sector whose clocks run, an edge that its clock's enables let through gives every
flip-flop of the sector on that regional clock SRVAL where SR is asserted, else F where CE is, every enabled wire register, border register
and slice of the clock its next value, all from the levels before the edge; everything of other clocks, of held quads and of other sectors
stays. Where an enable holds the edge back, or in a sector without clocks, nothing is clocked. -/
def Obligations.FabricRegistersTakeTheirValuesAtAnEdge : Prop :=
  ∀ (sec : SectorId) (r : Fin 16) (near : BitVec 16) (ext : List (BitVec 32 × Bool)) (s : State),
    (s.sectorRuns sec.val = false → exec (.fabricClockEdge sec r near ext) s = .next s) ∧
    (s.sectorRuns sec.val = true → ∀ u : State, u = (s.extIn (ext.map fun e => (e.1.toNat, e.2))).settleAsync →
      (u.rclkRuns sec.val r = false → ∃ t : State, exec (.fabricClockEdge sec r near ext) s = .next t ∧
        t.fab.wire = s.fab.wire ∧ t.fab.border = s.fab.border ∧ t.fab.slice = s.fab.slice ∧ t.fab.word = s.fab.word) ∧
      (u.rclkRuns sec.val r = true → ∃ v : State,
        exec (.fabricClockEdge sec r near ext) s = .next (v.settleAsync.sampleEnables sec.val r) ∧
        (∀ c, c ∉ sectorCells sec.val ∨ u.quadHeld (cellQuad c) = true ∨ u.cellClk c ≠ r →
          tget v.fab.ff none c = tget u.fab.ff none c) ∧
        (∀ c, c ∈ sectorCells sec.val → u.quadHeld (cellQuad c) = false → u.cellClk c = r → ∀ sr ce d,
          sr = u.captured false (u.gclkOf sec.val r) (16 * (4 * c) + 13) (u.cellSr u.lit c) →
          ce = (u.captured false (u.gclkOf sec.val r) (16 * (4 * c + 1) + 13) (u.cellCe u.lit c) &&
            (u.cfg.writesOn || (u.cellCfg c).ceSel.isNone)) →
          d = u.captured false (u.gclkOf sec.val r) (16 * (4 * c + 2) + 13) (u.lit (.net (.f c))) →
          tget v.fab.ff none c =
            if sr then some (u.cellCfg c).srVal else if ce then some d else tget u.fab.ff none c) ∧
        (∀ g, tget v.fab.wire none g = if g ∈ sectorWires sec.val then
          (match u.wireNext sec.val r g with | some b => some b | none => tget u.fab.wire none g) else tget u.fab.wire none g) ∧
        (∀ n, tget v.fab.border false n = if n ∈ sectorBorders sec.val then
          (u.borderNext sec.val r n).getD (tget u.fab.border false n) else tget u.fab.border false n) ∧
        ∀ i, v.sliceAt i = if i ∈ sectorSlices sec.val then (u.sliceNext r i).getD (u.sliceAt i) else u.sliceAt i))

/-- R146, R149: the 16 arithmetic functions of a slice compute on 64-bit signed numbers, wrapping, with OVF set exactly where the result does not
fit, the seven logical functions leave OVF, and no other code has a function. The output shifter rounds by adding half of the last place,
wrapping, shifts, and with saturation clamps to the 24-bit range, signed or unsigned, with SATF set exactly where it clamps; without it
the low 24 bits pass. -/
def Obligations.SliceArithmeticWrapsAndSaturates : Prop :=
  (∀ (prod acc k chin : W64) (ci ovf : Bool) (c : W64) (i p a kk h hs : Int), c = (if ci then 1#64 else 0#64) → i = (if ci then 1 else 0) →
    p = prod.toInt → a = acc.toInt → kk = k.toInt → h = chin.toInt → hs = (chin.sshiftRight 24).toInt →
    (∀ e ∈ ([(0x00, 0#64, 0), (0x01, prod + c, p + i), (0x02, acc + prod + c, a + p + i), (0x03, acc - prod - c, a - p - i),
        (0x04, k + c, kk + i), (0x05, k + prod + c, kk + p + i), (0x06, k - prod - c, kk - p - i), (0x07, acc + k + c, a + kk + i),
        (0x08, acc - k - c, a - kk - i), (0x09, chin + prod + c, h + p + i), (0x0A, chin - prod - c, h - p - i),
        (0x0B, chin.sshiftRight 24 + prod + c, hs + p + i), (0x0C, chin + k + c, h + kk + i), (0x0D, chin + acc + c, h + a + i),
        (0x0E, chin.sshiftRight 24 + acc + c, hs + a + i), (0x0F, chin + c, h + i)] : List (Nat × W64 × Int)),
      sliceFn e.1 prod acc k chin ci ovf = some (e.2.1, decide (e.2.2 < -2 ^ 63 ∨ 2 ^ 63 ≤ e.2.2))) ∧
    (∀ e ∈ ([(0x10, acc &&& k), (0x11, acc ||| k), (0x12, acc ^^^ k), (0x13, prod &&& k), (0x14, prod ^^^ k), (0x15, acc ^^^ chin),
        (0x16, ~~~acc)] : List (Nat × W64)), sliceFn e.1 prod acc k chin ci ovf = some (e.2, ovf)) ∧
    (∀ n, 0x17 ≤ n → sliceFn n prod acc k chin ci ovf = none)) ∧
  (∀ (c : SliceCfg) (acc half : W64), half = (if c.shift.val = 0 then 0#64 else BitVec.ofNat 64 (2 ^ (c.shift.val - 1))) →
    (c.sgnO = true → ∀ q : Int, q = (acc + half).toInt / 2 ^ c.shift.val →
      (c.sat = true → (sliceOut c acc).1.toInt = max (-2 ^ 23) (min (2 ^ 23 - 1) q) ∧
        ((sliceOut c acc).2 = true ↔ q < -2 ^ 23 ∨ 2 ^ 23 ≤ q)) ∧
      (c.sat = false → sliceOut c acc = (BitVec.ofInt 24 q, false))) ∧
    (c.sgnO = false → ∀ q : Nat, q = (acc + half).toNat / 2 ^ c.shift.val →
      (c.sat = true → (sliceOut c acc).1.toNat = min (2 ^ 24 - 1) q ∧ ((sliceOut c acc).2 = true ↔ 2 ^ 24 ≤ q)) ∧
      (c.sat = false → sliceOut c acc = (BitVec.ofNat 24 q, false))))

/-- R122 to R124, R126, R477: the fabric port issues a request of its sector stamped with the sector's owner and reserves response space for a
read; a push or a pop of a queue that its owner may use gives one response, one that it may not use is dropped and answered NOT_OWNER, and a
push at a full queue waits; user logic of a sector that is not frozen answers a target request with a status and, for a read, the request's
length of data, and one left unaccepted for 4,096 cycles of the port is answered TIMEOUT with FSRC 200. The mailbox channel reads and
writes the page of the mailbox that the manifest binds to the sector; without one it reads zero and ignores writes. -/
def Obligations.FabricPortsServeUserLogic : Prop :=
  ∀ (sec : SectorId) (s : State),
    (∀ (flow : Fin 16) (write : Bool) (addr : BitVec 48) (n : Fin 9) (data : List Byte), s.cfg.ioOn = true →
      s.niCode (sectorRouter sec.val) = 1 → s.ckr.inReset.contains (.fport sec) = false → s.portRoom sec.val write (64 * n.val) = true →
      exec (.fabricInitiatorRequest sec flow write addr n data) s = .next
        ((s.modSector sec.val fun x => { x with
            reserved := x.reserved + (if n.val ≠ 0 ∧ write = false then n.val else 0) }).issueNew {
          op := if n.val = 0 then .fence else if write then .write else .read
          src := sectorRouter sec.val, dst := 0, flow := flow.val, owner := s.sectorOwner sec.val, who := .sector sec
          addr := addr.toNat, len := 64 * n.val, data := if write then padTo (64 * n.val) (data.take (64 * n.val)) else []
          sink := .fabric sec })) ∧
    (∀ (q : QueueId) (data : List Byte), (∀ h ∈ s.qcu.held, h.who ≠ .fabric sec) →
      (s.qSoftPush (s.sectorOwner sec.val) q.val data.length = true →
        ((s.qPush q.val data).1 = .ok → exec (.fabricQueuePush sec q data) s =
          .next ((s.qPush q.val data).2.modSector sec.val fun x => { x with queueResp := x.queueResp ++ [(.ok, [])] })) ∧
        ((s.queue q.val).full = true → exec (.fabricQueuePush sec q data) s = .next { s with qcu.held := s.qcu.held ++
          [{ who := .fabric sec, q := q.val, owner := (s.queue q.val).owner, data := data, since := s.now }] })) ∧
      (s.qSoftPush (s.sectorOwner sec.val) q.val data.length = false → exec (.fabricQueuePush sec q data) s =
        .next ((s.doorbellDrop (.sector sec)).modSector sec.val fun x => { x with queueResp := x.queueResp ++ [(.notOwner, [])] }))) ∧
    (∀ (q : QueueId),
      (s.qSoftPop (s.sectorOwner sec.val) q.val = true →
        exec (.fabricQueuePop sec q) s = .next { (s.qPop q.val).2.2.modSector sec.val (fun x => { x with
          queueResp := x.queueResp ++ [((s.qPop q.val).1, (s.qPop q.val).2.1)] }) with readData := (s.qPop q.val).2.1 }) ∧
      (s.qSoftPop (s.sectorOwner sec.val) q.val = false →
        exec (.fabricQueuePop sec q) s = .next { (s.doorbellDrop (.sector sec)).modSector sec.val (fun x => { x with
          queueResp := x.queueResp ++ [(.notOwner, [])] }) with readData := [] })) ∧
    (∀ (id : Nat) (r : Req), s.atSector sec id = some r → (s.sector sec.val).frozen = false →
      (∀ (st : BitVec 4) (data : List Byte), exec (.targetResponse sec id st data) s = .next (s.answer id r (NocStatus.ofCode st.toNat)
        (if r.op = .read then padTo r.len (data.take r.len) else []))) ∧
      (r.since + s.portLimit sec.val ≤ s.now →
        exec (.targetTimeout sec id) s = .next ((s.answer id r .timeout []).raise 200 [s.sectorOwner sec.val]))) ∧
    (∀ (off : BitVec 12) (m : Mb) (v : BitVec 32), s.channelBox sec = some m → s.passes (.sector sec) (s.box m).owner = true →
      exec (.mailboxChannelAccess sec off true v) s = .next (s.boxWrite (.sector sec) m (off.toNat / 4 * 4) (leBytes 4 v.toNat)) ∧
      (off.toNat / 4 * 4 ≠ 0xC → exec (.mailboxChannelAccess sec off false v) s = .next { s with
        readData := leBytes 4 (s.boxWord m (off.toNat / 4 * 4)).toNat })) ∧
    (∀ (off : BitVec 12) (v : BitVec 32), s.channelBox sec = none →
      exec (.mailboxChannelAccess sec off true v) s = .next s ∧
      exec (.mailboxChannelAccess sec off false v) s = .next { s with readData := leBytes 4 0 })

/-! ### Queues -/

/-- R246 to R251: a doorbell push to an enabled queue of the sender's owner is accepted where it has room and is held in order where it has
none; one the sender may not make is dropped with FSRC 656; one behind a held push of its flow waits in its network interface; CONSUME
advances CIDX by up to the count. R252: while a host push is held, every host access waits, whatever it reaches. R246, R248, R251 to R253: a
push that reaches the QCU is accepted where its queue has room; the longest-held push of a queue with room that still takes it is accepted
and its source told, and the accesses behind it follow; a host push held for LIMIT ms is discarded and counted with FSRC 657. -/
def Obligations.DoorbellsAndHeldPushes : Prop :=
  (∀ (who : Initiator) (q : QueueId) (s : State), s.atOnce who = true →
     ((∃ fn, who = .pf fn) ∨ s.flowHeld who = false →
       (∀ data, s.qSoftPush (s.ownerOf who) q.val data.length = true →
         ((s.qPush q.val data).1 = .ok → exec (.doorbellPush who q data) s = .next (s.qPush q.val data).2) ∧
         ((s.queue q.val).full = true → ∃ (t : State) (h : Held), exec (.doorbellPush who q data) s = .next t ∧
           t.qcu.held = s.qcu.held ++ [h] ∧ h.q = q.val ∧ h.data = data ∧ h.owner = (s.queue q.val).owner ∧ h.since = s.now ∧
           h.who = (match who with | .pf fn => .initiator (.pf fn) | _ => .ni s.noc.nextReq) ∧ ∀ k, t.queue k = s.queue k)) ∧
       (∀ data, s.qSoftPush (s.ownerOf who) q.val data.length = false →
         exec (.doorbellPush who q data) s = .next (s.doorbellDrop who))) ∧
     ((∀ fn, who ≠ .pf fn) → s.flowHeld who = true → ∀ data, ∃ t : State, exec (.doorbellPush who q data) s = .next t ∧
       t.req s.noc.nextReq = some (s.pushReq who q.val data .waiting) ∧ (∀ k, t.queue k = s.queue k) ∧ t.qcu.held = s.qcu.held) ∧
     (∀ n : BitVec 32, s.qSoftPop (s.ownerOf who) q.val = true →
       (n ≠ 0#32 → n.toNat ≤ (s.queue q.val).count → exec (.consume who q n) s = .next (s.setQueue q.val { s.queue q.val with
         cidx := (s.queue q.val).adv (s.queue q.val).cidx n.toNat })) ∧
       (n ≠ 0#32 → (s.queue q.val).count < n.toNat → exec (.consume who q n) s = .next ((s.setQueue q.val { s.queue q.val with
         cidx := (s.queue q.val).pidx }).raiseBy 656 who (s.ownerOf who))) ∧
       (n = 0#32 → exec (.consume who q n) s = .next (s.doorbellDrop who)))) ∧
  (∀ (fn : Fin 2) (s : State), s.hostHeld = true → ∀ (q : QueueId) (data : List Byte) (n v : BitVec 32) (o : Owner) (g : GroupId) (m : Mb)
     (p : PllId) (e : EngineId) (k : KitId) (u : Fin 2) (b wide : Bool) (slot : SlotId) (off : Fin 24) (x : BitVec 64) (a : BitVec 28),
     ∀ c ∈ ([.doorbellPush (.pf fn) q data, .consume (.pf fn) q n, .popWindowPop (.pf fn) o, .qcuHostdropRead (.pf fn),
         .qcuDbdropRead (.pf fn) o, .tduGrpMissRead (.pf fn) g, .mbxDoorbell (.pf fn) m v, .mbxRpop (.pf fn) m, .fpllFlagClear (.pf fn) p v,
         .dbgRunHalt (.pf fn) e, .dbgRunResume (.pf fn) e, .dbgRunStep (.pf fn) e, .engSwiSet (.pf fn) e v, .fltPendWrite (.pf fn) o v,
         .ptuTsqPop (.pf fn) u, .ptuTsqStatRead (.pf fn) u b, .registerWrite (.pf fn) a wide x, .strikeStageWrite (.pf fn) slot off wide x,
         .kitLockRead (.pf fn) k, .pceDropRead (.pf fn), .strikeEntryCommit (.pf fn) slot wide x, .stkLateRead (.pf fn) o, .stkDelayedRead (.pf fn) o, .stkDropRead (.pf fn) o] : List Instr),
       ∃ w : Posted, w.fn = fn ∧ exec c s = .next { s with pce.posted := s.pce.posted ++ [w] }) ∧
  (∀ (s : State),
     (∀ (who : Initiator) (q : QueueId) (data : List Byte),
       (∃ o, who = .unit o ∧ (s.queue q.val).owner = o) ∨
         ((∀ o, who ≠ .unit o) ∧ s.qSoftPush (s.ownerOf who) q.val data.length = true) →
       (s.qPush q.val data).1 = .ok → exec (.queuePushAccept who q data) s = .next (s.qPush q.val data).2) ∧
     (∀ (q : QueueId) (h : Held) (pre post : List Held), s.qcu.held = pre ++ h :: post → (∀ x ∈ pre, x.q ≠ q.val) → h.q = q.val →
       (s.queue q.val).full = false → s.heldTakes h = true →
       ∀ u : State, ({ s with qcu.held := pre ++ post } : State).qAccept q.val h.data = (.ok, u) →
       exec (.heldPushRetry q) s = .next ((u.unheld h .ok).postedOn ((u.unheld h .ok).pce.posted.length + 1))) ∧
     (∀ (h : Held) (fn : Fin 2) (pre post : List Held), s.qcu.held = pre ++ h :: post → h.who = .initiator (.pf fn) →
       (∀ x ∈ pre, ∀ f, x.who ≠ .initiator (.pf f)) → s.qcu.limit ≠ 0#10 → h.since + s.qcu.limit.toNat * 1000000 ≤ s.now →
       ∃ u : State, u = (({ s with qcu.held := pre ++ post, qcu.hostDrop := satInc s.qcu.hostDrop } : State).raise 657
           [(s.queue h.q).owner]).unheld h .ok ∧
         exec .hostPushDiscard s = .next (u.postedOn (u.pce.posted.length + 1))))

/-- R247, R248: an accepted push of a queue advances PIDX by one, an answered pop CIDX; no other queue changes. A queue that is
not empty counts one entry more after a push, or one less after a pop. -/
def Obligations.PushAndPopMoveOneIndex : Prop :=
  ∀ (s : State) (n : Nat) (bs : List Byte), (s.queue n).pidx < 2 ^ ((s.queue n).sizeExp + 1) →
    (s.queue n).cidx < 2 ^ ((s.queue n).sizeExp + 1) → (s.queue n).count ≤ 2 ^ (s.queue n).sizeExp →
    ((s.qPush n bs).1 = .ok → ((s.queue n).kind = .task → bitsOf (leNat ((bs.drop 14).take 2)) 0 14 = (s.queue n).context) →
      (s.qPush n bs).2.queue n = { s.queue n with pidx := (s.queue n).adv (s.queue n).pidx 1 } ∧
      ((s.qPush n bs).2.queue n).count = (s.queue n).count + 1 ∧ ∀ k, k ≠ n → (s.qPush n bs).2.queue k = s.queue k) ∧
    ((s.qPop n).1 = .ok →
      (s.qPop n).2.2.queue n = { s.queue n with cidx := (s.queue n).adv (s.queue n).cidx 1 } ∧
      ((s.qPop n).2.2.queue n).count + 1 = (s.queue n).count ∧ ∀ k, k ≠ n → (s.qPop n).2.2.queue k = s.queue k)

/-- R250, R270, R475: a read of the pop window pops the selected queue and captures the entry and POPSTAT for its initiator, whose captures of
others stay; of a queue that may not be popped it captures ERR, counts a dropped access and pops nothing; a debug session's read of it
captures the head and pops nothing; another owner's reads zero. The dropped-write, dropped-access and miss counts are returned and
cleared, and a debug session's read clears nothing. -/
def Obligations.PopWindowAndCountsRead : Prop :=
  ∀ (who : Initiator) (s : State), s.atOnce who = true →
    (∀ o : Owner, s.passes who o = true →
      (isDebug who = false → s.qSoftPop o (s.win o.val).sel = true → (s.qPop (s.win o.val).sel).1 = .ok →
        ∃ (t u : State) (bs : List Byte), u = (s.qPop (s.win o.val).sel).2.2 ∧ bs = (s.qPop (s.win o.val).sel).2.1 ∧
          exec (.popWindowPop who o) s = .next t ∧ (∀ n, t.queue n = u.queue n) ∧ t.readData = (padTo 4 bs).take 4 ∧
          (t.win o.val).captured who =
            { words := padTo 64 bs, valid := true, err := false, count := (u.queue (s.win o.val).sel).count } ∧
          ∀ w, w ≠ who → (t.win o.val).captured w = (u.win o.val).captured w) ∧
      (isDebug who = false → s.qSoftPop o (s.win o.val).sel = false →
        ∃ t : State, exec (.popWindowPop who o) s = .next t ∧ (∀ n, t.queue n = s.queue n) ∧ t.readData = leBytes 4 0 ∧
          ((t.win o.val).captured who).valid = false ∧ ((t.win o.val).captured who).err = true ∧
          (t.win o.val).dbdrop = satInc (s.win o.val).dbdrop) ∧
      (isDebug who = true → s.qSoftPop o (s.win o.val).sel = true →
        ∃ t : State, exec (.popWindowPop who o) s = .next t ∧ (∀ n, t.queue n = s.queue n) ∧
          ((t.win o.val).captured who).words = padTo 64 (s.qHead (s.win o.val).sel).2.1 ∧
          ((t.win o.val).captured who).count = (s.win o.val).count) ∧
      exec (.qcuDbdropRead who o) s = .next { (if isDebug who then s else s.setWin o.val { s.win o.val with dbdrop := 0#32 }) with
        readData := leBytes 4 (s.win o.val).dbdrop.toNat }) ∧
    (∀ o : Owner, s.passes who o = false → exec (.popWindowPop who o) s = .next { s with readData := leBytes 4 0 } ∧
      exec (.qcuDbdropRead who o) s = .next { s with readData := leBytes 4 0 }) ∧
    (∀ n : GroupId, exec (.tduGrpMissRead who n) s = .next
      { (if isDebug who then s else s.setGrp n.val { s.grp n.val with misses := 0#32 }) with
        readData := leBytes 4 (s.grp n.val).misses.toNat }) ∧
    exec (.qcuHostdropRead who) s = .next { s with
      readData := leBytes 4 s.qcu.hostDrop.toNat, qcu.hostDrop := if isDebug who then s.qcu.hostDrop else 0#32 }

/-- R247, R272: QUEUE_ALLOC gives a free queue to the issuer over storage that is wholly the issuer's and no other queue's; QUEUE_FREE frees
one that no context names, which is observed no more; QUEUE_QUERY answers the state entry and the count. R202, R257, R258, R272: GROUP_CREATE makes a group of
waiting engines that no other group has, on an enabled axis that only advances, and takes their kits; GROUP_DELETE ends one without
contexts, which is observed no more; CONTEXT_ALLOC fills a free context and binds its task queue, CONTEXT_FREE empties an idle one, CONTEXT_QUERY answers its record.
R267 to R269, R272: OBSERVE_MODE starts TRACE or STATS over the issuer's groups, or ends its own observation; STATS_READ answers an
engine's busy and elapsed cycles, a queue's high-water mark or a group's histogram. -/
def Obligations.QueueGroupAndContextCommandsComplete : Prop :=
  (∀ (m : Mb) (r : Running) (s : State),
     (s.serving m 0x0501 anyForm = some r → 1 ≤ r.u8 0x10 → r.u8 0x10 ≤ 3 → r.u8 0x11 ≤ 2 → (r.u8 0x10 = 2 → r.u8 0x11 = 0) →
       (r.u8 0x10 = 3 → r.u8 0x11 = 1) → 4 ≤ r.u8 0x12 → r.u8 0x12 ≤ 20 → r.u8 0x13 ≤ 1 → bitsOf (r.u16 0x14) 11 4 = 0 →
       r.u64 0x18 % 4096 = 0 → (bitOf (r.u16 0x14) 15 = true → s.pfOwner 0 = (s.box m).owner) →
       ∀ bytes, bytes = 16 * 2 ^ r.u8 0x11 * 2 ^ r.u8 0x12 → s.storageOwner (r.u64 0x18) bytes = some (s.box m).owner →
       s.storageMine (s.box m).owner (r.u64 0x18) bytes = true → (r.u8 0x10 = 2 → inVault (r.u64 0x18) bytes = true) →
       (∀ q ∈ s.qcu.queue, q.2.kind = .free ∨ r.u64 0x18 + bytes ≤ q.2.base ∨ q.2.base + q.2.bytes * q.2.size ≤ r.u64 0x18) →
       (∃ n, n < 262144 ∧ (s.queue n).kind = .free) →
       ∃ n, n < 262144 ∧ (s.queue n).kind = .free ∧ exec (.queueAlloc m) s = .next (((s.took m).setQueue n {
         base := r.u64 0x18, sizeExp := r.u8 0x12, esize := r.u8 0x11
         kind := if r.u8 0x10 = 1 then .message else if r.u8 0x10 = 2 then .task else .event
         owner := (s.box m).owner, note := r.u8 0x13 = 1, en := true, notifyEn := bitOf (r.u16 0x14) 15
         vector := BitVec.ofNat 11 (r.u16 0x14) }).respond m r .ok 0 (leBytes 4 n))) ∧
     (∀ n, n = r.u32 0x10 → n < 262144 → (s.queue n).kind ≠ .free → (s.queue n).owner = (s.box m).owner →
       (s.serving m 0x0502 anyForm = some r → s.queueNamed n = false →
         ∃ t : State, exec (.queueFree m) s = .next (t.respond m r .ok 0 []) ∧ t.queue n = {} ∧ (∀ k, k ≠ n → t.queue k = s.queue k) ∧
           n ∉ t.tdu.obs.queues) ∧
       (s.serving m 0x0503 anyForm = some r → exec (.queueQuery m) s =
         .next ((s.took m).respond m r .ok 0 (leBytes 16 (s.queue n).entryNat ++ leBytes 4 (s.queue n).count))))) ∧
  (∀ (m : Mb) (r : Running) (s : State),
     (s.serving m 0x0510 anyForm = some r → ∀ es, es = maskEngines (r.fld 0x10 16) → es ≠ [] → r.u32 0x20 ≤ 15 →
       (∀ g ∈ es, s.engPresent g.val = true ∧ s.engCode g = 1 ∧
         (s.kitAssigned (g.val / 8) = true → (s.kitAt (g.val / 8)).owner = (s.box m).owner)) →
       (∀ p ∈ s.tdu.group, p.2.defined = true → ∀ g ∈ es, g ∉ p.2.engines) → (s.axis (r.u32 0x20)).cfg.bidir = false →
       (s.axis (r.u32 0x20)).st ≠ .disabled → (∃ n, n < 16 ∧ (s.grp n).defined = false) →
       ∃ (n : Nat) (t : State), n < 16 ∧ (s.grp n).defined = false ∧ exec (.groupCreate m) s = .next (t.respond m r .ok 0 (leBytes 4 n)) ∧
         t.grp n = { defined := true, engines := es, ax := Fin.ofNat 16 (r.u32 0x20), owner := (s.box m).owner } ∧
         (∀ k, k ≠ n → t.grp k = s.grp k) ∧ (∀ g ∈ es, (t.kitAt (g.val / 8)).owner = (s.box m).owner) ∧
         ∀ k, (∀ g ∈ es, g.val / 8 ≠ k) → t.kitAt k = s.kitAt k) ∧
     (s.serving m 0x0511 anyForm = some r → ∀ n, n = r.u32 0x10 → n < 16 → (s.grp n).defined = true →
       (s.grp n).owner = (s.box m).owner → s.grpCtxs n = [] → (∀ g ∈ (s.grp n).engines, s.engCode g = 1) →
       ∃ t : State, exec (.groupDelete m) s = .next (t.respond m r .ok 0 []) ∧ (t.grp n).defined = false ∧
         inMask t.tdu.obs.groups.toNat n = false ∧ ∀ k, k ≠ n → t.grp k = s.grp k) ∧
     (s.serving m 0x0520 anyForm = some r → r.u32 0x10 < 16 → (s.grp (r.u32 0x10)).defined = true →
       (s.grp (r.u32 0x10)).owner = (s.box m).owner → r.u32 0x14 ≤ 8191 → 0 < r.u32 0x18 → r.u32 0x18 < 2 ^ 24 →
       r.u32 0x1C < 262144 → bitsOf (r.u32 0x30) 18 13 = 0 →
       (bitOf (r.u32 0x30) 31 = false → (s.queue (bitsOf (r.u32 0x30) 0 18)).kind = .message ∧
         (s.queue (bitsOf (r.u32 0x30) 0 18)).owner = (s.box m).owner) → 0 < r.u64 0x20 → 0 < r.u64 0x28 →
       bitsOf (r.u32 0x34) 1 3 = 0 → bitsOf (r.u32 0x34) 8 24 = 0 → r.u64 0x38 < 2 ^ 48 → r.u64 0x38 % 4 = 0 → r.u32 0x40 ≤ 128 →
       (s.queue (r.u32 0x1C)).kind = .task → (s.queue (r.u32 0x1C)).owner = (s.box m).owner → (s.queue (r.u32 0x1C)).count = 0 →
       (s.queue (r.u32 0x1C)).context = 0 → s.grpAdmitted (r.u32 0x10) = false →
       (∃ n, 0 < n ∧ n < 16384 ∧ (s.ctx n).valid = false) →
       ∃ n, 0 < n ∧ n < 16384 ∧ (s.ctx n).valid = false ∧ exec (.contextAlloc m) s = .next ((((s.took m).setCtx n {
         valid := true, missDrop := r.bit 0x34 0, pflow := bitsOf (r.u32 0x34) 4 4, entry := BitVec.ofNat 13 (r.u32 0x14)
         group := r.u32 0x10, budget := r.u32 0x18, period := BitVec.ofNat 64 (r.u64 0x20), deadline := BitVec.ofNat 64 (r.u64 0x28)
         taskq := r.u32 0x1C, compq := if bitOf (r.u32 0x30) 31 then none else some (bitsOf (r.u32 0x30) 0 18)
         argBase := BitVec.ofNat 48 (r.u64 0x38), argSize := r.u32 0x40
         owner := (s.box m).owner }).setQueue (r.u32 0x1C) { s.queue (r.u32 0x1C) with context := n }).respond m r .ok 0 (leBytes 4 n))) ∧
     (∀ n, n = r.u32 0x10 → 0 < n → n < 16384 → (s.ctx n).valid = true → (s.ctx n).owner = (s.box m).owner →
       (s.serving m 0x0521 anyForm = some r → (s.ctx n).admitted = false → (s.queue (s.ctx n).taskq).count = 0 →
         s.ctxHeld n = false → exec (.contextFree m) s = .next ((((s.took m).setCtx n {}).setQueue (s.ctx n).taskq
           { s.queue (s.ctx n).taskq with context := 0 }).respond m r .ok 0 [])) ∧
       (s.serving m 0x0522 anyForm = some r →
         exec (.contextQuery m) s = .next ((s.took m).respond m r .ok 0 (padTo 64 (s.ctx n).record))))) ∧
  (∀ (m : Mb) (r : Running) (s : State),
     (s.serving m 0x0530 anyForm = some r → r.u32 0x14 ≤ 65535 → (s.tdu.obs.mode = 0 ∨ s.tdu.obs.owner = (s.box m).owner) →
       (r.u32 0x10 = 0 → exec (.observeMode m) s = .next (({ s.took m with tdu.obs := {} } : State).respond m r .ok 0 [])) ∧
       ((∀ n ∈ maskList 16 (r.u32 0x14), (s.grp n).defined = true ∧ (s.grp n).owner = (s.box m).owner) →
         (r.u32 0x10 = 1 → (s.tdu.obs.mode = 0 ∨ s.tdu.obs.mode = 1) → r.u32 0x18 < 262144 → (s.queue (r.u32 0x18)).kind = .event →
           (s.queue (r.u32 0x18)).owner = (s.box m).owner → exec (.observeMode m) s = .next (({ s.took m with tdu.obs := {
             mode := 1, owner := (s.box m).owner, groups := BitVec.ofNat 16 (r.u32 0x14), queue := r.u32 0x18 } } : State).respond
               m r .ok 0 [])) ∧
         (r.u32 0x10 = 2 → (s.tdu.obs.mode = 0 ∨ s.tdu.obs.mode = 2) → r.u32 0x1C ≤ 64 → 0x20 + 4 * r.u32 0x1C ≤ r.length →
           (∀ i, i < r.u32 0x1C → r.u32 (0x20 + 4 * i) < 262144 ∧ (s.queue (r.u32 (0x20 + 4 * i))).kind ≠ .free ∧
             (s.queue (r.u32 (0x20 + 4 * i))).owner = (s.box m).owner) →
           exec (.observeMode m) s = .next (({ s.took m with tdu.obs := {
             mode := 2, owner := (s.box m).owner, groups := BitVec.ofNat 16 (r.u32 0x14), start := s.now
             queues := (List.range (r.u32 0x1C)).map fun i => r.u32 (0x20 + 4 * i) } } : State).respond m r .ok 0 [])))) ∧
     (s.serving m 0x0531 anyForm = some r → s.tdu.obs.mode = 2 → s.tdu.obs.owner = (s.box m).owner →
       (r.u32 0x10 = 0 → r.u32 0x14 < 128 → (∃ n, n < 16 ∧ inMask s.tdu.obs.groups.toNat n = true ∧
           ∃ g ∈ (s.grp n).engines, g.val = r.u32 0x14) →
         exec (.statsRead m) s = .next ((s.took m).respond m r .ok 0 (leBytes 8 (cyclesOf (tget s.tdu.obs.busy 0 (r.u32 0x14))) ++
           leBytes 8 (cyclesOf (s.now - s.tdu.obs.start))))) ∧
       (r.u32 0x10 = 1 → r.u32 0x14 < s.tdu.obs.queues.length → exec (.statsRead m) s =
         .next ((s.took m).respond m r .ok 0 (leBytes 4 (tget s.tdu.obs.high 0 (r.u32 0x14))))) ∧
       (r.u32 0x10 = 2 → r.u32 0x14 < 16 → inMask s.tdu.obs.groups.toNat (r.u32 0x14) = true → exec (.statsRead m) s =
         .next ((s.took m).respond m r .ok 0 (((List.range 16).map fun b =>
           leBytes 4 (min (2 ^ 32 - 1) (tget s.tdu.obs.hist 0 (16 * r.u32 0x14 + b)))).flatten)))))

/-! ### Groups, contexts and dispatch -/

/-- R54, R259, R261, R263, R264: the head token whose effective release the enabled axis has reached enters the ready store while it has room; a handover
gives the selected token to the lowest eligible engine of its group; a deadline that the axis has reached is counted at the context and
the group with FSRC 672 + n, and with MISS_DROP the token is taken out. R261: the selected token of a group is one of the group's in the
ready store and none of them comes before it: admitted before not admitted, then the earlier deadline, then the lower context, then the
earlier arrival. -/
def Obligations.TokensAreSelectedAndDispatched : Prop :=
  (∀ (s : State),
     (∀ (q : QueueId) (c : Ctx) (rel eff : W64), c = s.ctx (s.queue q.val).context → (s.queue q.val).kind = .task →
       (s.queue q.val).en = true → c.valid = true → (s.queue q.val).count ≠ 0 → (s.qHead q.val).1 = .ok →
       rel = BitVec.ofNat 64 (leNat ((s.qHead q.val).2.1.take 8)) →
       eff = (if c.lastValid = true ∧ posAhead (c.last + c.period) rel = true then c.last + c.period else rel) →
       (s.axis (s.grp c.group).ax).st ≠ .disabled → s.reached c.group eff = true → s.readyRoom (s.queue q.val).context = true →
       ∃ (t : State) (tok : Token), exec (.tokenRelease q) s = .next t ∧ t.tdu.ready = s.tdu.ready ++ [tok] ∧
         tok.ctx = (s.queue q.val).context ∧ tok.release = eff ∧ tok.deadline = eff + c.deadline ∧ tok.missed = false ∧
         tok.arrival = s.tdu.arrivals ∧ t.tdu.arrivals = s.tdu.arrivals + 1 ∧ (t.ctx (s.queue q.val).context).last = eff ∧
         (t.ctx (s.queue q.val).context).lastValid = true ∧ ∀ k, k ≠ (s.queue q.val).context → t.ctx k = s.ctx k) ∧
     (∀ (n : GroupId) (g : EngineId) (tok : Token), (s.grpEngines n.val).find? s.engEligible = some g →
       s.selected n.val = some tok → ∃ t : State, exec (.tokenHandover n) s = .next t ∧
         t.tdu.ready = s.tdu.ready.filter (fun u => u.arrival ≠ tok.arrival) ∧
         tget t.tdu.running none g.val = some (tok, s.now) ∧
         (∀ k, k ≠ g.val → tget t.tdu.running none k = tget s.tdu.running none k) ∧ ∀ k, t.ctx k = s.ctx k) ∧
     (∀ tok : Token, s.tdu.ready.find? (fun t => t.arrival = tok.arrival && !t.missed) = some tok →
       s.reached (s.ctx tok.ctx).group tok.deadline = true →
       ∃ t : State, exec (.deadlineMiss tok.arrival) s = .next t ∧ (t.ctx tok.ctx).misses = satInc (s.ctx tok.ctx).misses ∧
         (t.grp (s.ctx tok.ctx).group).misses = satInc (s.grp (s.ctx tok.ctx).group).misses ∧
         (∃ f ∈ t.flt.raised, f.src = 672 + (s.ctx tok.ctx).group ∧ f.owners = [(s.ctx tok.ctx).owner]) ∧
         t.tdu.ready = (if (s.ctx tok.ctx).missDrop then s.tdu.ready.filter (fun u => u.arrival ≠ tok.arrival)
           else s.tdu.ready.map fun u => if u.arrival = tok.arrival then { u with missed := true } else u))) ∧
  (∀ (s : State) (n : Nat), (s.grpTokens n = [] ↔ s.selected n = none) ∧
     ∀ t, s.selected n = some t → t ∈ s.grpTokens n ∧ ∀ u ∈ s.grpTokens n, s.tokenBefore n u t = false)

/-- R206, R224, R227: ENG_CONTROL starts waiting-to-start engines of the issuer's kits at the START vector and stops engines outside
tasks and admitted groups; ENG_QUERY answers an engine's registers; a word of P, X, Y or a kit memory with an uncorrectable error takes a
spare, its contents kept, while its memory has one, and the engine, or every engine of the kit, leaves service where it has none. -/
def Obligations.EngineControlAndRemapComplete : Prop :=
  ∀ (s : State),
    (∀ (m : Mb) (r : Running) (es : List EngineId), es = maskEngines (r.fld 0x10 16) →
      (∀ g ∈ es, s.engPresent g.val = true ∧ (s.kitAt (g.val / 8)).owner = (s.box m).owner) →
      (s.serving m 0x0241 (fun r => r.u32 0x20 = 0) = some r → (∀ g ∈ es, s.engCode g = 1) →
        ∃ t : State, exec (.engControlStart m) s = .next (t.respond m r .ok 0 []) ∧
          (∀ g ∈ es, t.engAt g.val = (s.engAt g.val).started) ∧ (∀ k, (∀ g ∈ es, g.val ≠ k) → t.engAt k = s.engAt k)) ∧
      (s.serving m 0x0241 (fun r => r.u32 0x20 = 1) = some r →
        (∀ g ∈ es, s.engCode g ≠ 0 ∧ (s.engAt g.val).st ≠ .task ∧ s.engAdmitted g = false) →
        ∃ t : State, exec (.engControlStop m) s = .next (t.respond m r .ok 0 []) ∧
          (∀ g ∈ es, (t.engAt g.val).st = .stopped ∧ (t.engAt g.val).halted = false ∧ (t.engAt g.val).frozen = false ∧
            (t.engAt g.val).slot = none ∧ tget t.tdu.running none g.val = none))) ∧
    (∀ (m : Mb) (r : Running), s.serving m 0x0242 anyForm = some r → r.u32 0x10 < 128 → s.engPresent (r.u32 0x10) = true →
      exec (.engQuery m) s = .next ((s.took m).respond m r .ok 0 (([s.engStat (r.u32 0x10), (s.engAt (r.u32 0x10)).pcReg,
        s.wdogReg (r.u32 0x10), (s.engAt (r.u32 0x10)).frec.setWidth 32, (s.engAt (r.u32 0x10)).ecc.setWidth 32,
        (s.engAt (r.u32 0x10)).remapReg, (s.engAt (r.u32 0x10)).kdmaReg] : List W32).map fun w => leBytes 4 w.toNat).flatten)) ∧
    (∀ (g : EngineId) (mem : EngMem) (addr : BitVec 16), mem ≠ .kit → addr.toNat < 8192 → s.engPresent g.val = true →
      s.cellMark mem g addr.toNat = .poisoned → ∃ t : State, exec (.engineRemap g mem addr) s = .next t ∧
        (t.engAt g.val).p = (s.engAt g.val).p ∧ (t.engAt g.val).x = (s.engAt g.val).x ∧ (t.engAt g.val).y = (s.engAt g.val).y ∧
        (∀ k, k ≠ g.val → t.engAt k = s.engAt k) ∧
        (((s.engAt g.val).spares mem).length < 4 →
          (t.engAt g.val).spares mem = (s.engAt g.val).spares mem ++ [BitVec.ofNat 13 addr.toNat] ∧
          (t.engAt g.val).fenced = (s.engAt g.val).fenced) ∧
        (4 ≤ ((s.engAt g.val).spares mem).length →
          ((t.engAt g.val).fenced = true ∨ (t.engAt g.val).fencing = true) ∧ (t.engAt g.val).spares mem = (s.engAt g.val).spares mem)) ∧
    (∀ (g : EngineId) (addr : BitVec 16), s.engPresent g.val = true → s.cellMark .kit g addr.toNat = .poisoned →
      ∃ t : State, exec (.engineRemap g .kit addr) s = .next t ∧ (t.kitAt (g.val / 8)).mem = (s.kitAt (g.val / 8)).mem ∧
        ((s.kitAt (g.val / 8)).rmt.length < 4 → (t.kitAt (g.val / 8)).rmt = (s.kitAt (g.val / 8)).rmt ++ [addr] ∧
          ∀ k, t.engAt k = s.engAt k) ∧
        (4 ≤ (s.kitAt (g.val / 8)).rmt.length → ∀ e : EngineId, e.val / 8 = g.val / 8 →
          (t.engAt e.val).fenced = true ∨ (t.engAt e.val).fencing = true))

/-! ### The mesh and its contracts -/

/-- R291, R294 to R299: CONTRACT_OPEN, once every check passes and admission finds room, makes an ADMITTED contract of the issuer with the
granted bounds; CONTRACT_CLOSE ends one that no overlay swap needs and gives back its task set's admission; CONTRACT_QUERY answers its
table entries and NOC_ROUTE the routers of a path with the bursts on its links. R285 to R288, R296: a suspended contract whose time has
come, and whose ring does not heal, is revalidated beside the flows that hold admission: ADMITTED where that finds room, still SUSPENDED where
only a bound fails after a detour, else DEMOTED with its task set's admission given back; a failed link aborts every outstanding
request that uses it; a header error of a packet on a link is counted, and one that cannot be corrected raises FSRC 193 and aborts the
requests that use the link; a routing change flips the epoch once it
is written and ends when the old epoch is drained, with FSRC 197 after 4 µs; a fenced link is marked at both ends. R290, R433, R434: an NI
whose requests have drained is DRAINED with its proxy on, and an endpoint that waits for it to power down is switched off and its command
answered; after 10 ms the remaining requests are aborted with FSRC 75 and the power-down goes on. -/
def Obligations.ContractsLinksAndPowerDown : Prop :=
  (∀ (m : Mb) (r : Running) (s u : State), u = s.took m →
     (∀ (fl : List Flow) (cs : List Nat) (g : List Flow × State) (a : Admission) (n : Nat) (k : Contract) (t : State),
       s.serving m 0x0401 anyForm = some r → s.mbx.ready = true → s.ckr.ref ≠ 0 → r.u8 0x14 ≤ 4 → r.u8 0x15 ≤ 32 →
       bitsOf (r.u32 0x10) 18 13 = 0 →
       (bitOf (r.u32 0x10) 31 = false → (s.queue (bitsOf (r.u32 0x10) 0 18)).kind = .message ∧
         (s.queue (bitsOf (r.u32 0x10) 0 18)).owner = (s.box m).owner) →
       (r.u8 0x15 ≠ 0 → r.u8 0x16 < 16 ∧ (s.grp (r.u8 0x16)).defined = true ∧ (s.grp (r.u8 0x16)).owner = (s.box m).owner) →
       fl = (List.range (r.u8 0x14)).map (r.flow u) →
       cs = (List.range (r.u8 0x15)).map (fun i => r.u32 (0x18 + 32 * r.u8 0x14 + 4 * i)) →
       (∀ i, i < r.u8 0x14 → r.flowOk u i = true) →
       (∀ f ∈ fl, u.sourceCheck (s.box m).owner (r.u8 0x16) f = none ∧ u.destCheck (s.box m).owner f = none ∧
         u.flowDrain f = false ∧ u.flowWindow f = false) →
       (∀ c ∈ cs, u.taskCheck (s.box m).owner (r.u8 0x16) fl c = none) → noDup cs = true → u.flowBusy fl = false →
       (r.u8 0x15 ≠ 0 → u.groupWindow (r.u8 0x16) = false) → g = u.peerGrants fl →
       a = u.admission u.heldFlows g.1 → a.reason = 0 → u.entryRun (max 1 (r.u8 0x14)) = some n →
       k = { owner := (s.box m).owner, st := .admitted
             notify := if bitOf (r.u32 0x10) 31 then none else some (bitsOf (r.u32 0x10) 0 18), group := r.u8 0x16
             flows := (g.1.zip a.figs).map (fun x => { x.1 with bound := max x.2.1 x.1.want }), ctxs := cs } →
       (g.2.setCon n (some k)).admitTasks (r.u8 0x16) cs = some t →
       exec (.contractOpen m) s = .next (t.respond m r .ok 0
         (openPayload n 0 ((k.flows.zip a.figs).map fun x => (x.1.bound, x.2.2)))) ∧
       t.con n = some k ∧ (∀ j, j ≠ n → t.con j = s.con j) ∧ ∀ c ∈ cs, (t.ctx c).admitted = true) ∧
     (∀ k, s.con (r.u32 0x10) = some k → k.owner = (s.box m).owner →
       (s.serving m 0x0402 anyForm = some r → u.conNeeded (r.u32 0x10) = false →
         exec (.contractClose m) s = .next (((u.releaseTasks (if k.st = .admitted ∨ k.st = .suspended then k.ctxs else [])).setCon
           (r.u32 0x10) none).respond m r .ok 0 [])) ∧
       (s.serving m 0x0403 anyForm = some r → exec (.contractQuery m) s = .next (u.respond m r .ok 0
         (padTo 32 (if k.flows = [] then k.entry s.now (r.u32 0x10) 0 none
           else (List.range k.flows.length).flatMap fun i => k.entry s.now (r.u32 0x10) i k.flows[i]?))))) ∧
     (s.serving m 0x0410 anyForm = some r → r.u8 0x10 < 140 → r.u8 0x11 < 140 → s.routerAbsent (r.u8 0x10) = false →
       s.routerAbsent (r.u8 0x11) = false → ∀ p, u.path (r.u8 0x10) (r.u8 0x11) = some p →
       ∃ bs, exec (.nocRoute m) s = .next (u.respond m r .ok 0 bs) ∧ bs.take 4 = leBytes 4 p.length ∧
         (p.length ≤ 44 → (bs.drop 4).take 44 = padTo 44 (p.map fun x => BitVec.ofNat 8 x)))) ∧
  (∀ (s : State),
     (∀ (c : ContractId) (k : Contract) (t0 : Nat), s.con c.val = some k → k.st = .suspended → k.revalAt = some t0 → t0 ≤ s.now →
       (k.flows.all fun f => !s.flowHeals f) = true → ∀ a : Admission,
       a = s.admission ((s.contracts.filter fun e => e.1 != c.val && decide (e.2.st = .admitted ∨ e.2.st = .suspended)).flatMap
         fun e => e.2.flows) (k.flows.map fun f => { f with want := f.bound }) →
       ∃ (t : State) (st : ConState), exec (.contractRevalidate c) s = .next t ∧
         t.con c.val = some { k with st := st, revalAt := none } ∧
         (a.reason = 0 → (k.flows.all fun f => !s.flowDrain f) = true → (k.ctxs = [] ∨
           (s.setCon c.val (some { k with st := .admitted })).grpFits k.group = true) → st = .admitted) ∧
         (k.cause = 2 → a.reason = 6 ∨ a.reason = 7 → st = .suspended) ∧
         (a.reason ≠ 0 → ¬ (k.cause = 2 ∧ (a.reason = 6 ∨ a.reason = 7)) →
           st = .demoted ∧ ∀ x ∈ k.ctxs, (t.ctx x).admitted = false)) ∧
     (∀ (n : RouterId) (dir : Fin 4) (n2 : Nat), neighbour n.val dir.val = some n2 →
       (∃ t : State, exec (.linkFailure n dir) s = .next t ∧ ∀ id q, s.req id = some q → q.out = true →
         s.usesLink q n.val n2 = true → t.req id = some { q with stage := .answered .resetAbort [], sent := false }) ∧
       (inMask (s.rtr n.val).fence.toNat dir.val = false → ∀ routes,
         ∃ t : State, exec (.linkFence n dir routes) s = .next t ∧ inMask (t.rtr n.val).fence.toNat dir.val = true ∧
           inMask (t.rtr n2).fence.toNat ((dir.val + 2) % 4) = true ∧ (∃ f ∈ t.flt.raised, f.src = 196 ∧ f.owners = [0]) ∧
           t.noc.changing = true)) ∧
     (∀ (n : RouterId) (dir : Fin 4) (id : Nat), s.arrivesFrom id n.val dir.val = true →
       exec (.routerHeader n dir id .clean) s = .next s ∧
       (∃ t : State, exec (.routerHeader n dir id .corrected) s = .next t ∧ (t.rtr n.val).hdrCe = satInc (s.rtr n.val).hdrCe ∧
         t.noc.req = s.noc.req ∧ ∀ j, j ≠ n.val → t.rtr j = s.rtr j) ∧
       (∃ t : State, exec (.routerHeader n dir id .uncorrectable) s = .next t ∧ (t.rtr n.val).hdrUe = satInc (s.rtr n.val).hdrUe ∧
         (∃ f ∈ t.flt.raised, f.src = 193 ∧ f.owners = [0]) ∧ ∀ n2, neighbour n.val dir.val = some n2 → ∀ i q, s.req i = some q →
           q.out = true → s.usesLink q n.val n2 = true → t.req i = some { q with stage := .answered .resetAbort [], sent := false })) ∧
     (∀ routes, s.noc.changing = false → exec (.routingChange routes) s = .next { s with
       noc.changing := true, noc.pendingFlip := true
       noc.table0 := if s.noc.epoch then s.detour routes else s.noc.table0
       noc.table1 := if s.noc.epoch then s.noc.table1 else s.detour routes }) ∧
     (s.noc.pendingFlip = true → exec .epochFlip s = .next { s with
       noc.epoch := !s.noc.epoch, noc.pendingFlip := false, noc.flipAt := s.now }) ∧
     (∀ ns, s.noc.changing = true → s.noc.pendingFlip = false →
       (∃ t : State, exec (.epochDrainEnd ns) s = .next t ∧ t.noc.changing = false ∧ t.noc.changes = s.noc.changes + 1 ∧
         t.noc.drainNs = ns ∧ t.noc.epoch = s.noc.epoch ∧ t.noc.req = s.noc.req) ∧
       (s.noc.flipAt + 4000 ≤ s.now → exec .epochDrainTimeout s = .next (s.raise 197 [0])))) ∧
  (∀ (n : RouterId) (s : State),
     ((s.rtr n.val).drainSince.isSome = true → s.niBusy n.val = false →
       ((∀ u i mb, s.ckr.powering = some (u, i, mb) → powerRouter u i ≠ n.val) → exec (.niDrained n) s = .next (s.setRtr n.val { s.rtr n.val with
         ni := some 3, proxy := some 2, drainSince := none })) ∧
       (∀ u i mb, s.ckr.powering = some (u, i, mb) → powerRouter u i = n.val →
         ∃ t : State, exec (.niDrained n) s = .next t ∧ (t.rtr n.val).ni = some 0 ∧ (t.rtr n.val).proxy = some 2 ∧
           t.ckr.powering = none ∧ t.powerOn u i = false)) ∧
     (∀ t0, (s.rtr n.val).drainSince = some t0 → t0 + 10000000 ≤ s.now →
       ∃ t : State, exec (.drainTimeout n) s = .next t ∧ (t.rtr n.val).drainSince = none ∧ (t.rtr n.val).proxy = some 2 ∧
         (∃ f ∈ t.flt.raised, f.src = 75 ∧ f.owners = [0]) ∧
         ∀ id q, s.req id = some q → q.out = true → q.src = n.val ∨ q.dst = n.val →
           t.req id = some { q with stage := .answered .resetAbort [], sent := false }))

/-- R6, R24, R275, R278, R280, R281, R283, R288, R290, R292: a request in the mesh whose data words are right reaches its target in order: the
vault, DRAM, fabric ports, the host and ring peers keep it to answer; control space, doorbells, the posting window and kits answer it with
their effect, and a push that finds its queue full waits at its NI as RETRY. An absent, powered-down or reset target's proxy answers it
without an effect; data words put right are counted with FSRC 194, and a word that cannot be is answered POISONED with FSRC 195 and no
effect. A request behind an earlier one of its flow and target waits. A regulated request leaves when its flow holds the tokens, which it
uses. -/
def Obligations.RequestsReachTheirTargets : Prop :=
  ∀ (id : Nat) (r : Req) (s : State), s.req id = some r →
    (r.stage = .mesh → s.behind id r = false →
      (s.proxyAnswer r = none →
        (s.place r.addr r.len = .vault ∨ (∃ g, s.place r.addr r.len = .dram g) ∨ (∃ sec off, s.place r.addr r.len = .fabric sec off) ∨
          (s.place r.addr r.len = .host ∧ s.outCheck r = .ok) →
          exec (.nocRequest id 0 0) s = .next (s.setReq id (some { r with stage := .target, since := s.now }))) ∧
        (∀ q off, s.place r.addr r.len = .ring q off → ∃ t : State, exec (.nocRequest id 0 0) s = .next t ∧
          t.req id = some { r with stage := .target, since := s.now }) ∧
        (s.answersAtOnce r.addr r.len = true → ∀ x, x = (if r.op = .write then s.serveWrite r.who r.owner r.addr r.data
            else s.serveRead r.who r.owner r.addr r.len) →
          (∀ st data t, x = .done st data t → exec (.nocRequest id 0 0) s = .next (t.answer id r st data)) ∧
          (x = .full → ∃ (t : State) (h : Held), exec (.nocRequest id 0 0) s = .next t ∧
            t.req id = some { r with stage := .retry, sent := false } ∧ t.qcu.held = s.qcu.held ++ [h] ∧ h.data = r.data ∧
            h.since = s.now)) ∧
        (∀ ce : Fin 65, 0 < min ce.val (ceilDiv r.data.length 8) → s.place r.addr r.len = .vault →
          ∃ t : State, exec (.nocRequest id ce 0) s = .next t ∧ t.req id = some { r with stage := .target, since := s.now } ∧
            (t.rtr r.dst).dataCe = satAdd (s.rtr r.dst).dataCe (min ce.val (ceilDiv r.data.length 8)) ∧
            ∃ f ∈ t.flt.raised, f.src = 194 ∧ f.owners = []) ∧
        (∀ ce ue : Fin 65, 0 < min ue.val (ceilDiv r.data.length 8) →
          ∃ t : State, exec (.nocRequest id ce ue) s = .next (t.answer id r .poisoned []) ∧
            (t.rtr r.dst).dataUe = satAdd (s.rtr r.dst).dataUe (min ue.val (ceilDiv r.data.length 8)) ∧
            ∃ f ∈ t.flt.raised, f.src = 195 ∧ f.owners = [r.owner])) ∧
      (∀ ce ue, (s.proxyAnswer r = some .absent → exec (.nocRequest id ce ue) s = .next (s.answer id r .absent [])) ∧
        (s.proxyAnswer r = some .domainOff → exec (.nocRequest id ce ue) s = .next (s.answer id r .domainOff [])) ∧
        (s.proxyAnswer r = some .resetAbort → exec (.nocRequest id ce ue) s =
          .next ((s.setRtr r.dst { s.rtr r.dst with abort := satInc (s.rtr r.dst).abort }).answer id r .resetAbort [])))) ∧
    (r.stage = .mesh → s.behind id r = true → ∀ ce ue, exec (.nocRequest id ce ue) s = .next s) ∧
    (∀ (c : Nat) (k : Contract) (fl : Flow), r.stage = .waiting → r.op ≠ .fence → r.flow ≠ 0 →
      s.flowOf r.src r.flow = some (c, k, fl) → s.flowRefuses fl (r.op == .write) r.addr r.len = false → k.st ≠ .demoted →
      1000 * min r.len fl.burst ≤ fl.bucket s.now → (s.issueTo r).1 = .ok →
      s.mayIssue id r (fl.port.getD (s.issueTo r).2.1) 2 = true →
      ∃ t : State, exec (.flowRelease id) s = .next t ∧
        (∃ q, t.req id = some q ∧ q.stage = .mesh ∧ q.vc = 2 ∧ q.dst = fl.port.getD (s.issueTo r).2.1 ∧ q.addr = r.addr ∧
          q.data = r.data ∧ q.epoch = s.noc.epoch) ∧
        t.con c = some { k with flows := k.flows.map fun (g : Flow) => if g = fl then
          { g with tokens := fl.bucket s.now - 1000 * min r.len fl.burst, tokenTime := s.now } else g })

/-- R280, R283, R284: the response of a request is delivered once those of every earlier request of its flow have been, and not
before; with a data word that cannot be put right it is delivered POISONED, counted with FSRC 195. User logic finds it among its responses.
A FENCE is answered once every earlier request of its NI is. -/
def Obligations.ResponsesKeepFlowOrder : Prop :=
  ∀ (id : Nat) (r : Req) (s : State), s.req id = some r →
    (∀ st data, r.stage = .answered st data →
      (s.earlier id r (fun q => q.flow == r.flow && q.op != .fence) = true → ∀ ce ue, exec (.nocResponse id ce ue) s = .next s) ∧
      (s.earlier id r (fun q => q.flow == r.flow && q.op != .fence) = false →
        exec (.nocResponse id 0 0) s = .next (s.deliver id r st data) ∧
        (∀ ce ue : Fin 65, 0 < min ue.val (ceilDiv data.length 8) →
          ∃ t : State, exec (.nocResponse id ce ue) s = .next (t.deliver id r .poisoned data) ∧
            (t.rtr r.src).dataUe = satAdd (s.rtr r.src).dataUe (min ue.val (ceilDiv data.length 8)) ∧
            ∃ f ∈ t.flt.raised, f.src = 195 ∧ f.owners = [r.owner]) ∧
        ∀ sec : SectorId, r.sink = .fabric sec → ∃ t : State, exec (.nocResponse id 0 0) s = .next t ∧ t.req id = none ∧
          (t.sector sec.val).responses = (s.sector sec.val).responses ++ [(r.flow, st, data)])) ∧
    (r.op = .fence → s.earlier id r (fun _ => true) = false → exec (.fence id) s = .next (s.deliver id r .ok []))

/-! ### The vault -/

/-- R303, R309: what an accepted write to the vault stores a read by the same requester returns, and every byte that the write does
not name keeps its value, but for those of a word that had never been written. -/
def Obligations.VaultReadsWhatWasWritten : Prop :=
  ∀ (who : Initiator) (o : Owner) (off : Nat) (bs : List Byte) (s : State), Memory.wf s = true →
    (s.vaultWrite who o off bs).1 = .ok →
    ((s.vaultWrite who o off bs).2.vaultRead who o off bs.length).1 = .ok ∧
    ((s.vaultWrite who o off bs).2.vaultRead who o off bs.length).2.1 = bs ∧
    ∀ a, (a < off ∨ off + bs.length ≤ a) → (s.wordState (a / 16) ≠ .unwritten ∨ a / 16 ∉ spanOf 16 off bs.length) →
      rdBytes (s.vaultWrite who o off bs).2.vlt.mem a 1 = rdBytes s.vlt.mem a 1

/-- R221, R222, R303 to R311: a request that waits at a vault port is served by a read or a write of its bytes, a write behind another's locked
sequence waits; an engine's LOCK of a free word opens its sequence with the word read, one of a locked word waits, and an UNLOCK closes it; the
side port reads 16 bytes, writes the lanes enabled, and drops and counts a write that collides; a requester without the pages
gets nothing but a fault note. How many accesses count as conflicts is free (log 128). R312, R314 to R316: the wipe writes every word of the secure part with zeros and then ends with WIPED set;
the scrubber reads written words and counts what the code finds, writes a corrected word back, and a word that fails, or shows a second
corrected error, takes a spare while there is one; a starved bank is reported; a page being freed is cleared to zero, and the command whose
last page it is completes. -/
def Obligations.VaultAccessesAndCareTakePlace : Prop :=
  (∀ (s : State),
     (∀ (id : Nat) (f : Finding) (r : Req), s.req id = some r → r.stage = .target → inVault r.addr r.len = true →
       (r.op = .read → ∃ u : State,
         u = (s.confTick r.src (spanOf 16 (r.addr - vaultBase) r.len).length).vaultFind ((r.addr - vaultBase) / 16) f ∧ exec (.vaultAccess id f) s = .next
         ((u.vaultRead r.who r.owner (r.addr - vaultBase) r.len).2.2.answer id r (u.vaultRead r.who r.owner (r.addr - vaultBase) r.len).1
           (u.vaultRead r.who r.owner (r.addr - vaultBase) r.len).2.1)) ∧
       (r.op = .write → s.vaultLocked r.who (r.addr - vaultBase) r.data.length = false →
         ∃ u : State,
           u = (s.confTick r.src (spanOf 16 (r.addr - vaultBase) r.len).length).vaultFind ((r.addr - vaultBase) / 16) f ∧
           exec (.vaultAccess id f) s = .next ((u.vaultWrite r.who r.owner (r.addr - vaultBase) r.data).2.answer id r
             (u.vaultWrite r.who r.owner (r.addr - vaultBase) r.data).1 [])) ∧
       (r.op = .write → s.vaultLocked r.who (r.addr - vaultBase) r.data.length = true → exec (.vaultAccess id f) s = .next s) ∧
       (∀ (g : EngineId) (v : Nat), r.who = .engine g → v = (r.addr - vaultBase) / 16 →
         (r.op = .lock → (s.vlt.locks.all fun l => l.1 != v) = true → ∃ u : State,
           u = (s.confTick r.src (spanOf 16 (r.addr - vaultBase) r.len).length).vaultFind v f ∧ exec (.vaultAccess id f) s =
             .next ((u.vaultGrant g r.owner v).2.2.answer id r (u.vaultGrant g r.owner v).1 (u.vaultGrant g r.owner v).2.1)) ∧
         (r.op = .lock → (s.vlt.locks.any fun l => l.1 == v) = true → exec (.vaultAccess id f) s = .next s) ∧
         (r.op = .unlock → exec (.vaultAccess id f) s = .next ((s.vaultClose g r.owner v r.data).2.2.answer id r
           (s.vaultClose g r.owner v r.data).1 [if (s.vaultClose g r.owner v r.data).2.1 then 0#8 else 1#8])))) ∧
     (∀ (q : SideRequester) (off : BitVec 21) (be : BitVec 16) (data : BitVec 128) (n : Nat), n = min 16 (0x200000 - off.toNat) →
       (s.vaultCheck (sideInit q) (s.ownerOf (sideInit q)) off.toNat n = none →
         (∀ c x, x = (s.confTick (sideSource q) (spanOf 16 off.toNat n).length).vaultRead (sideInit q) (s.ownerOf (sideInit q)) off.toNat n →
           exec (.vaultSideChannelAccess q off false be data c) s = .next { x.2.2 with readData := x.2.1, vlt.sideStatus := x.1 }) ∧
         (s.vaultLocked (sideInit q) off.toNat n = false →
           exec (.vaultSideChannelAccess q off true be data true) s =
             .next { s with vlt.collide := satInc s.vlt.collide, vlt.sideStatus := .collided } ∧
           (Memory.wf s = true → ∃ t : State, exec (.vaultSideChannelAccess q off true be data false) s = .next t ∧
             (∀ i, i < n → be.getLsbD i = true → rdBytes t.vlt.mem (off.toNat + i) 1 = [BitVec.ofNat 8 (data.toNat / 256 ^ i)]) ∧
             (∀ i, i < n → be.getLsbD i = false → s.wordState ((off.toNat + i) / 16) ≠ .unwritten →
               rdBytes t.vlt.mem (off.toNat + i) 1 = rdBytes s.vlt.mem (off.toNat + i) 1) ∧
             ∀ a, a / 16 ≠ off.toNat / 16 → a / 16 ≠ off.toNat / 16 + 1 → rdBytes t.vlt.mem a 1 = rdBytes s.vlt.mem a 1))) ∧
       (∀ st, s.vaultCheck (sideInit q) (s.ownerOf (sideInit q)) off.toNat n = some st → ∀ w c,
         exec (.vaultSideChannelAccess q off w be data c) s =
           .next { s.raiseBy 198 (sideInit q) (s.ownerOf (sideInit q)) with vlt.sideStatus := st }))) ∧
  (∀ (s : State),
     (s.vlt.wiping = true → ∃ t : State, exec .secureWipe s = .next t ∧ t.vlt.wiping = true ∧
       (∀ a, 0x1E00000 ≤ a → a < 0x2000000 → rdBytes t.vlt.mem a 1 = [0#8]) ∧
       (∀ v, 0x1E0000 ≤ v → v < 0x200000 → t.wordState v = .clean) ∧
       (∀ a, a < 0x1E00000 → rdBytes t.vlt.mem a 1 = rdBytes s.vlt.mem a 1) ∧ t.vlt.wipeWritten = true) ∧
     (s.vlt.wiping = true → s.vlt.wipeWritten = true → exec .secureWipeComplete s = .next { s with
       vlt.wiping := false, vlt.wipedS := true, vlt.wipeWritten := false }) ∧
     (∀ (b : Fin 64) (row : Fin 32768) (v : Nat), v = vaultWordAt b.val row.val → s.vlt.scrubEn = true → s.wordState v ≠ .unwritten →
       (∀ f, ∃ t : State, exec (.vaultScrubRead b row f) s = .next t ∧ (t.bankScrub b.val).row = row.val + 1 ∧ t.vlt.mem = s.vlt.mem) ∧
       (s.wordState v ≠ .poisoned → ∃ t : State, exec (.vaultScrubRead b row .corrected) s = .next t ∧
         t.wordState v = .correctable ∧ (t.bankScrub b.val).pending = some v ∧ t.vlt.ce = satInc s.vlt.ce ∧
         ∃ f ∈ t.flt.raised, f.src = 448) ∧
       (∃ t : State, exec (.vaultScrubRead b row .uncorrectable) s = .next t ∧ t.wordState v = .poisoned ∧
         t.vlt.ue = satInc s.vlt.ue ∧ ∃ f ∈ t.flt.raised, f.src = 451 ∧ f.owners = [(s.vpage (v / 4096)).owner])) ∧
     (∀ (b : Fin 64) (row : Fin 32768) (v : Nat), v = vaultWordAt b.val row.val → (s.bankScrub b.val).pending = some v →
       (∀ l ∈ s.vlt.locks, l.1 ≠ v) → s.wordState v = .correctable → ∃ t : State, exec (.vaultScrubWriteback b row) s = .next t ∧
         t.wordState v = .clean ∧ v ∈ t.vlt.once ∧ (t.bankScrub b.val).pending = none ∧ t.vlt.mem = s.vlt.mem) ∧
     (∀ b : Fin 64, exec (.bankStarved b) s =
       .next ({ s with vlt.starved := true, vlt.starvedBank := BitVec.ofNat 6 b.val }.raise 455 [0])) ∧
     (∀ w : BitVec 21, s.wordState w.toNat = .poisoned → w.toNat ∉ s.vlt.remap →
       (s.vlt.remap.length < 32 → ∃ t : State, exec (.vaultRemap w) s = .next t ∧ t.vlt.remap = s.vlt.remap ++ [w.toNat] ∧
         t.wordState w.toNat = .poisoned ∧ (∃ f ∈ t.flt.raised, f.src = 452) ∧ t.vlt.mem = s.vlt.mem) ∧
       (32 ≤ s.vlt.remap.length → exec (.vaultRemap w) s = .next ({ s with vlt.remapFull := true }.raise 454 [0]))) ∧
     (∀ w : BitVec 21, s.wordState w.toNat = .correctable → w.toNat ∈ s.vlt.once → w.toNat ∉ s.vlt.remap → s.vlt.remap.length < 32 →
       ∃ t : State, exec (.vaultRemap w) s = .next t ∧ t.vlt.remap = s.vlt.remap ++ [w.toNat] ∧ t.wordState w.toNat = .clean ∧
         (∃ f ∈ t.flt.raised, f.src = 452) ∧ t.vlt.mem = s.vlt.mem) ∧
     (∀ p : Fin 512, (s.vpage p.val).clearing = true → ∃ t : State, exec (.vaultPageCleared p) s = .next t ∧
       (t.vpage p.val).clearing = false ∧ (∀ a, 65536 * p.val ≤ a → a < 65536 * (p.val + 1) → rdBytes t.vlt.mem a 1 = [0#8]) ∧
       (∀ a, a < 65536 * p.val ∨ 65536 * (p.val + 1) ≤ a → rdBytes t.vlt.mem a 1 = rdBytes s.vlt.mem a 1) ∧
       (∀ k, k ≠ p.val → t.vpage k = s.vpage k) ∧
       ∀ (m : Mb) (first n : Nat), s.vlt.freeing = [(m, first, n)] →
         (∀ j, j < n → first + j = p.val ∨ (s.vpage (first + j)).clearing = false) →
         t = ({ (s.vaultClear (4096 * p.val) 4096).setVpage p.val { s.vpage p.val with clearing := false } with
           vlt.freeing := [] } : State).finish m .ok))

/-- R301, R319, KL-02: VAULT_ALLOC takes a run of free pages of a part for the issuer, the secure part only for a secure owner;
VAULT_FREE gives up the issuer's pages that hold no queue and lets them be cleared; VAULT_QUERY and VAULT_CONFIG act on the
scrubber's registers, the first lap read after a remap being one lap stale. -/
def Obligations.VaultCommandsComplete : Prop :=
  ∀ (m : Mb) (r : Running) (s : State),
    (s.serving m 0x0640 anyForm = some r → r.u32 0x10 ≤ 2 → 1 ≤ r.u32 0x14 → r.u32 0x14 ≤ (partPages (r.u32 0x10)).2 →
      (r.u32 0x10 = 2 → s.isSecure (s.box m).owner = true) →
      (∃ i, i + r.u32 0x14 ≤ (partPages (r.u32 0x10)).2 ∧
        ∀ j, j < r.u32 0x14 → s.pageFree ((partPages (r.u32 0x10)).1 + i + j) = true) →
      ∃ (p : Nat) (t : State), exec (.vaultAlloc m) s = .next (t.respond m r .ok 0 (leBytes 4 p)) ∧
        (partPages (r.u32 0x10)).1 ≤ p ∧ p + r.u32 0x14 ≤ (partPages (r.u32 0x10)).1 + (partPages (r.u32 0x10)).2 ∧
        (∀ k, p ≤ k → k < p + r.u32 0x14 → s.pageFree k = true ∧
          t.vpage k = { owner := (s.box m).owner, alloc := true, clearing := false }) ∧
        ∀ k, k < p ∨ p + r.u32 0x14 ≤ k → t.vpage k = s.vpage k) ∧
    (s.serving m 0x0641 anyForm = some r → 1 ≤ r.u32 0x14 → r.u32 0x10 + r.u32 0x14 ≤ 512 →
      (∀ k, r.u32 0x10 ≤ k → k < r.u32 0x10 + r.u32 0x14 → (s.vpage k).alloc = true ∧ (s.vpage k).owner = (s.box m).owner) →
      s.queueIn (r.u32 0x10) (r.u32 0x14) = false →
      ∃ t : State, exec (.vaultFree m) s = .next t ∧ t.vlt.freeing = s.vlt.freeing ++ [(m, r.u32 0x10, r.u32 0x14)] ∧
        (∀ k, r.u32 0x10 ≤ k → k < r.u32 0x10 + r.u32 0x14 → (t.vpage k).alloc = false ∧ (t.vpage k).clearing = true) ∧
        (∀ k, k < r.u32 0x10 ∨ r.u32 0x10 + r.u32 0x14 ≤ k → t.vpage k = s.vpage k) ∧
        (t.box m).run = some { r with long := true }) ∧
    (s.serving m 0x0642 anyForm = some r → ∃ p, exec (.vaultQuery m) s = .next
      (({ s.took m with vlt.stale := false } : State).respond m r .ok 0 p) ∧
      p.take 8 = leBytes 4 s.vltStat.toNat ++ leBytes 4 (if s.vlt.stale then s.vlt.lapPrev else s.vlt.lapUs).toNat) ∧
    (s.serving m 0x0643 anyForm = some r → s.hasConfig (s.box m).owner = true → r.u32 0x10 ≤ 3 → 4 ≤ r.u32 0x14 → r.u32 0x14 ≤ 16 →
      exec (.vaultConfig m) s = .next (({ s.took m with
        vlt.scrubEn := bitOf (r.u32 0x10) 0
        vlt.div := BitVec.ofNat 5 (r.u32 0x14)
        vlt.conf := if bitOf (r.u32 0x10) 1 then [] else s.vlt.conf } : State).respond m r .ok 0 []))

/-! ### DRAM and its encryption -/

/-- R322, R325, R328 to R330: what an accepted write to an unprotected region with a running port stores a read by the same requester returns,
and every other byte keeps its value. R352 to R354: a line written to a protected region decrypts to what was written and its tag
verifies, also where the write starts a page re-encryption or falls into one; and a re-encryption leaves every line of its range with the
contents it had. R328, R353 to R356: a request to a protected region whose turn it is at its port is served; a line whose tag fails is served as a
line that does not verify; a tree node that fails gives INTEGRITY
with the alarm and FSRC 392 + r; a metadata line beyond the code freezes the port; a write that would start a 17th re-encryption waits. -/
def Obligations.ProtectedDramKeepsContents : Prop :=
  (∀ (who : Initiator) (o : Owner) (a g : Nat) (bs : List Byte) (s : State), Memory.wf s = true → s.regionAt a = some g →
     (s.region g).enc = none → (∀ l ∈ spanOf 64 a bs.length, s.portGated (s.region g) (regionMap (s.region g) (64 * l)).1 = false) →
     (s.dramWrite who o a bs).1 = .ok →
     ((s.dramWrite who o a bs).2.dramRead who o a bs.length).1 = .ok ∧
     ((s.dramWrite who o a bs).2.dramRead who o a bs.length).2.1 = bs ∧
     ∀ b, b < a ∨ a + bs.length ≤ b → rdBytes (s.dramWrite who o a bs).2.dram.mem b 1 = rdBytes s.dram.mem b 1) ∧
  ((∀ (s : State) (r i : Nat) (plain : BitVec 512), r < 8 →
     (s.mxeWriteLine r i plain).mxePlain r i = plain ∧ (s.mxeWriteLine r i plain).mxeTagOk r i = true ∧
     ∀ j, j ≠ i → (s.mxeWriteLine r i plain).mxePlain r j = s.mxePlain r j) ∧
   (∀ (s : State) (r : Fin 8) (page : Nat), ∃ t : State, exec (.pageReencrypt r page) s = .next t ∧
     ∀ i, t.mxePlain r.val i = s.mxePlain r.val i)) ∧
  (∀ (id : Nat) (r : Req) (g : Region) (e k pa : Nat) (s : State),
     s.requestTurn k id r = true →
     (s.mxeWaiting id .read = some (r, g, e, k, pa) →
       exec (.mxeRead id .ok) s = .next (s.dramServe id r) ∧
       (∀ n, s.dramCheck r.who r.owner r.addr r.len = .ok n →
         exec (.mxeRead id .tagFail) s = .next ((s.mxeSpoil e ((r.addr - g.base) / 64)).dramServe id r) ∧
         (∃ t : State, exec (.mxeRead id .treeFail) s = .next t ∧
           t.req id = some { r with stage := .answered .integrity (leBytes r.len 0) } ∧ (t.range e).fail = satInc (s.range e).fail ∧
           ∃ f ∈ t.flt.raised, f.src = 392 + e) ∧
         exec (.mxeRead id .memError) s = .next (s.portFreeze k 4 pa 0#128))) ∧
     (s.mxeWaiting id .write = some (r, g, e, k, pa) →
       ((∀ i ∈ spanOf 64 (r.addr - g.base) r.len, s.mxeMustWait e i = false) → exec (.mxeWrite id .ok) s = .next (s.dramServe id r)) ∧
       ((∃ i ∈ spanOf 64 (r.addr - g.base) r.len, s.mxeMustWait e i = true) → ∀ f, exec (.mxeWrite id f) s = .next (s.raise 410 []))))

/-- R349, R355, R361: a range is created with a fresh key or an imported one and deleted once no region uses it; MXE_QUERY answers its
registers; the counter cache writes a dirty line back, and a line that cannot be read again fails its range. R325 to R327, R341 to R343,
R346: the DRAM commands: a region is created on free port space and cleared to zero, in idle cycles of its ports, before it is accessible, and one out of use is
deleted; a port's registers, bank map and freeze record are read and set, and it enters and leaves self-refresh and is reset. -/
def Obligations.RangeAndDramCommandsComplete : Prop :=
  (∀ (s : State),
     (∀ (m : Mb) (r : Running), s.variant.mxe = true →
       (s.serving m 0x0620 anyForm = some r → r.u8 0x10 ≤ 6 → r.fld 0x12 6 = 0 → (s.range (r.u8 0x10)).keyed = false →
         ∀ (key : BitVec 256) (u : State),
           ((r.u8 0x11 = 0 ∧ r.fld 0x18 40 = 0 ∧ key = ((s.took m).fresh 256).1 ∧ u = ((s.took m).fresh 256).2) ∨
             (r.u8 0x11 = 1 ∧ s.sec.lc ≠ .blank ∧ u = s.took m ∧ ∃ dk k, s.sec.devKey = some dk ∧
               Config.kwUnwrap dk (r.bytes 0x18 40) = some k ∧ key = BitVec.ofNat 256 (leNat k))) →
           ∀ g : MRange, g = { keyed := true, key := key, owner := (s.box m).owner, imported := r.u8 0x11 = 1
                               reenc := (s.range (r.u8 0x10)).reenc, fail := (s.range (r.u8 0x10)).fail } →
           exec (.mxeRangeCreate m) s = .next (({ u.setRange (r.u8 0x10) g with mxe.keyless := false } : State).respond m r .ok 0 [])) ∧
       (s.serving m 0x0621 anyForm = some r → r.u8 0x10 ≤ 6 →
         (s.range (r.u8 0x10)).owner = (s.box m).owner → (s.range (r.u8 0x10)).region = none →
         ∀ g : MRange, g = { reenc := (s.range (r.u8 0x10)).reenc, fail := (s.range (r.u8 0x10)).fail } →
         exec (.mxeRangeDelete m) s = .next (((s.took m).setRange (r.u8 0x10) g).respond m r .ok 0 [])) ∧
       (s.serving m 0x0622 anyForm = some r → r.u8 0x10 ≤ 7 → exec (.mxeQuery m) s = .next ((s.took m).respond m r .ok 0
         (([s.mxeStat, s.mxe.alarm] ++ (List.range 4).map (s.rangeWord (r.u8 0x10))).map fun w => leBytes 4 w.toNat).flatten))) ∧
     (∀ (line : Fin 8192) (q : Fin 8) (p : Nat), tget s.mxe.cache none line.val = some (q, p, true) →
       exec (.counterCacheWriteback line) s = .next { s with mxe.cache := tput s.mxe.cache none line.val (some (q, p, false)) } ∧
       ∀ r, ∃ t : State, exec (.counterCacheError line r .uncorrectable) s = .next t ∧ (t.range q.val).failed = true ∧
         (∃ f ∈ t.flt.raised, f.src = 400 + q.val ∧ f.owners = [0]) ∧ ∀ k, k ≠ q.val → t.range k = s.range k) ∧
     (∀ (line : Fin 8192) (r : Fin 8), exec (.counterCacheError line r .corrected) s = .next (s.raise 408 []))) ∧
  (∀ (m : Mb) (r : Running) (s : State),
     (s.serving m 0x0601 (fun r => r.u8 0x10 = 1) = some r → r.u8 0x11 ≤ 14 → r.u8 0x12 ≠ 0 → 8 ≤ r.u8 0x13 → r.u8 0x13 ≤ 16 →
       bitsOf (r.u32 0x14) 3 28 = 0 →
       (∀ k ∈ maskList 8 (r.u8 0x12), s.dportPresent k = true ∧ (s.dport k).st = .ready) →
       (bitOf (r.u32 0x14) 31 = false → s.variant.mxe = true ∧ r.u32 0x14 % 8 ≠ 7 ∧ (s.range (r.u32 0x14 % 8)).keyed = true ∧
         (s.range (r.u32 0x14 % 8)).owner = (s.box m).owner ∧ (s.range (r.u32 0x14 % 8)).region = none) →
       r.u64 0x18 % 2 ^ 20 = 0 → r.u64 0x20 % 2 ^ 20 = 0 → r.u64 0x20 ≠ 0 →
       r.u64 0x20 % ((maskList 8 (r.u8 0x12)).length * 2 ^ r.u8 0x13) = 0 → r.u64 0x18 + r.u64 0x20 ≤ vaultBase →
       (s.region (r.u8 0x11)).defined = false → s.regionOverlap (r.u64 0x18) (r.u64 0x20) = false →
       ∀ pb, s.findPbase (r.u8 0x12) (r.u64 0x20 / (maskList 8 (r.u8 0x12)).length) = some pb →
       ∃ t : State, exec (.dramRegionCreate m) s = .next t ∧ t.region (r.u8 0x11) = {
           defined := true, owner := (s.box m).owner, base := r.u64 0x18, size := r.u64 0x20, ports := BitVec.ofNat 8 (r.u8 0x12)
           gexp := r.u8 0x13, pbase := pb, enc := if bitOf (r.u32 0x14) 31 then none else some (Fin.ofNat 8 (r.u32 0x14 % 8))
           clearing := true, creator := some m } ∧
         (∀ j, j ≠ r.u8 0x11 → t.region j = s.region j) ∧ (t.box m).run = some { r with long := true }) ∧
     (∀ g : Fin 16, (s.region g.val).clearing = true → (∀ k ∈ maskList 8 (s.region g.val).ports.toNat, (s.dport k).st ≠ .frozen ∧ s.portIdle k = true) →
       ∃ t : State, exec (.regionClearComplete g) s = .next t ∧ (t.region g.val).clearing = false ∧
         (∀ a, (s.region g.val).base ≤ a → a < (s.region g.val).base + (s.region g.val).size → rdBytes t.dram.mem a 1 = [0#8]) ∧
         (∀ a, a < (s.region g.val).base ∨ (s.region g.val).base + (s.region g.val).size ≤ a →
           rdBytes t.dram.mem a 1 = rdBytes s.dram.mem a 1)) ∧
     (s.serving m 0x0601 (fun r => r.u8 0x10 = 2) = some r → r.u8 0x11 ≤ 14 → (s.region (r.u8 0x11)).defined = true →
       (s.region (r.u8 0x11)).owner = (s.box m).owner → s.regionUsed (r.u8 0x11) = false →
       ∃ t : State, exec (.dramRegionDelete m) s = .next (t.respond m r .ok 0 []) ∧ (t.region (r.u8 0x11)).defined = false ∧
         (∀ j, j ≠ r.u8 0x11 → t.region j = s.region j) ∧ t.dram.mem = s.dram.mem) ∧
     (∀ k, k = r.u32 0x10 → k < 8 → s.dportPresent k = true →
       (s.serving m 0x0602 anyForm = some r → exec (.dramQuery m) s = .next ((s.took m).respond m r .ok 0
         ((List.range 11).map fun i => leBytes 4 (s.dmcWord k i).toNat).flatten)) ∧
       (s.serving m 0x0606 anyForm = some r → (s.hasConfig (s.box m).owner = true ∨ (s.box m).owner ∈ s.portOwners k) →
         ∀ f, (s.dport k).record = some f → exec (.freezeRecord m) s = .next ((if r.bit 0x14 0 then
           (s.took m).setDport k { s.dport k with record := none } else s.took m).respond m r .ok 0 f.bytes)) ∧
       (s.hasConfig (s.box m).owner = true →
         (s.serving m 0x0603 anyForm = some r →
           (∀ g, g < 16 → (s.region g).defined = true → inMask (s.region g).ports.toNat k = false) →
           (∀ j, j < 6 → (s.dport k).maskOk (r.u32 (0x14 + 4 * j)) = true) → ∃ t : State,
           exec (.dramMap m) s = .next (t.respond m r .ok 0 []) ∧
           (∀ j, j < 6 → tget (t.dport k).bmap 0#30 j = BitVec.ofNat 30 (r.u32 (0x14 + 4 * j))) ∧ ∀ j, j ≠ k → t.dport j = s.dport j) ∧
         (s.serving m 0x0604 (fun r => r.u32 0x14 = 1) = some r → (s.dport k).st = .ready → s.portBusy k = false →
           ∃ t : State, exec (.dramSelfrefEnter m) s = .next (t.respond m r .ok 0 []) ∧ t = (s.took m).selfrefEnter k ∧
             ((∀ e ∈ s.contracts, s.conAt e.2 (.dport (Fin.ofNat 8 k)) = false) → (t.dport k).st = .selfref)) ∧
         (s.serving m 0x0604 (fun r => r.u32 0x14 = 2) = some r → (s.dport k).st = .selfref →
           ∃ t : State, exec (.dramSelfrefExit m) s = .next (t.respond m r .ok 0 []) ∧ (t.dport k).st = .ready) ∧
         (s.serving m 0x0605 anyForm = some r → r.u32 0x14 ≤ 1 →
           (s.dport k).st = .frozen ∨ (r.u32 0x14 = 1 ∧ ((s.dport k).st = .ready ∨ (s.dport k).st = .failed)) →
           ∃ t : State, exec (.dramPortReset m) s = .next t ∧ (t.dport k).st = .resetting ∧ (t.dport k).resetBy = some m ∧
             (t.box m).run = some { r with long := true }))))

/-- R324, R328, R331 to R333, R337 to R339: a request to an unprotected region whose turn it is, is performed, and the data of one to a protected region is
issued; refresh debt grows at each interval to at most 4
and falls with each REFsb that has its turn; a hot reading doubles the rate, a device with 64 corrections in a second is erased, training brings a port to
READY or FAILED, retraining takes the port every 128 µs, and the patrol reads on where the
port is idle, freezing its port on an unknown bad line. R340 to R343: a port freezes on
an uncorrectable line, on its command path or on a second ALERT_n within 1 ms, answers every pending request FROZEN and keeps the record;
a reset of it makes it READY, the line that froze it in the poison table if it is still bad, or FAILED; a request wakes a port from self-refresh. -/
def Obligations.DramPortsWorkFreezeAndRecover : Prop :=
  (∀ (k : PortId) (s : State),
     (∀ (id g k' pa : Nat) (r : Req), s.dramWaiting id = some (r, g, k', pa) → r.drawn = false → s.requestTurn k' id r = true →
       ∃ u : State, u.dram.mem = s.dram.mem ∧ u.dport k' = { s.dport k' with commands := (u.dport k').commands } ∧
         (u.dport k').commands.length ≤ 32 ∧ ((s.region g).enc = none → exec (.dramRequest id .clean) s = .next (u.dramServe id r)) ∧
         ((s.region g).enc ≠ none → exec (.dramRequest id .clean) s = .next (u.setReq id (some { r with drawn := true })))) ∧
     ((s.dport k.val).st = .ready → ∃ t : State, exec (.refreshInterval k) s = .next t ∧
       ∀ b, b < (s.dport k.val).sets → (t.dport k.val).debtOf b = min 4 ((s.dport k.val).debtOf b + 1)) ∧
     (∀ (rank : Fin 2) (bank : Fin 4), 4 * rank.val + bank.val < (s.dport k.val).sets →
       (s.dport k.val).debtOf (4 * rank.val + bank.val) ≠ 0 → s.refsbTurn k.val (4 * rank.val + bank.val) = true →
       ∃ t : State, exec (.refsb k rank bank) s = .next t ∧
         (t.dport k.val).debtOf (4 * rank.val + bank.val) + 1 = (s.dport k.val).debtOf (4 * rank.val + bank.val) ∧
         (3 ≤ (s.dport k.val).debtOf (4 * rank.val + bank.val) → ∃ f ∈ t.flt.raised, f.src = 256 + 16 * k.val + 7)) ∧
     (∀ v : BitVec 3, (s.dport k.val).st = .ready →
       (3 ≤ v.toNat → (s.dport k.val).rate2x = false → ∃ t : State, exec (.mr4Reading k v) s = .next t ∧
         (t.dport k.val).rate2x = true ∧ (t.dport k.val).mr4 = v ∧ ∃ f ∈ t.flt.raised, f.src = 256 + 16 * k.val + 6) ∧
       (v.toNat < 3 → (s.dport k.val).rate2x = true → ∃ t : State, exec (.mr4Reading k v) s = .next t ∧
         ((t.dport k.val).rate2x = true ↔ (s.dport k.val).cool = 0))) ∧
     (∀ (rank : Fin 2) (dev : Fin 10), s.dportPresent k.val = true →
       64 ≤ (tget (s.dport k.val).devsec (0, 0) (10 * rank.val + dev.val)).2 →
       (if rank = 0 then (s.dport k.val).erased0 else (s.dport k.val).erased1) = 0xF#4 →
       ∃ t : State, exec (.deviceErase k rank dev) s = .next t ∧
         (if rank = 0 then (t.dport k.val).erased0 else (t.dport k.val).erased1) = BitVec.ofNat 4 dev.val ∧
         (∃ f ∈ t.flt.raised, f.src = 256 + 16 * k.val + 1) ∧ t.flt.causes.getLsbD 0 = true) ∧
     (∀ drift, (s.dport k.val).st = .ready → s.retrainDue k.val = true → ∃ t : State, exec (.retrainingSlot k drift) s = .next t ∧
       (t.dport k.val).retrains = (s.dport k.val).retrains + 1 ∧ (t.dport k.val).retrainAt = some (s.now + 128000) ∧
       (t.dport k.val).slotEnd = s.now + 100 ∧
       (drift = true → ∃ f ∈ t.flt.raised, f.src = 256 + 16 * k.val + 9)) ∧
     (∀ (line : BitVec 30) (r a : Nat), s.portGlobal k.val (64 * line.toNat) = some (r, a) → (s.dport k.val).st = .ready →
       (s.dport k.val).scrubEn = true → (s.region r).clearing = false → s.portIdle k.val = true →
       (line.toNat ∉ (s.dport k.val).bad → ∃ t : State, exec (.patrolRead k line .clean) s = .next t ∧
         (t.dport k.val).patrol = line.toNat + 1 ∧ (t.dport k.val).st = .ready) ∧
       (line.toNat ∉ (s.dport k.val).poison → ∃ t : State, exec (.patrolRead k line .uncorrectable) s = .next t ∧
         (t.dport k.val).st = .frozen ∧ (t.dport k.val).freezeCause = 3 ∧ (t.dport k.val).record.isSome = true)) ∧
     ((s.dport k.val).scrubEn = true → (s.dport k.val).st = .ready →
       (s.dport k.val).lapH.toNat * 3600 * 10 ^ 9 * 11 < (s.now - (s.dport k.val).lapStart) * 10 →
       exec (.patrolLate k) s = .next (s.raise (256 + 16 * k.val + 10) [0])) ∧
     (s.mbx.ready = true → s.dportPresent k.val = true → (s.dport k.val).st = .untrained ∨ (s.dport k.val).st = .training →
       exec (.portTraining k none) s = .next ((s.setDport k.val { s.dport k.val with st := .failed }).raise (256 + 16 * k.val + 8) [0]) ∧
       ∀ res : TrainResult, ∃ t : State, exec (.portTraining k (some res)) s = .next t ∧ (t.dport k.val).st = .ready ∧
         (t.dport k.val).ranks = res.ranks ∧ (t.dport k.val).rate = res.rate ∧ 480 ≤ (t.dport k.val).b1x.toNat ∧
         560 ≤ (t.dport k.val).b2x.toNat)) ∧
  (∀ (k : PortId) (s : State),
     (∀ (cause : Fin 7) (line : BitVec 36) (syn : BitVec 128), cause.val ≠ 0 → (s.dport k.val).st = .ready ∨ (s.dport k.val).st = .selfref →
       ∃ t : State, exec (.portFreeze k cause line syn) s = .next t ∧ (t.dport k.val).st = .frozen ∧
         (t.dport k.val).freezeCause = cause.val ∧ (t.dport k.val).record.isSome = true ∧
         (∃ f ∈ t.flt.raised, f.src = 256 + 16 * k.val + 3) ∧
         ∀ id q, s.req id = some q → q.dst = dportRouter k.val → q.stage = .target →
           ∃ q', t.req id = some q' ∧ q'.stage = .answered .frozen []) ∧
     ((s.dport k.val).st = .ready →
       ((∀ t0, (s.dport k.val).lastAlert = some t0 → t0 + 1000000 ≤ s.now) → exec (.alertN k) s = .next
         ((s.setDport k.val { s.dport k.val with lastAlert := some s.now }).raise (256 + 16 * k.val + 5) [])) ∧
       (∀ t0, (s.dport k.val).lastAlert = some t0 → s.now < t0 + 1000000 → ∃ t : State, exec (.alertN k) s = .next t ∧
         (t.dport k.val).st = .frozen ∧ (t.dport k.val).freezeCause = 6)) ∧
     ((s.dport k.val).st = .resetting →
       (∃ t : State, exec (.portResetComplete k true) s = .next t ∧ (t.dport k.val).st = .ready ∧
         (∀ l, l ∈ (s.dport k.val).poison → (s.dport k.val).poison.length ≤ 64 → l ∈ (t.dport k.val).poison) ∧
         (∀ f : FreezeRec, (s.dport k.val).record = some f → f.cause ≤ 4 → f.line.toNat / 64 ∈ (s.dport k.val).bad →
           (s.dport k.val).poison.length < 64 → f.line.toNat / 64 ∈ (t.dport k.val).poison) ∧ t.dram.mem = s.dram.mem) ∧
       (∃ t : State, exec (.portResetComplete k false) s = .next t ∧ (t.dport k.val).st = .failed ∧
         ∃ f ∈ t.flt.raised, f.src = 256 + 16 * k.val + 8)) ∧
     ((s.dport k.val).st = .selfref → s.portPending k.val ≠ [] →
       ∃ t : State, exec (.selfrefWake k) s = .next t ∧ (t.dport k.val).st = .ready))

/-! ### Clocks, power and resets -/

/-- R422 to R428, R436: the reference is taken once, the chassis clock before the oscillator; a monitor window records edges and deviation,
and a source that fails it is not PASS; a failed source's domains fall back to IOSC losing eight edges, or, with a stopped clock, end
their switching at the timeout with FSRC 73; they return once the source is READY again where AUTO_RETURN allows; a global clock moves to
a READY source and otherwise records the refusal. R424, R430, R436 to R438: the clock commands answer the clock registers, switch a
domain, the reference or a global clock, set the monitor's limits and clear its flags, and gate a present unit's clock; CHIP_RESET asks
for a reset 1 ms later with cause 5. -/
def Obligations.ClocksFailOverAndFollowCommands : Prop :=
  (∀ (s : State),
     (∀ chassisOk xoOk, s.ckr.ref = 0 → s.ckr.por = false →
       (chassisOk = true ∨ xoOk = true → ∃ t : State, exec (.referenceSelect chassisOk xoOk) s = .next t ∧
         t.ckr.ref = (if chassisOk then 1 else 2) ∧ t.ckr.ioscCal = s.ckr.ioscNow ∧ ∀ d, d < 4 → (t.clkDom d).iosc = false) ∧
       (chassisOk = false → xoOk = false → exec (.referenceSelect chassisOk xoOk) s = .next ((s.raise 64 [0]).raise 65 [0]))) ∧
     (∀ (i : Fin 8) (edges : Bool) (ppm : BitVec 24), i ≠ 2 → ∃ t : State, exec (.monitorWindow i edges ppm) s = .next t ∧
       (t.clkSrc i.val).edges = edges ∧ (t.clkSrc i.val).devs = (ppm :: (s.clkSrc i.val).devs).take 64 ∧
       (edges = false ∨ 100000 < ppm.toInt.natAbs → (t.clkSrc i.val).pass = false ∧ (t.clkSrc i.val).ready = false ∧
         ((s.clkSrc i.val).pass = true → (t.clkSrc i.val).failS = true)) ∧ ∀ j, j ≠ i.val → t.clkSrc j = s.clkSrc j) ∧
     (∀ ppm : BitVec 24, ((ppm.toInt - s.ckr.ioscCal.toInt).natAbs ≤ 2000 →
         exec (.ioscCrossCheck ppm) s = .next { s with ckr.ioscNow := ppm }) ∧
       (2000 < (ppm.toInt - s.ckr.ioscCal.toInt).natAbs → (∀ d, d < 4 → (s.clkDom d).switching = false) →
         exec (.ioscCrossCheck ppm) s = .next ({ s with ckr.ioscNow := ppm, ckr.ioscSuspect := true }.raise 66 [0]))) ∧
     (∀ (i : Fin 8) (d : Nat), d ∈ s.domainsOf i.val → (s.clkSrc i.val).pass = false → (s.clkSrc i.val).failS = true →
       (s.clkDom d).iosc = false → (s.clkDom d).switching = false →
       ∃ t : State, exec (.clockFailover i) s = .next t ∧
         ((s.clkSrc i.val).edges = true → (t.clkDom d).iosc = true ∧ (t.clkDom d).lost = satAdd (s.clkDom d).lost 8) ∧
         ((s.clkSrc i.val).edges = false → (t.clkDom d).switching = true) ∧
         (∀ k, k < 8 → (s.dport k).st = .ready → (t.dport k).st = .selfref) ∧
         ∃ f ∈ t.flt.raised, f.src = 72 ∧ f.owners = [0]) ∧
     (∀ d : Fin 4, (s.clkDom d.val).switching = true → ∃ t : State, exec (.fallbackTimeout d) s = .next t ∧
       (t.clkDom d.val).switching = false ∧ (t.clkDom d.val).iosc = !(s.clkDom d.val).iosc ∧
       (∃ f ∈ t.flt.raised, f.src = 73) ∧ ∀ j, j ≠ d.val → t.clkDom j = s.clkDom j) ∧
     (∀ i : Fin 8, (s.clkSrc i.val).ready = true → s.ckr.autoReturn = true → ∃ t : State, exec (.clockReturn i) s = .next t ∧
       (∀ d ∈ s.domainsOf i.val, (t.clkDom d).iosc = false) ∧ ∀ d, d ∉ s.domainsOf i.val → t.clkDom d = s.clkDom d) ∧
     (∀ (n : Fin 32) (sel : Bool), (s.gclk n.val).routed = true → (s.gclk n.val).sel ≠ sel →
       exec (.gselRequest n sel) s = .next (s.setGclk n.val
         (if s.gclkReady (if sel then (s.gclk n.val).src1 else (s.gclk n.val).src0) then { s.gclk n.val with sel := sel }
           else { s.gclk n.val with refusedS := true })))) ∧
  (∀ (m : Mb) (r : Running) (s : State),
     (s.serving m 0x0701 anyForm = some r → exec (.clockQuery m) s = .next ((s.took m).respond m r .ok 0
       (([s.ckrStat] ++ (List.range 8).map s.ckrSrcReg ++ (List.range 4).map s.ckrDomReg).map fun w => leBytes 4 w.toNat).flatten)) ∧
     (s.serving m 0x0711 anyForm = some r → exec (.powerQuery m) s = .next ((s.took m).respond m r .ok 0
       ((List.range 5).map fun i => leBytes 4 (s.pwrReg i).toNat).flatten)) ∧
     (s.serving m 0x0702 anyForm = some r →
       (r.u32 0x10 < 4 → r.u32 0x14 ≤ 1 → s.hasConfig (s.box m).owner = true → s.anyAdmitted = false →
         (r.u32 0x14 = 0 → (s.clkSrc (4 + r.u32 0x10)).ready = true) → (r.u32 0x14 = 1 → (s.clkSrc (4 + r.u32 0x10)).edges = true) →
         ∃ t : State, exec (.clockSwitch m) s = .next (t.respond m r .ok 0 []) ∧
           ((t.clkDom (r.u32 0x10)).iosc = true ↔ r.u32 0x14 = 1) ∧ ∀ j, j ≠ r.u32 0x10 → t.clkDom j = s.clkDom j) ∧
       (r.u32 0x10 = 0x10 → 1 ≤ r.u32 0x14 → r.u32 0x14 ≤ 2 → s.hasConfig (s.box m).owner = true → s.anyAdmitted = false →
         (s.clkSrc (r.u32 0x14 - 1)).ready = true →
         exec (.clockSwitch m) s = .next (({ s.took m with ckr.ref := r.u32 0x14 } : State).respond m r .ok 0 [])) ∧
       (0x20 ≤ r.u32 0x10 → r.u32 0x10 < 0x40 → r.u32 0x14 ≤ 1 → s.gclkOwner (r.u32 0x10 - 0x20) = (s.box m).owner →
         s.gclkReady (if r.u32 0x14 = 1 then (s.gclk (r.u32 0x10 - 0x20)).src1 else (s.gclk (r.u32 0x10 - 0x20)).src0) = true →
         exec (.clockSwitch m) s = .next (((s.took m).setGclk (r.u32 0x10 - 0x20) { s.gclk (r.u32 0x10 - 0x20) with
           sel := r.u32 0x14 == 1 }).respond m r .ok 0 []))) ∧
     (s.serving m 0x0703 anyForm = some r → s.hasConfig (s.box m).owner = true → 100 ≤ r.u32 0x10 → r.u32 0x10 ≤ 50000 →
       r.u32 0x14 ≤ 7 → ∃ t : State, exec (.clockMonitor m) s = .next (t.respond m r .ok 0 []) ∧
         t.ckr.limit.toNat = r.u32 0x10 ∧ t.ckr.autoReturn = bitOf (r.u32 0x14) 0 ∧
         (bitOf (r.u32 0x14) 1 = true → t.ckr.ioscSuspect = false ∧ t.ckr.ioscCal = s.ckr.ioscNow) ∧
         (bitOf (r.u32 0x14) 2 = true → ∀ i, (t.clkSrc i).failS = false)) ∧
     (s.serving m 0x0704 anyForm = some r → ∀ hi b, gateBit (r.u8 0x10) (r.u8 0x11) = some (hi, b) →
       s.unitPresent (r.u8 0x10) (r.u8 0x11) = true →
       s.hasConfig (s.box m).owner = true ∨ s.unitOwner (r.u8 0x10) (r.u8 0x11) = some (s.box m).owner →
       (r.bit 0x14 0 = false → s.gateMayClose (r.u8 0x10) (r.u8 0x11) = true) →
       ∃ t : State, exec (.clockGate m) s = .next (t.respond m r .ok 0 []) ∧
         bitOf (if hi then t.ckr.gate1 else t.ckr.gate0).toNat b = r.bit 0x14 0 ∧
         ∀ j, j ≠ b → bitOf (if hi then t.ckr.gate1 else t.ckr.gate0).toNat j = bitOf (if hi then s.ckr.gate1 else s.ckr.gate0).toNat j) ∧
     (s.serving m 0x0721 anyForm = some r → s.hasConfig (s.box m).owner = true → (bitOf (r.u32 0x10) 0 = true ∨ s.anyAdmitted = false) →
       exec (.chipReset m) s = .next (((s.took m).askChipReset (s.now + 1000000) 5).respond m r .ok 0 [])))

/-- R288, R289, R432 to R434: BLOCK_RESET asks for a reset that is then asserted, answering RESET_ABORT to what the block had
accepted, and released, with the revalidation of the block's contracts 1 ms later; POWER_DOMAIN revokes a domain's contracts and
drains it, or switches it on. -/
def Obligations.BlocksResetAndPowerDown : Prop :=
  ∀ (s : State),
    (∀ (m : Mb) (r : Running) (b : Block), s.serving m 0x0720 anyForm = some r → s.hasConfig (s.box m).owner = true →
      unitBlock (r.u8 0x10) (r.u8 0x11) = some b → s.blockPresent b = true → (∀ w ∈ s.ckr.resetWait, w.1 ≠ b) →
      ∃ t : State, exec (.blockReset m) s = .next t ∧ t.ckr.resetReq = s.ckr.resetReq ++ [(b, some m)] ∧
        (t.box m).run = some { r with long := true }) ∧
    (∀ (b : Block) (q : Block × Option Mb) (rest : List (Block × Option Mb)), s.ckr.resetReq = q :: rest → q.1 = b →
      s.ckr.inReset.contains b = false → (∀ k, b ≠ .dport k) →
      ∃ t : State, exec (.blockResetAssert b) s = .next t ∧ t.ckr.inReset = s.ckr.inReset ++ [b] ∧ t.inWindow b = true ∧
        t.ckr.resetReq = rest ∧
        ∀ id x, s.req id = some x → (∀ e ∈ s.noc.req, e.1 = id → e.2 = some x) → x.out = true → x.dst = blockRouter b →
          initBlock x.who ≠ some b →
          t.req id = some { x with stage := .answered .resetAbort [], sent := false }) ∧
    (∀ b : Block, s.ckr.inReset.contains b = true → (∀ k, b ≠ .dport k) →
      ∃ t : State, exec (.blockResetRelease b) s = .next t ∧ t.ckr.inReset.contains b = false ∧
        (b, some (s.now + 1000000)) ∈ t.noc.window ∧
        ∀ c k, s.con c = some k → s.conAt k b = true → k.st = .suspended →
          ∃ k', t.con c = some k' ∧ k'.st = .suspended ∧ k'.revalAt = some (s.now + 1000000)) ∧
    (∀ (m : Mb) (r : Running), s.hasConfig (s.box m).owner = true → powerIndex (r.u8 0x10) (r.u8 0x11) = true →
      s.unitPresent (r.u8 0x10) (r.u8 0x11) = true → s.ckr.powering = none →
      (s.serving m 0x0710 (fun r => !r.bit 0x14 0) = some r → s.powerOn (r.u8 0x10) (r.u8 0x11) = true →
        s.mayPowerOff (r.u8 0x10) (r.u8 0x11) = true → ∃ t : State, exec (.powerDomainOff m) s = .next t ∧
          t.ckr.powering = some (r.u8 0x10, r.u8 0x11, m.val) ∧ (t.rtr (powerRouter (r.u8 0x10) (r.u8 0x11))).ni = some 2 ∧
          (t.rtr (powerRouter (r.u8 0x10) (r.u8 0x11))).drainSince = some s.now ∧ (t.box m).run = some { r with long := true }) ∧
      (s.serving m 0x0710 (fun r => r.bit 0x14 0) = some r → r.final = none → s.powerOn (r.u8 0x10) (r.u8 0x11) = false →
        ∃ t : State, exec (.powerDomainOn m) s = .next t ∧ t.powerOn (r.u8 0x10) (r.u8 0x11) = true ∧
          (t.rtr (powerRouter (r.u8 0x10) (r.u8 0x11))).ni = none ∧
          (t.box m).run = some { r with long := true, final := some (0, 0, []) }))

/-- R367, R429, R431, R455, R482: PROG_N, a lost core supply, a chip reset that is due and a life-cycle reset reset the chip with their
cause, one count more, and only what the rules keep; a core supply's return loads with FSRC 77; POR keeps nothing but the eFuses; a
reload keeps the endpoint and the reset cause, ends every contract and loads from the source asked for; a supply out of range is noted with
FSRC 76; a thermal shutdown holds every other unit in reset with FSRC 123. PERST# resets the chip where the manifest says so, and otherwise, as a hot reset does, the endpoint alone; a function-level
reset drops the function's vectors and accesses. -/
def Obligations.ResetsKeepWhatTheyMust : Prop :=
  ∀ (s : State),
    (s.thm.shutdown = false → s.ckr.por = false →
      (s.ckr.coreLost = 0#3 → ∃ t : State, exec .progN s = .next t ∧ t.ckr.cause = 2 ∧ t.ckr.count = satInc s.ckr.count ∧
        t.cfg.flash = s.cfg.flash ∧ t.sec.svnMin = s.sec.svnMin ∧ t.flt.history = s.flt.history ∧ t.stk.entry = [] ∧
        t.noc.req = [] ∧ t.mbx.ready = false) ∧
      (∀ t0 cause, s.ckr.chipReset = some (t0, cause) → t0 ≤ s.now → s.ckr.coreLost = 0#3 →
        ∃ t : State, exec .chipResetExecute s = .next t ∧ t.ckr.cause = cause ∧ t.ckr.count = satInc s.ckr.count ∧ t.ckr.chipReset = none) ∧
      (∀ t0, s.sec.resetAt = some t0 → t0 ≤ s.now → s.ckr.coreLost = 0#3 →
        ∃ t : State, exec .lifecycleReset s = .next t ∧ t.ckr.cause = 5 ∧ t.ckr.count = satInc s.ckr.count ∧ t.sec.resetAt = none ∧
          t.sec.lc = s.sec.lc) ∧
      (∀ i : Fin 3, (s.ckr.cause ≠ 6 ∨ s.cfg.st ≠ .clearing) → ∃ t : State, exec (.coreSupplyLoss i) s = .next t ∧ t.ckr.cause = 6 ∧
        t.ckr.count = satInc s.ckr.count ∧ inMask t.ckr.coreLost.toNat i.val = true ∧ bitOf t.ckr.supply.toNat i.val = false ∧
        t.cfg.st = .clearing)) ∧
    (s.ckr.coreLost ≠ 0#3 → s.ckr.por = false → ∃ t : State, exec .coreSupplyReturn s = .next t ∧ t.ckr.coreLost = 0#3 ∧
      (∃ f ∈ t.flt.raised, f.src = 77 ∧ f.owners = [0]) ∧ t.cfg.st ≠ .clearing) ∧
    (∀ i : Fin 18, 3 ≤ i.val → ∃ t : State, exec (.supplyOutOfRange i) s = .next t ∧
      bitOf t.ckr.supply.toNat (if i.val < 6 then i.val else i.val + 2) = false ∧ ∃ f ∈ t.flt.raised, f.src = 76 ∧ f.owners = [0]) ∧
    (∃ t : State, exec .por s = .next t ∧ t.fuses.lc = s.fuses.lc ∧ t.sec.svnMin = s.sec.svnMin ∧ t.cfg.flash = s.cfg.flash ∧
      t.ckr.por = true ∧ t.ckr.count = State.reset.ckr.count ∧ t.flt.history = [] ∧ t.vlt.mem = [] ∧ t.dram.mem = [] ∧ t.sec.nonce = []) ∧
    (∀ bs g, s.ckr.por = true → ∃ t : State, exec (.porRelease bs g) s = .next t ∧ t.ckr.por = false ∧ t.cfg.bootSel = bs ∧
      t.cfg.group = g ∧ (bs = 2#2 → t.cfg.st = .configOnly) ∧ (bs ≠ 2#2 → t.cfg.st = .firmware)) ∧
    (∀ t0 src, s.cfg.reload = some (t0, src) → t0 ≤ s.now → ∃ t : State, exec .reloadExecute s = .next t ∧ t.pce.win = s.pce.win ∧
      t.noc.contract = [] ∧ t.ckr.cause = s.ckr.cause ∧ t.ckr.count = s.ckr.count ∧ (src = 2 → t.cfg.st = .configOnly) ∧
      (src = 1 → t.cfg.st = .firmware ∧ t.cfg.golden = true) ∧
      (src = 0 → (s.dirOk.isSome = true → t.cfg.st = .firmware ∧ t.cfg.golden = false) ∧
        (s.dirOk.isSome = false → t.cfg.st = .configOnly))) ∧
    (s.thm.shutdown = false → (∃ e ∈ s.thm.sens, e.2.valid = true ∧ e.2.hot = 2) →
      ∃ t : State, exec .thermalShutdown s = .next t ∧ t.thm.shutdown = true ∧ t.mbx.prog = .hardware ∧ t.pce = s.pce ∧ t.errN = true ∧
        ∃ f ∈ t.flt.raised, f.src = 123) ∧
    (s.man.perstChip = false → ∃ t : State, exec .perst s = .next t ∧ t.pce.perst = true ∧ t.pce.linkUp = false ∧
      t.pce.unmasked = [] ∧ (∃ f ∈ t.flt.raised, f.src = 786) ∧ t.noc.contract = s.noc.contract) ∧
    (s.man.perstChip = true → s.thm.shutdown = false → s.ckr.por = false → s.ckr.coreLost = 0#3 →
      ∃ t : State, exec .perst s = .next t ∧ t.pce.perst = true ∧ t.ckr.cause = 3 ∧ t.ckr.count = satInc s.ckr.count) ∧
    (∃ t : State, exec .hotReset s = .next t ∧ t.pce.linkUp = false ∧ t.pce.training = (if s.pce.perst then none else some s.now) ∧
      t.noc.contract = s.noc.contract) ∧
    (s.pce.perst = true → exec .perstDeassert s = .next { s with pce.perst := false, pce.training := some s.now }) ∧
    (∀ fn : Fin 2, (fn = 1 → s.pce.set.pf1 = true) → ∃ t : State, exec (.functionLevelReset fn) s = .next t ∧
      (∀ v ∈ t.pce.unmasked, v.1 ≠ fn) ∧ (∀ v ∈ t.pce.msixPend, v.1 ≠ fn) ∧
      ((∀ w ∈ s.pce.posted, w.fn = fn) → t.pce.posted = [] ∧ t.pce.linkUp = s.pce.linkUp))

/-! ### Debug, JTAG and the life-cycle -/

/-- R464 to R467, R481: DBG_AUTH opens a session of level 2 in BLANK and of level 1 in OWNED with the owner's password, and raises FSRC
850 for a wrong one; an exchange of a good certificate that DBG_AUTH_BEGIN starts opens a level-2 session where DBG_AUTH_FINISH carries the right
signature and tag within 10 s, and otherwise ends with FSRC 850, as one that no DBG_AUTH_FINISH ends does after 10 s; LC_NONCE gives a nonce that expires after 60 s. -/
def Obligations.SessionsAreAuthorised : Prop :=
  ∀ (m : Mb) (r : Running) (s : State),
    (s.serving m 0x0B01 anyForm = some r → s.sessionBox m = true → r.u8 0x10 < 16 → s.sessionOf m = none →
      (∀ i : Fin 4, (∀ j : Fin 4, j < i → (s.sess j.val).live = true) → (s.sess i.val).live = false →
        (s.sec.lc = .blank ∨ (s.sec.lc = .owned ∧ s.pwdOk (Fin.ofNat 16 (r.u8 0x10)) (r.bytes 0x14 32) = true ∧
          ((tget s.dbg.fails (0, 0) (r.u8 0x10)).1 < 4 ∨ (tget s.dbg.fails (0, 0) (r.u8 0x10)).2 ≤ s.now))) →
        ∃ t : State, exec (.dbgAuth m) s = .next (t.respond m r .ok 0 []) ∧ (t.sess i.val).live = true ∧
          (t.sess i.val).owner.val = r.u8 0x10 ∧ (t.sess i.val).level = (if s.sec.lc = .blank then 2 else 1) ∧ (t.sess i.val).mb = m ∧
          (∃ f ∈ t.flt.raised, f.src = 848) ∧ ∀ j, j ≠ i.val → t.sess j = s.sess j) ∧
      (s.sec.lc ≠ .blank → (tget s.dbg.fails (0, 0) (r.u8 0x10)).1 < 4 →
        (s.sec.lc ≠ .owned ∨ s.pwdOk (Fin.ofNat 16 (r.u8 0x10)) (r.bytes 0x14 32) = false) →
        ∃ t : State, exec (.dbgAuth m) s = .next (t.respond m r .authFailed 0 []) ∧
          (tget t.dbg.fails (0, 0) (r.u8 0x10)).1 = (tget s.dbg.fails (0, 0) (r.u8 0x10)).1 + 1 ∧ t.dbg.sess = s.dbg.sess ∧
          ∃ f ∈ t.flt.raised, f.src = 850)) ∧
    (s.serving m 0x0B02 anyForm = some r → s.sessionBox m = true → r.u8 0x10 < 16 → s.sessionOf m = none →
      s.certOk (Fin.ofNat 16 (r.u8 0x10)) (r.bytes 0x14 256) (r.bytes 0x114 96) = true →
      ∃ (t : State) (p : List Byte) (e : AuthExch), exec (.dbgAuthBegin m) s = .next (t.respond m r .ok 0 p) ∧
        tget t.dbg.exch none m.val = some e ∧ e.owner.val = r.u8 0x10 ∧ e.since = s.now ∧ t.dbg.sess = s.dbg.sess) ∧
    (s.serving m 0x0B03 anyForm = some r → s.sessionBox m = true → s.sessionOf m = none → ∀ e : AuthExch,
      tget s.dbg.exch none m.val = some e →
      (s.now ≤ e.since + 10000000000 → Config.ecdsaOk e.pub e.t (r.bytes 0x10 96) = true →
        r.bytes 0x70 16 = fit 16 (Config.cmac e.key e.t) → ∀ i : Fin 4, (∀ j : Fin 4, j < i → (s.sess j.val).live = true) →
        (s.sess i.val).live = false →
        ∃ t : State, exec (.dbgAuthFinish m) s = .next (t.respond m r .ok 0 []) ∧ tget t.dbg.exch none m.val = none ∧
          t.sess i.val = { live := true, owner := e.owner, level := 2, mb := m, key := e.key, keyed := true }) ∧
      (e.since + 10000000000 < s.now ∨ Config.ecdsaOk e.pub e.t (r.bytes 0x10 96) = false ∨
          r.bytes 0x70 16 ≠ fit 16 (Config.cmac e.key e.t) →
        ∃ t : State, exec (.dbgAuthFinish m) s = .next (t.respond m r .authFailed 0 []) ∧ tget t.dbg.exch none m.val = none ∧
          t.dbg.sess = s.dbg.sess ∧ ∃ f ∈ t.flt.raised, f.src = 850)) ∧
    (∀ e : AuthExch, tget s.dbg.exch none m.val = some e → e.since + 10000000000 < s.now →
      exec (.authFinishTimeout m) s = .next ((s.dropExch m).raise 850 [e.owner, 0])) ∧
    (s.serving m 0x0B21 anyForm = some r → ∃ (t : State) (n : List Byte), exec (.lcNonce m) s = .next (t.respond m r .ok 0 n) ∧
      n.length = 32 ∧ tget t.sec.nonce none m.val = some (n, s.now)) ∧
    (∀ n t0, tget s.sec.nonce none m.val = some (n, t0) → t0 + 60000000000 < s.now →
      exec (.nonceExpiry m) s = .next { s with sec.nonce := tput s.sec.nonce none m.val none })

/-- R464, R465, R468 to R472, R475, R477, R478, R488, R489: in a session with the level and the tag it needs, a debug command halts,
resumes or steps engines, reads or writes a register or the pc of a halted one, sets a comparator, reaches memory, freezes, thaws or
reads back sectors, or ends the session; comparators set while a STEP runs take legal settings, which are free. -/
def Obligations.DebugCommandsComplete : Prop :=
  ∀ (m : Mb) (r : Running) (i : Fin 4) (s u : State), s.sessionBox m = true → s.sessionOf m = some i → (s.sess i.val).tagOk r = true →
    u = (if (s.sess i.val).keyed then (s.took m).setSess i.val { s.sess i.val with ctr := some (rdLE r.buf (r.length - 24) 8) }
      else s.took m) →
    (1 ≤ (s.sess i.val).level →
      (s.serving m 0x0B04 anyForm = some r → ∃ t : State, exec (.dbgEnd m) s = .next (t.respond m r .ok 0 []) ∧
        (t.sess i.val).live = false ∧ (∀ j, j ≠ i.val → t.sess j = s.sess j) ∧
        (∀ g ∈ (s.sess i.val).engines, (t.engAt g.val).halted = false) ∧
        ∀ c ∈ (s.sess i.val).sectors, (t.sector c.val).frozen = false) ∧
      (∀ gs, gs = maskList 128 (r.fld 0x10 16) →
        (∀ g ∈ gs, s.engPresent g = true ∧ s.engOwner g = (s.sess i.val).owner) →
        (s.serving m 0x0B10 (fun r => r.u32 0x20 = 0) = some r →
          exec (.dbgEngHalt m) s = .next ((gs.foldl State.engHalt (u.sessHalts (some i) gs)).respond m r .ok 0 (leBytes 8 0)) ∧
          ∀ g ∈ gs, ((gs.foldl State.engHalt (u.sessHalts (some i) gs)).engAt g).halted = true ∨
            ((gs.foldl State.engHalt (u.sessHalts (some i) gs)).engAt g).haltReq = true) ∧
        (s.serving m 0x0B10 (fun r => r.u32 0x20 = 1) = some r → ∃ t : State,
          exec (.dbgEngResume m) s = .next (t.respond m r .ok 0 (leBytes 8 0)) ∧
          (∀ g ∈ gs, t.engAt g = (s.engAt g).resumed s.now) ∧ ∀ g, g ∉ gs → t.engAt g = s.engAt g)) ∧
      (∀ g, g = r.u8 0x10 → g < 128 → s.engPresent g = true → s.engOwner g = (s.sess i.val).owner →
        (s.serving m 0x0B10 (fun r => r.u32 0x20 = 2) = some r → 1 ≤ r.u32 0x24 → r.u32 0x24 ≤ 65535 → ∃ t : State,
          exec (.dbgEngStep m) s = .next (t.respond m r .ok 0 (leBytes 8 0)) ∧
          t.engAt g = { (s.engAt g).resumed s.now with steps := r.u32 0x24 }) ∧
        ((s.engAt g).halted = true →
          (s.serving m 0x0B10 (fun r => r.u32 0x20 = 3) = some r → regKnown (r.u32 0x24) = true →
            exec (.dbgEngReadReg m) s = .next (u.respond m r .ok 0 (pay 0x18 [(0x10, 8, (s.engAt g).dbgReg (r.u32 0x24))]))) ∧
          (s.serving m 0x0B10 (fun r => r.u32 0x20 = 4) = some r → regWritable (r.u32 0x24) = true → r.u64 0x28 < 2 ^ 24 →
            (r.u32 0x24 = 0x33 → r.u64 0x28 ≤ 4) → exec (.dbgEngWriteReg m) s = .next ((u.setEngAt g
              ((s.engAt g).dbgPut (r.u32 0x24) (BitVec.ofNat 24 (r.u64 0x28)))).respond m r .ok 0 (leBytes 8 0))) ∧
          (s.serving m 0x0B10 (fun r => r.u32 0x20 = 5) = some r → r.u32 0x24 < 8192 →
            exec (.dbgEngSetPc m) s = .next ((u.setEngAt g { s.engAt g with pc := BitVec.ofNat 13 (r.u32 0x24) }).respond
              m r .ok 0 (leBytes 8 0))))) ∧
      (s.serving m 0x0B11 anyForm = some r →
        (r.u32 0x10 < 128 → r.u32 0x14 < 8 → s.engPresent (r.u32 0x10) = true → s.engOwner (r.u32 0x10) = (s.sess i.val).owner →
          (s.engAt (r.u32 0x10)).breakOk (r.u32 0x14) (r.u32 0x18) (r.u64 0x20) (r.u64 0x28)
            (r.u32 0x30) (r.u32 0x34) (r.u32 0x3C) = true →
          bitsOf (r.u32 0x18) 25 3 ≠ 4 → bitsOf (r.u32 0x3C) 0 3 ≠ 4 →
          ((s.engAt (r.u32 0x10)).dbg.session = none ∨ (s.engAt (r.u32 0x10)).dbg.session = some i) →
          ((s.engAt (r.u32 0x10)).steps = 0 ∨ (s.engAt (r.u32 0x10)).halted = true →
            exec (.dbgBreak m) s = .next ((u.setEngAt (r.u32 0x10) ((s.engAt (r.u32 0x10)).setBreak i (r.u32 0x14) (r.u32 0x18)
              (r.u64 0x20) (r.u64 0x28) (r.u32 0x30) (r.u32 0x34) (r.u32 0x3C))).respond m r .ok 0 [])) ∧
          ((s.engAt (r.u32 0x10)).steps ≠ 0 → (s.engAt (r.u32 0x10)).halted = false → ∃ (t : State) (ctl low high value mask : Nat),
            exec (.dbgBreak m) s = .next (t.respond m r .ok 0 []) ∧
            (s.engAt (r.u32 0x10)).breakOk (r.u32 0x14) ctl low high value mask (r.u32 0x3C) = true ∧
            t.engAt (r.u32 0x10) = (s.engAt (r.u32 0x10)).setBreak i (r.u32 0x14) ctl low high value mask (r.u32 0x3C)))) ∧
      (∀ cs, cs = maskList 96 (r.fld 0x10 12) → (∀ c ∈ cs, ∀ q ∈ sectorQuads c, s.quadOwner q = (s.sess i.val).owner) →
        (s.serving m 0x0B13 (fun r => !r.bit 0x1C 1) = some r → r.u32 0x1C < 2 → ∃ t : State,
          exec (.dbgFreeze m) s = .next (t.respond m r .ok 0 []) ∧ (∀ c ∈ cs, (t.sector c).frozen = true ∧
            (r.u32 0x1C = 1 → (t.sector c).capture = true ∧ ∀ q ∈ sectorQuads c, tget t.dbg.snap none q = some (s.capture q))) ∧
          ∀ c, c ∉ cs → t.sector c = s.sector c) ∧
        (s.serving m 0x0B13 (fun r => r.bit 0x1C 1) = some r → r.u32 0x1C = 2 → ∃ t : State,
          exec (.dbgThaw m) s = .next (t.respond m r .ok 0 []) ∧
          (∀ c ∈ cs, (t.sector c).frozen = false ∧ (t.sector c).capture = false) ∧ ∀ c, c ∉ cs → t.sector c = s.sector c)) ∧
      (s.serving m 0x0B14 anyForm = some r → r.u16 0x10 < 384 → r.u16 0x12 < 2 → r.u32 0x14 < (if r.u16 0x12 = 0 then 90 else 240) →
        (∀ q ∈ sectorQuads (quadSector (r.u16 0x10)), s.quadOwner q = (s.sess i.val).owner) →
        ∀ p, tget s.dbg.snap none (r.u16 0x10) = some p → exec (.dbgReadback m) s = .next (u.respond m r .ok 0
          (p.frame (r.u16 0x12) (r.u32 0x14) ++ p.frame (r.u16 0x12) (r.u32 0x14 + 1))))) ∧
    ((s.sess i.val).level = 2 → s.serving m 0x0B12 anyForm = some r → 4 ≤ r.u32 0x18 → r.u32 0x18 ≤ 512 → r.u32 0x1C ≤ 1 →
      r.u64 0x10 < 2 ^ 48 → ∃ t : State, exec (.dbgMem m) s = .next t ∧ t.noc.nextReq = s.noc.nextReq + 1 ∧
        (∃ q, t.req s.noc.nextReq = some q ∧ q.addr = r.u64 0x10 ∧ q.len = r.u32 0x18 ∧ q.owner = (s.sess i.val).owner ∧
          q.who = .debug i ∧ q.sink = .debug i ∧ q.op = (if r.u32 0x1C = 1 then .write else .read)) ∧
        (t.box m).run = some { r with long := true })

/-- R470, R475: a write of DBG_RUN_g by an owner with an open session and the engine in its kits halts, resumes or steps it, any other
leaves a fault note, and one for an absent engine is ignored; a debug read of a live session returns what the target answers to its owner. R462, R463: IDCODE reads the device's code, BYPASS,
SAMPLE and the reset of the TAP leave the pins alone, and the pin-control instructions take effect where the life-cycle allows them, else
act as BYPASS with FSRC 852; an access of the JTAG page is one of its mailbox. -/
def Obligations.RunRegisterTapAndDebugReads : Prop :=
  (∀ (s : State),
     (∀ (who : Initiator) (g : EngineId), s.atOnce who = true →
       (∀ i : Fin 4, s.ownSession (s.ownerOf who) = some i → s.engPresent g.val = true → s.engOwner g.val = s.ownerOf who →
         exec (.dbgRunHalt who g) s = .next ((s.sessHalts (some i) [g.val]).engHalt g.val) ∧
         exec (.dbgRunResume who g) s = .next (s.setEngAt g.val ((s.engAt g.val).resumed s.now)) ∧
         exec (.dbgRunStep who g) s = .next ((s.sessHalts (some i) [g.val]).setEngAt g.val
           { (s.engAt g.val).resumed s.now with steps := 1 })) ∧
       (s.engPresent g.val = false → exec (.dbgRunHalt who g) s = .next s ∧ exec (.dbgRunResume who g) s = .next s ∧
         exec (.dbgRunStep who g) s = .next s) ∧
       (s.engPresent g.val = true → s.ownSession (s.ownerOf who) = none ∨ s.engOwner g.val ≠ s.ownerOf who →
         exec (.dbgRunHalt who g) s = .next (s.raiseBy 198 who (s.ownerOf who)) ∧
         exec (.dbgRunResume who g) s = .next (s.raiseBy 198 who (s.ownerOf who)) ∧
         exec (.dbgRunStep who g) s = .next (s.raiseBy 198 who (s.ownerOf who)))) ∧
     (∀ (i : Fin 4) (a : BitVec 48) (n : Fin 513), (s.sess i.val).live = true → n.val ≠ 0 → s.place a.toNat n.val = .vault →
       exec (.debugRead i a n) s = .next { (s.vaultRead (.debug i) (s.ownerOf (.debug i)) (a.toNat - vaultBase) n.val).2.2.settle with
         readData := (s.vaultRead (.debug i) (s.ownerOf (.debug i)) (a.toNat - vaultBase) n.val).2.1 }) ∧
     (∀ (i : Fin 4) (a : BitVec 48) (n : Fin 513), (s.sess i.val).live = true → n.val ≠ 0 →
       ∀ st bs t, s.serveRead (.debug i) (s.ownerOf (.debug i)) a.toNat n.val = .done st bs t →
       exec (.debugRead i a n) s = .next { t with readData := bs })) ∧
  (∀ (s : State),
     exec .idcode s = .next { s with dbg.tap.ir := 2#8, dbg.tap.pins := none, readData := leBytes 4 0x17140B47 } ∧
     exec .bypass s = .next { s with dbg.tap.ir := 0xFF#8, dbg.tap.pins := none } ∧
     exec .tapReset s = .next { s with dbg.tap.ir := 2#8, dbg.tap.pins := none } ∧
     (∀ cells, exec (.samplePreload cells) s = .next { s with dbg.tap.ir := 1#8, dbg.tap.pins := none, dbg.tap.cells := cells }) ∧
     (s.pinControl = true → ∀ cells,
       exec (.extest cells) s = .next { s with dbg.tap.ir := 0#8, dbg.tap.pins := some (.drive cells) } ∧
       exec .clamp s = .next { s with dbg.tap.ir := 3#8, dbg.tap.pins := some .clamp } ∧
       exec .highz s = .next { s with dbg.tap.ir := 4#8, dbg.tap.pins := some .highz } ∧
       exec (.extestPulse cells) s = .next { s with dbg.tap.ir := 5#8, dbg.tap.pins := some (.pulse cells) } ∧
       exec (.extestTrain cells) s = .next { s with dbg.tap.ir := 6#8, dbg.tap.pins := some (.train cells) }) ∧
     (s.pinControl = false → ∀ cells, ∃ t : State,
       t = { s with dbg.tap.ir := 0xFF#8, dbg.tap.pins := none, dbg.jrefused := true }.raise 852 [0] ∧
       exec (.extest cells) s = .next t ∧ exec .clamp s = .next t ∧ exec .highz s = .next t ∧
       exec (.extestPulse cells) s = .next t ∧ exec (.extestTrain cells) s = .next t) ∧
     (∀ (off : BitVec 12) (v : BitVec 32), (s.box 32).owner = 0 →
       exec (.dbgPage off true v) s = .next (({ s with dbg.tap.ir := 0x20#8, dbg.tap.pins := none } : State).boxWrite .jtag jtagBox
         (off.toNat / 4 * 4) (leBytes 4 v.toNat)) ∧
       (off.toNat / 4 * 4 ≠ 0xC → exec (.dbgPage off false v) s = .next { s with
         dbg.tap.ir := 0x20#8, dbg.tap.pins := none, dbg.tap.data := s.boxWord jtagBox (off.toNat / 4 * 4)
         readData := leBytes 4 (s.boxWord jtagBox (off.toNat / 4 * 4)).toNat })))

/-- R479 to R484: LC_QUERY and LC_IDENTITY answer; a life-cycle command with a good signature and the fuse supply in range, and without admitted contracts or with
FORCE, makes its transition: the fuses of the new state, the keys zeroised, the sessions ended, the wipe begun and a reset due in
1 ms with FSRC 864; the SVN minimum, the settings and the tamper pins are set; a tamper trip zeroises and wipes. -/
def Obligations.LifeCycleCommandsComplete : Prop :=
  ∀ (m : Mb) (r : Running) (n : Option (List Byte)) (s u : State), n = s.liveNonce m → u = { s.took m with sec.nonce := tput s.sec.nonce none m.val none } →
    (s.serving m 0x0B20 anyForm = some r → exec (.lcQuery m) s = .next (u.respond m r .ok 0
      (pay 0x20 [(0x10, 4, s.secStat.toNat), (0x14, 4, s.secTamper.toNat), (0x18, 8, s.sec.serial.toNat)]))) ∧
    (s.serving m 0x0B22 anyForm = some r → exec (.lcIdentity m) s = .next (u.respond m r .ok 0
      (fit 96 (Config.ecPublic Config.identity) ++ fit 512 Config.identityCert))) ∧
    (s.sec.fusePwr = true →
      ((s.anyAdmitted = false ∨ r.bit 0x10 0 = true) →
        (s.serving m 0x0B24 anyForm = some r → s.sec.lc = .owned → u.ownerSigned r n 0x14 = true →
          exec (.lcDeploy m) s = .next ((u.lcChanged .deployed).respond m r .ok 0 [])) ∧
        (s.serving m 0x0B25 anyForm = some r → s.sec.lc = .deployed → s.sec.undeploys ≠ 15#4 → u.ownerSigned r n 0x14 = true →
          exec (.lcUndeploy m) s = .next ((({ u with sec.undeploys := s.sec.undeploys + 1 } : State).lcChanged .owned).respond
            m r .ok 0 [])) ∧
        (s.serving m 0x0B26 anyForm = some r → s.sec.lc ≠ .scrapped →
          (s.sec.lc = .owned ∨ s.sec.lc = .deployed → u.ownerSigned r n 0x14 = true) →
          exec (.lcScrap m) s = .next ((u.dropKeys.lcChanged .scrapped).respond m r .ok 0 []))) ∧
      (s.serving m 0x0B23 anyForm = some r → (s.anyAdmitted = false ∨ r.bit 0xF8 0 = true) → s.hasConfig (s.box m).owner = true →
        s.sec.lc = .blank → u.signedBy (r.bytes 0x10 96) r n 0x100 = true → ∀ dk,
        Config.kwUnwrap (u.ownKek (r.bytes 0x70 96)) (r.bytes 0xD0 40) = some dk →
        exec (.lcTakeOwnership m) s = .next ((({ u with
          sec.digest := some (Config.sha384 (r.bytes 0x10 96))
          sec.devFuse := some (Config.kwWrap Config.pufKey dk) } : State).lcChanged .owned).respond m r .ok 0 [])) ∧
      (s.serving m 0x0C01 anyForm = some r → r.final = none → (s.anyAdmitted = false ∨ r.bit 0x14 0 = true) →
        s.sec.lc = .blank ∨ ((s.sec.lc = .owned ∨ s.sec.lc = .deployed) ∧ u.ownerSigned r n 0x18 = true) →
        (r.u32 0x10 = 0 ∨ (r.u32 0x10 % 65536 = 0 ∧ s.drivesFlash = true ∧ s.flashProtected (r.u32 0x10) 49152 = false)) →
        ∃ t : State, exec (.returnPrepare m) s = .next t ∧ t.sec.lc = .returned ∧ t.sec.digest = none ∧ t.sec.devFuse = none ∧
          t.sec.resetAt = some (s.now + 1000000) ∧ t.sec.record.length ≤ 49152 ∧
          (t.box m).run = some { r with long := true, final := some (0, 0, fit 48 (Config.sha384 t.sec.record)) }) ∧
      (s.serving m 0x0B27 anyForm = some r → s.sec.svnMin.toNat < r.u32 0x10 → r.u32 0x10 ≤ 63 →
        u.ownerSigned r n 0x14 = true →
        exec (.svnRaise m) s = .next (({ u with sec.svnMin := BitVec.ofNat 6 (r.u32 0x10) } : State).respond m r .ok 0 [])) ∧
      (s.serving m 0x0B29 anyForm = some r → s.hasConfig (s.box m).owner = true → s.sec.settings = none →
        (settingsOf (r.bytes 0x10 36)).isSome = true →
        (s.sec.lc = .blank ∧ leNat (r.bytes 0x34 96) = 0) ∨
          ((s.sec.lc = .owned ∨ s.sec.lc = .deployed) ∧ u.ownerSigned r n 0x34 = true) →
        exec (.lcSettingsFuse m) s = .next (({ u with sec.settings := some (r.bytes 0x10 36) } : State).respond m r .ok 0 []))) ∧
    (s.serving m 0x0B28 anyForm = some r → s.hasConfig (s.box m).owner = true → r.u32 0x10 ≤ 3 → r.u32 0x14 ≤ 3 →
      (s.sec.lc = .deployed → s.sec.pinEn &&& ~~~(BitVec.ofNat 2 (r.u32 0x10)) = 0#2) → exec (.tamperConfig m) s = .next (({ u with
        sec.pinEn := BitVec.ofNat 2 (r.u32 0x10), sec.pinLevel := BitVec.ofNat 2 (r.u32 0x14) } : State).respond m r .ok 0 [])) ∧
    (s.serving m 0x0C02 anyForm = some r → s.sec.lc = .returned ∨ s.sec.lc = .scrapped →
      exec (.returnRead m) s = .next (u.respond m r .ok 0 (leBytes 4 ((s.sec.record.drop (r.u32 0x10)).take 960).length ++
        leBytes 12 0 ++ (s.sec.record.drop (r.u32 0x10)).take 960))) ∧
    (∀ i : Fin 5, (3 ≤ i.val → s.sec.pinEn.getLsbD (i.val - 3) = true) → ∃ t : State, exec (.tamperTrip i) s = .next t ∧
      t.sec.tamper = true ∧ t.sec.seen.getLsbD i.val = true ∧ t.sec.devKey = none ∧ t.mxe.keyless = true ∧ t.vlt.wiping = true ∧
      (∀ k, (t.range k).keyed = false) ∧ (∀ k : Fin 4, (t.sess k.val).live = false) ∧ ∃ f ∈ t.flt.raised, f.src = 856 + i.val) ∧
    (∀ lc, (u.lcChanged lc).sec.lc = lc ∧ (u.lcChanged lc).sec.devKey = none ∧ (u.lcChanged lc).mxe.keyless = true ∧
      (u.lcChanged lc).vlt.wiping = true ∧ (u.lcChanged lc).sec.resetAt = some (s.now + 1000000) ∧
      (∀ k : Fin 4, ((u.lcChanged lc).sess k.val).live = false) ∧ ∃ f ∈ (u.lcChanged lc).flt.raised, f.src = 864)

/-! ### Faults and temperature -/

/-- R442, R444 to R450, R127, R452: a raised fault is counted, and recorded in the history for the belfry unless it is masked, of class 0, or
coalesced with one less than 10 µs before; an clears the classes named; ERR_N is held 10 µs; a fault line or an expired heartbeat raises its user source; a lockstep
disagreement halts the belfry, which goes on from a good checkpoint; a second one within 1 s, or no good checkpoint, resets the chip with
cause 4. R442, R445 to R448, R454, R460: the fault commands set sources, deliveries
and the thermal threshold, acknowledge, answer the history and inject a fault; a sensor's reading sets WARN and OVER above their
thresholds, and one out of range or stuck fails the sensor with FSRC 122. -/
def Obligations.FaultsAreHandledAndCommanded : Prop :=
  (∀ (s : State),
     (∀ f : Raised, nextFault s.flt.raised = some f → f.src ≠ 0 → f.cls ≠ 0 → (s.srcCfg f.src).mask = false → f.owners = [] ∨ f.owners = [0] →
       tget s.flt.coal none (coalKey f.src 0) = none →
       ∃ t : State, exec .faultRaise s = .next t ∧
         (f.src ≠ 3 → f.src ≠ 4 → tget t.flt.cnt 0#32 f.src = satInc (tget s.flt.cnt 0#32 f.src)) ∧
         (t.ownerFlt 0).count = satInc (s.ownerFlt 0).count ∧ (t.ownerFlt 0).pend.getLsbD f.cls = decide (f.cls < 8) ∧
         (t.ownerFlt 0).seq = (s.ownerFlt 0).seq + 1 ∧ ∃ x ∈ t.flt.history, x.src = f.src ∧ x.owner = 0 ∧ x.info = f.info) ∧
     (∀ f : Raised, nextFault s.flt.raised = some f → f.cls = 0 ∨ (s.srcCfg f.src).mask = true →
       exec .faultRaise s = .next (({ s with flt.raised := s.flt.raised.erase f } : State).fltCount f.src)) ∧
     (∀ (f : Raised) (c : Coalesce), nextFault s.flt.raised = some f → f.cls ≠ 0 → (s.srcCfg f.src).mask = false → f.owners = [] ∨ f.owners = [0] →
       tget s.flt.coal none (coalKey f.src 0) = some c → f.time < c.last + 10000 → ∃ t : State, exec .faultRaise s = .next t ∧
         tget t.flt.cnt 0#32 f.src = satInc (tget s.flt.cnt 0#32 f.src) ∧ t.flt.history = s.flt.history ∧ t.flt.owner = s.flt.owner) ∧
     (∀ (who : Initiator) (o : Owner) (v : BitVec 32), s.atOnce who = true →
       (s.passes who o = true → ∃ t : State, exec (.fltPendWrite who o v) s = .next t ∧
         (∀ c, 1 ≤ c → c < 8 → (t.ownerFlt o.val).pend.getLsbD c = ((s.ownerFlt o.val).pend.getLsbD c && !v.getLsbD c)) ∧
         (∀ k, k ≠ o.val → t.ownerFlt k = s.ownerFlt k) ∧
         ∀ c, 1 ≤ c → c < 8 → v.getLsbD c = true → (o, c) ∉ t.flt.errnPend) ∧
       (s.passes who o = false → exec (.fltPendWrite who o v) s = .next (s.raiseBy 198 who (s.ownerOf who)))) ∧
     (∀ t0, s.flt.errnSince = some t0 → t0 + 10000 ≤ s.now → exec .errNHoldExpiry s = .next { s with flt.errnSince := none }) ∧
     (∀ sec : SectorId, (s.sector sec.val).frozen = false → s.ckr.inReset.contains (.fport sec) = false →
       exec (.faultLine sec) s = .next (s.raise (912 + sec.val) [s.sectorOwner sec.val])) ∧
     (∀ (i : Fin 16) (h : Heartbeat) (sec : SectorId), h = tget s.fab.heart {} i.val → h.sector = some sec →
       (s.sector sec.val).frozen = false → h.last + h.period ≤ s.now → ∃ t : State, exec (.heartbeatExpiry i) s = .next t ∧
         (tget t.fab.heart {} i.val).last = s.now ∧ ∃ f ∈ t.flt.raised, f.src = 1008 + i.val ∧ f.owners = [s.sectorOwner sec.val]) ∧
     (s.flt.lockstep = false →
       ((∀ t0, s.flt.lockLast = some t0 → t0 + 10 ^ 9 ≤ s.now) → ∃ t : State, exec .lockstepDisagreement s = .next t ∧
         t.flt.lockstep = true ∧ t.flt.lockLast = some s.now ∧ ∃ f ∈ t.flt.raised, f.src = 0) ∧
       (∀ t0, s.flt.lockLast = some t0 → s.now < t0 + 10 ^ 9 → s.ckr.chipReset = none → ∃ t : State,
         exec .lockstepDisagreement s = .next t ∧ t.ckr.chipReset = some (s.now, 4))) ∧
     (s.flt.lockstep = true → ∃ t : State, exec (.lockstepRecovery true) s = .next t ∧ t.flt.lockstep = false ∧
       t.flt.lockCount = satInc s.flt.lockCount ∧ t.flt.causes.getLsbD 5 = true ∧ ∃ f ∈ t.flt.raised, f.src = 1) ∧
     (s.flt.lockstep = true → exec (.lockstepRecovery false) s = .next (s.askChipReset s.now 4)) ∧
  (∀ (s : State),
     (∀ (m : Mb) (r : Running),
       (s.hasConfig (s.box m).owner = true →
         (s.serving m 0x0901 anyForm = some r → 1 ≤ r.u16 0x12 → r.u16 0x10 + r.u16 0x12 ≤ 1024 → r.u8 0x14 ≤ r.u8 0x15 → r.u8 0x15 ≤ 4 →
           r.u8 0x16 ≤ 7 → r.u8 0x17 = 255 → (∀ i, r.u16 0x10 ≤ i → i < r.u16 0x10 + r.u16 0x12 → i ≠ 0 ∧ i ≠ 123 ∧
             ((s.srcCfg i).cls = 0 → r.u8 0x14 = 0)) →
           ∃ t : State, exec (.faultConfig m) s = .next (t.respond m r .ok 0 []) ∧
             (∀ i, r.u16 0x10 ≤ i → i < r.u16 0x10 + r.u16 0x12 → t.srcCfg i = { s.srcCfg i with
               level := r.u8 0x14, cap := r.u8 0x15, errn := bitOf (r.u8 0x16) 0, latch := bitOf (r.u8 0x16) 1, mask := bitOf (r.u8 0x16) 2 }) ∧
             ∀ i, i < r.u16 0x10 ∨ r.u16 0x10 + r.u16 0x12 ≤ i → t.srcCfg i = s.srcCfg i) ∧
         (s.serving m 0x0905 anyForm = some r → r.u32 0x10 ≤ 1023 → r.u8 0x19 = 0 → ∃ (t : State) (f : Raised),
           exec (.faultInject m) s = .next (t.respond m r .ok 0 []) ∧ t = { s.took m with flt.raised := s.flt.raised ++ [f] } ∧
           f.src = r.u32 0x10 ∧ f.cls = (s.srcCfg (r.u32 0x10)).cls ∧ f.injected = true ∧ f.info.toNat = r.u32 0x14) ∧
         (s.serving m 0x0906 anyForm = some r → -400 ≤ (BitVec.ofNat 16 (r.u16 0x10)).toInt →
           (BitVec.ofNat 16 (r.u16 0x10)).toInt ≤ s.gradeMax → exec (.thermalConfig m) s =
           .next (({ s.took m with thm.warnAt := some (BitVec.ofNat 16 (r.u16 0x10)) } : State).respond m r .ok 0 []))) ∧
       (s.serving m 0x0902 anyForm = some r → bitsOf (r.u32 0x10) 18 13 = 0 → bitOf (r.u32 0x10) 31 = false →
         (s.queue (bitsOf (r.u32 0x10) 0 18)).kind = .event → (s.queue (bitsOf (r.u32 0x10) 0 18)).owner = (s.box m).owner →
         r.u16 0x14 = 0 → r.u16 0x16 = 0 → bitOf (r.u8 0x18) 7 = false → bitOf (r.u8 0x19) 7 = false →
         exec (.faultNotify m) s = .next (((s.took m).setOwnerFlt (s.box m).owner.val { s.ownerFlt (s.box m).owner.val with
           notify := { queue := some (bitsOf (r.u32 0x10) 0 18), vector := none, urgent := none, engine := none, sector := none } }).respond
             m r .ok 0 [])) ∧
       (s.serving m 0x0903 anyForm = some r → exec (.faultAck m) s =
         .next (((s.took m).fltAck (s.box m).owner (r.u32 0x10)).respond m r .ok 0 [])) ∧
       (s.serving m 0x0904 anyForm = some r → 1 ≤ r.u32 0x14 → r.u32 0x14 ≤ 31 → ∃ p, exec (.faultHistory m) s =
         .next ((s.took m).respond m r .ok 0 p) ∧ p.take 8 = leBytes 4 s.flt.history.length ++
           leBytes 4 ((s.flt.history.drop (r.u32 0x10)).take (r.u32 0x14)).length)) ∧
     (∀ (i : Fin 64) (v : BitVec 16) (stuck : Bool), (s.sensor i.val).failed = false →
       (stuck = true ∨ v.toInt < -560 ∨ 1280 < v.toInt → exec (.sensorReading i v stuck) s = .next ((s.setSensor i.val { s.sensor i.val with
         valid := false, failed := true, hot := 0 }).raise 122 [0])) ∧
       (stuck = false → -560 ≤ v.toInt → v.toInt ≤ 1280 → ∃ t : State, exec (.sensorReading i v stuck) s = .next t ∧
         (t.sensor i.val).temp = v ∧ (t.sensor i.val).valid = true ∧ (s.warnAt < v.toInt → t.thm.warn = true) ∧
         (s.gradeMax < v.toInt → t.thm.overMax = true) ∧ v.toInt ≤ t.thm.peak.toInt))))

/-! ### PCI Express -/

/-- R40, R173, R252, R364 to R367, R391, R392: the aperture and the outbound windows are set; a host access reaches what its BAR maps (an
absent BAR is an Unsupported Request, a table access the MSI-X table, an aperture access a register, a doorbell or, as a request on flow 0,
memory), and waits while a push of the host is held; a
configuration request is retried until the device runs; a request to host memory ends with the host's reply, or in error after 50
ms; PCE_DROP clears as it is read. -/
def Obligations.HostRequestsComplete : Prop :=
  ∀ (s u : State), u = s.linkSeen →
    (∀ (m : Mb) (r : Running),
      (s.serving m 0x0A01 anyForm = some r → s.pfOwner 0 = (s.box m).owner → r.u64 0x10 % 2 ^ 36 = 0 → r.u64 0x10 + 2 ^ 36 ≤ 2 ^ 42 →
        r.u64 0x10 / 2 ^ 40 ≠ 2 → exec (.pcieAperture m) s =
          .next (({ s.took m with pce.abase := r.u64 0x10 / 2 ^ 36 } : State).respond m r .ok 0 [])) ∧
      (s.serving m 0x0A02 anyForm = some r → r.u32 0x10 ≤ 15 → r.u32 0x20 ≤ 7 →
        (bitOf (r.u32 0x20) 2 = true → (s.outWin (r.u32 0x10)).taken = true → (s.outWin (r.u32 0x10)).owner = (s.box m).owner →
          exec (.pcieOutwin m) s = .next (((s.took m).setOutWin (r.u32 0x10) {}).respond m r .ok 0 (leBytes 4 (r.u32 0x10)))) ∧
        (bitOf (r.u32 0x20) 2 = false → s.fnMine (r.u32 0x14) (s.box m).owner = true → r.u64 0x18 % 4096 = 0 →
          (s.outWin (r.u32 0x10)).taken = false → exec (.pcieOutwin m) s = .next (((s.took m).setOutWin (r.u32 0x10) {
            taken := true, owner := (s.box m).owner, hbase := r.u64 0x18, fn := Fin.ofNat 2 (r.u32 0x14)
            attr := BitVec.ofNat 2 (r.u32 0x20) }).respond m r .ok 0 (leBytes 4 (r.u32 0x10)))))) ∧
    (∀ (fn : Fin 2) (bar : Fin 3) (off : BitVec 36) (n : Fin 4097) (bs : List Byte), s.linkOn = true → n.val ≠ 0 →
      (s.hostHeld = true → (∃ w : Posted, w.fn = fn ∧ w.read = some n.val ∧
          exec (.hostRequest fn bar off false n bs) s = .next { u with pce.posted := s.pce.posted ++ [w] }) ∧
        (n.val ≤ 512 → ∃ w : Posted, w.fn = fn ∧ w.data = padTo n.val (bs.take n.val) ∧
          exec (.hostRequest fn bar off true n bs) s = .next { u with pce.posted := s.pce.posted ++ [w] })) ∧
      (s.hostHeld = false →
        (s.barAt fn bar off.toNat = none →
          exec (.hostRequest fn bar off false n bs) s = .next { u with pce.completions := s.pce.completions ++ [(fn, .unsupported, [])] } ∧
          (n.val ≤ 512 → exec (.hostRequest fn bar off true n bs) s = .next { u with pce.errDrop := satInc s.pce.errDrop })) ∧
        (∀ i, s.barAt fn bar off.toNat = some (.table i) → exec (.hostRequest fn bar off false n bs) s = .next { u with
          pce.completions := s.pce.completions ++ [(fn, .success, (List.range n.val).map fun k => s.tableByte fn (i + k))] }) ∧
        (∀ a, s.barAt fn bar off.toNat = some (.at a) →
          (∀ x, s.flowHeld (.pf fn) = false → s.place a n.val = .ctl x → exec (.hostRequest fn bar off false n bs) s =
            .next ((u.ctlRead (.pf fn) x n.val).2.2.hostDone fn false (u.ctlRead (.pf fn) x n.val).1 (u.ctlRead (.pf fn) x n.val).2.1)) ∧
          (s.place a n.val = .vault ∨ (∃ g, s.place a n.val = .dram g) → n.val ≤ 512 → ∀ write : Bool,
            ∃ t : State, exec (.hostRequest fn bar off write n bs) s = .next t ∧ t.noc.nextReq = s.noc.nextReq + 1 ∧
              ∃ q, t.req s.noc.nextReq = some q ∧ q.addr = a ∧ q.len = n.val ∧ q.flow = 0 ∧ q.owner = s.pfOwner fn.val ∧ q.sink = .host fn ∧
                q.op = (if write then .write else .read) ∧ q.data = (if write then padTo n.val (bs.take n.val) else [])) ∧
          (n.val ≤ 512 → s.flowHeld (.pf fn) = false → ∀ q, s.place a n.val = .doorbell q 0 →
            exec (.hostRequest fn bar off true n bs) s = .next (u.doorbellPush (.pf fn) q (padTo n.val (bs.take n.val))))) ∧
      (∀ i, s.barAt fn bar off.toNat = some (.table i) → n.val ≤ 512 →
        exec (.hostRequest fn bar off true n bs) s = .next (u.tableWrite fn i (padTo n.val (bs.take n.val))) ∧
        ∀ v, v < s.vectors fn → i = 16 * v + 12 → n.val = 1 → bs = [0#8] → s.pce.msixPend.contains (fn, v) = true →
          s.pce.unmasked.contains (fn, v) = false → ∃ t : State, exec (.hostRequest fn bar off true n bs) s = .next t ∧
            t.pce.sent = s.pce.sent ++ [(fn, v)] ∧ t.pce.msixPend.contains (fn, v) = false))) ∧
    (∀ (fn : Fin 2) (off : BitVec 12) (v : BitVec 32), s.linkOn = true →
      (s.cfg.st ≠ .running → s.cfg.st ≠ .configOnly → ∀ w, exec (.configurationRequest fn off w v) s = .next { u with
        pce.crs := true, pce.completions := s.pce.completions ++ [(fn, .retry, [])] }) ∧
      (s.cfg.st = .running ∨ s.cfg.st = .configOnly →
        (fn = 1 → s.pce.set.pf1 = false → ∀ w, exec (.configurationRequest fn off w v) s = .next { u with
          pce.crs := false, pce.completions := s.pce.completions ++ [(fn, .unsupported, [])] }) ∧
        (fn = 0 → off.toNat < 4 → exec (.configurationRequest fn off false v) s = .next { u with
          pce.crs := false
          pce.completions := s.pce.completions ++ [(fn, .success, leBytes 4 (packW [(0, (s.pce.set.vendor.getD Config.vendorId).toNat),
            (16, s.pce.set.device0.toNat)]).toNat)] }))) ∧
    (∀ (id : Nat) (q : Req), s.atHost id = some q →
      (q.op = .read → ∀ b, exec (.outboundRequest id (.data b)) s = .next (s.answer id q .ok (padTo q.len (b.take q.len)))) ∧
      (q.op = .write → exec (.outboundRequest id .done) s = .next (s.answer id q .ok [])) ∧
      exec (.outboundRequest id .unsupported) s = .next (s.answer id q .error []) ∧
      (∀ b, ∃ t : State, exec (.outboundRequest id (.poisoned b)) s = .next t ∧ t.pce.errDrop = satInc s.pce.errDrop ∧
        (∃ bs, t.req id = some { q with stage := .answered .poisoned bs }) ∧ ∃ f ∈ t.flt.raised, f.src = 785) ∧
      (q.since + 50000000 ≤ s.now → exec (.completionTimeout id) s = .next ((s.answer id q .error []).raiseBy 787 q.who q.owner))) ∧
    (∀ who, s.atOnce who = true → isDebug who = false → exec (.pceDropRead who) s = .next { s with pce.drop := 0#32, readData := leBytes 4 s.pce.drop.toNat }) ∧
    (∀ who, s.atOnce who = true → isDebug who = true → exec (.pceDropRead who) s = .next { s with readData := leBytes 4 s.pce.drop.toNat })

/-! ### Lanes, JESD links and MACs -/

/-- R368, R370 to R372, R392: LANE_CONFIG sets uses and rates of a group and completes when every lane is locked or idle; a receiver's lock is
recorded; JESD_CONFIG disables a link or puts it in SYNC, from which it aligns at a SYSREF position or at a captured edge and answers; a
link that loses alignment returns to SYNC with its fault; 100 ms without DATA end the command. R373, R374: ETH_CONFIG sets a MAC or
switches it off; its link comes up once its lanes are locked and goes down with its fault; the frame of the head descriptor is read by
requests on the MAC's flow and then sent, with its FCS, TSID and time-stamp as the descriptor asks, where its length is legal (any
other length is popped with nothing sent: the model's choice, log entry 91); a received frame is written to the next free buffer, cut
to its size, and then described, or counted where no buffer is free or its FCS is wrong. -/
def Obligations.LanesJesdAndEthernetWork : Prop :=
  (∀ (s : State),
     (∀ (m : Mb) (r : Running), s.hasConfig (s.box m).owner = true →
       (∀ g, g = r.u32 0x10 → s.serving m 0x0A10 anyForm = some r → r.final = none → g ≤ 7 → s.lanePresent g = true →
         (s.laneGroup g).cmd = none →
         (∀ i, i < 8 → (r.laneUse i ≠ (s.lane (8 * g + i)).use → s.laneUser (8 * g + i) = false) ∧ r.u32 (0x14 + 4 * i) < 2 ^ 11 ∧
           (r.laneUse i ≠ 0 → 10 ≤ r.laneRate i ∧ r.laneRate i ≤ 262 ∧ Config.rateReached g (r.laneRate i) = true) ∧
           (r.laneUse i = 2 → g = 2 ∨ g = 3)) →
         ∃ t : State, exec (.laneConfig m) s = .next t ∧
           (∀ i, i < 8 → (t.lane (8 * g + i)).use = r.laneUse i ∧ (t.lane (8 * g + i)).rate = BitVec.ofNat 9 (r.laneRate i)) ∧
           (∀ j, j < 8 * g ∨ 8 * g + 8 ≤ j → t.lane j = s.lane j) ∧
           ((t.groupDone g = true ∧ (t.laneGroup g).cmd = none ∧ (t.box m).run = some { r with long := true, final := some (0, 0, []) }) ∨
             (t.groupDone g = false ∧ (t.laneGroup g).cmd = some m ∧ (t.box m).run = some { r with long := true }))) ∧
       (∀ n, n = r.u8 0x10 → s.serving m 0x0A11 anyForm = some r → n ≤ 7 → r.u8 0x11 ≤ 31 → s.lanePresent n = true →
         (s.jesd n).cmd = none →
         (bitOf (r.u8 0x11) 0 = false → exec (.jesdConfig m) s = .next (((s.took m).setJesd n { s.jesd n with en := false, st := 0, valid := false }).respond
           m r .ok 0 (leBytes 4 (s.jesd n).lat.toNat))) ∧
         (bitOf (r.u8 0x11) 0 = true → 1 ≤ r.u8 0x12 → r.u8 0x12 ≤ 8 → r.u8 0x13 ≤ 95 → 1 ≤ r.u8 0x14 → r.u8 0x14 ≤ 32 → r.u8 0x15 ≠ 0 →
           r.u8 0x16 ≠ 0 → 1 ≤ r.u8 0x17 → r.u8 0x17 ≤ 32 → [8, 12, 16].contains (r.u8 0x18) = true → r.u8 0x19 ≤ 15 → r.u64 0x28 ≠ 0 →
           (∀ i, i < r.u8 0x12 → (s.lane (8 * n + i)).use = 1 ∧
             (if bitOf (r.u8 0x11) 2 then 48 else 10) ≤ (s.lane (8 * n + i)).rate.toNat ∧
             (s.lane (8 * n + i)).rate.toNat ≤ (if bitOf (r.u8 0x11) 2 then 256 else 100)) → (s.axis (r.u8 0x19)).cfg.bidir = false →
           (bitOf (r.u8 0x11) 3 = true →
             pinKnown (r.u8 0x1A) = true ∧ r.u8 0x1B ≤ 63 ∧ (s.cap (r.u8 0x1B)).owner = (s.box m).owner) →
           s.sectorOwner (r.u8 0x13) = (s.box m).owner → ∃ t : State, exec (.jesdConfig m) s = .next t ∧ (t.jesd n).en = true ∧
             (t.jesd n).st = 1 ∧ (t.jesd n).cmd = some (m, s.now) ∧ (t.jesd n).tx = bitOf (r.u8 0x11) 1 ∧
             (t.jesd n).std = bitOf (r.u8 0x11) 2 ∧ (t.jesd n).sysrefIn = bitOf (r.u8 0x11) 3 ∧ (t.jesd n).lanes = r.u8 0x12 ∧ (t.jesd n).ax.val = r.u8 0x19 ∧
             (t.jesd n).pos.toNat = r.u64 0x20 ∧ (t.jesd n).period.toNat = r.u64 0x28 ∧ (t.jesd n).owner = (s.box m).owner ∧
             (t.box m).run = some { r with long := true }))) ∧
     (∀ (i : Fin 64) (locked : Bool), (s.lane i.val).use ≠ 0 → s.lanePresent (i.val / 8) = true →
       ∃ t : State, exec (.laneRxLock i locked) s = .next t ∧ t.lane i.val = { s.lane i.val with lock := locked } ∧
         (∀ j, j ≠ i.val → t.lane j = s.lane j) ∧ (locked = true → (t.laneGroup (i.val / 8)).refOk = true)) ∧
     (∀ (n : Fin 8),
       ((s.jesd n.val).en = true → (s.jesd n.val).st = 1 → (s.jesd n.val).tx = true ∨ s.jesdLocked n.val = 2 ^ (s.jesd n.val).lanes - 1 →
         (if (s.jesd n.val).sysrefIn then (s.cap (s.jesd n.val).cap).lastEdge.isSome else s.atSysref n.val) = true →
         ((s.jesd n.val).cmd = none → exec (.jesdRealign n) s = .next (s.setJesd n.val { s.jesd n.val with
           st := 3, realign := satInc (s.jesd n.val).realign })) ∧
         (∀ c, (s.jesd n.val).cmd = some c → exec (.jesdRealign n) s = .next ((s.setJesd n.val { s.jesd n.val with
           st := 3, cmd := none }).finish c.1 .ok (leBytes 4 (s.jesd n.val).lat.toNat)))) ∧
       ((s.jesd n.val).en = true → (s.jesd n.val).st = 2 ∨ (s.jesd n.val).st = 3 → exec (.jesdAlignmentLost n) s =
         .next ((s.setJesd n.val { s.jesd n.val with st := 1, valid := false }).raise (800 + n.val) [(s.jesd n.val).owner])) ∧
       (∀ c, (s.jesd n.val).cmd = some c → c.2 + 100000000 ≤ s.now → exec (.jesdConfigTimeout n) s =
         .next ((s.setJesd n.val { s.jesd n.val with cmd := none }).finish c.1 .wrongState (leBytes 4 0))))) ∧
  (∀ (s : State),
     (∀ (m : Mb) (r : Running) (x : Mac), s.serving m 0x0A12 anyForm = some r → r.u8 0x10 ≤ 1 → s.ptuOwner (r.u8 0x10) = (s.box m).owner →
       r.u8 0x11 ≤ 5 → fecAllowed (r.u8 0x11) (r.u8 0x12) = true → r.u8 0x13 ≤ 1 → r.u8 0x14 ≤ 15 → x = s.mac (r.u8 0x10) →
       (r.u8 0x11 = 0 → exec (.ethConfig m) s = .next (((s.took m).setMac (r.u8 0x10) { x with rate := 0, fec := 0, link := false }).respond
         m r .ok 0 [])) ∧
       (r.u8 0x11 ≠ 0 → (∀ i, i < macLanes (r.u8 0x11) → (s.lane (macBase (r.u8 0x10) + i)).use = 2) →
         s.frameQueue (s.box m).owner (r.u32 0x18) 32 = none → s.frameQueue (s.box m).owner (r.u32 0x1C) 16 = none →
         s.frameQueue (s.box m).owner (r.u32 0x20) 32 = none → ∃ t : State, exec (.ethConfig m) s = .next (t.respond m r .ok 0 []) ∧
           t = (s.took m).setMac (r.u8 0x10) (t.mac (r.u8 0x10)) ∧ (t.mac (r.u8 0x10)).rate = r.u8 0x11 ∧
           (t.mac (r.u8 0x10)).fec = r.u8 0x12 ∧ (t.mac (r.u8 0x10)).flow = r.u8 0x14 ∧ (t.mac (r.u8 0x10)).txq = r.u32 0x18 ∧
           (t.mac (r.u8 0x10)).freeq = r.u32 0x1C ∧ (t.mac (r.u8 0x10)).rxq = r.u32 0x20)) ∧
     (∀ (n : Fin 2) (x : Mac), x = s.mac n.val →
       (x.rate ≠ 0 → s.macLocked n.val = true → exec (.ethLinkUp n) s = .next (s.setMac n.val { x with link := true })) ∧
       (x.link = true →
         exec (.ethLinkDown n) s =
           .next ((s.setMac n.val { x with link := false, down := satInc x.down }).raise (808 + n.val) [s.ptuOwner n.val]) ∧
         (∀ d a len, x.txPend = none → (s.qHead x.txq).1 = .ok → d = (s.qHead x.txq).2.1 → a = leNat (d.take 8) % 2 ^ 48 →
           len = leNat ((d.drop 8).take 2) →
           (len < 60 ∨ 9600 < len → exec (.ethTransmit n) s = .next (s.qPop x.txq).2.2) ∧
           (60 ≤ len → len ≤ 9600 → ∀ u, u = (s.qHead x.txq).2.2 → exec (.ethTransmit n) s =
             .next ((u.modMac n.val fun y => { y with txPend := some d, txGot := [] }).issueNew
               (u.macReq n false a (min len (u.macMax n)) [])))) ∧
         (∀ frame : List Byte, frame ≠ [] →
           (x.keepBad = false → exec (.ethReceive n frame true) s = .next (s.setMac n.val { x with fcs := satInc x.fcs })) ∧
           ∀ (bad : Bool) (u : State), (bad = true → x.keepBad = true) →
             u = (if bad then s.setMac n.val { x with fcs := satInc x.fcs } else s) →
             ((s.queue x.freeq).kind ≠ .message ∨ (s.queue x.freeq).en = false → exec (.ethReceive n frame bad) s =
               .next (u.modMac n.val fun y => { y with nobuf := satInc y.nobuf })) ∧
             ((s.queue x.freeq).kind = .message → (s.queue x.freeq).en = true → ∀ p, p = u.qPop x.freeq →
               (p.1 ≠ .ok → exec (.ethReceive n frame bad) s =
                 .next (p.2.2.modMac n.val fun y => { y with nobuf := satInc y.nobuf })) ∧
               (p.1 = .ok → ∀ a size bs, a = leNat (p.2.1.take 8) % 2 ^ 48 → size = leNat ((p.2.1.drop 8).take 4) →
                 bs = (frame.take 9600).take size → ∃ d : List Byte, d.length = 32 ∧ d.take 8 = leBytes 8 a ∧
                   (d.drop 8).take 2 = leBytes 2 bs.length ∧
                   exec (.ethReceive n frame bad) s = .next (if bs = [] then p.2.2.macStored n d .ok else p.2.2.macPut n d a bs))))) ∧
       (∀ (d data : List Byte) (id : Nat), x.txPend = some d → leNat ((d.drop 8).take 2) ≤ (x.txGot ++ data).length →
         s.macDeliver n id false .ok data = s.macSend n d .ok (x.txGot ++ data)) ∧
       (∀ (e : RxFrame) (id : Nat), x.rxPend = [e] → e.req = id → e.rest = [] → ∀ u, u = s.setMac n.val { x with rxPend := [] } →
         (u.qPush x.rxq e.desc).1 = .ok → s.macDeliver n id true .ok [] =
           (u.qPush x.rxq e.desc).2.modMac n.val fun y => { y with rx := satInc y.rx }) ∧
       ∀ (d frame : List Byte) (f : Nat) (w : List Byte × Bool) (id : BitVec 16), f = leNat ((d.drop 12).take 1) →
         w = s.txFrame n.val d frame → id = BitVec.ofNat 16 (leNat ((d.drop 10).take 2)) →
         (s.macSend n d .ok frame).mac n.val = { x with
           txPend := none, txGot := [], tx := satInc x.tx
           sent := x.sent ++ [(if bitOf f 2 then w.1 ++ leBytes 4 (frameFcs w.1).toNat else w.1,
             if bitOf f 0 || w.2 then some id else none)]
           stamps := x.stamps ++ if bitOf f 0 || w.2 then [(id, w.2)] else [] }))

/-! ### The ring -/

/-- R376, R379 to R382, R386, R389, R391, R392: RING_JOIN waits for a quiet slot (or, 30 ms later, for what answers) in which the port trains
and comes up, or fails for a duplicate ring ID; RING_LEAVE and the bypass take the port out of the ring; a failed segment is retrained or
breaks the ring at the port; a measured latency that drifts by more than 50 ps raises its fault; the other commands of the ring set the
exports and the window and answer the port's words. R377, R378, R384, R385: over a port that is up a cell with a bad CRC is answered NAK,
one out of order is acknowledged and dropped, and the next one is taken; a NAK or a missing acknowledgement replays the cells kept; axes
and strikes are exchanged; packets of peers become requests and responses. -/
def Obligations.RingPortsAndCellsWork : Prop :=
  (∀ (s : State),
     (∀ (m : Mb) (r : Running),
       (s.hasConfig (s.box m).owner = true →
         (∀ p, p = r.u32 0x10 → s.serving m 0x0A20 anyForm = some r → p ≤ 1 → r.u32 0x14 ≤ 5 → r.u32 0x18 ≤ 10000 → r.u32 0x1C = 1 →
           s.ringPresent p = true → s.mbx.ready = true → s.configOnly = false → (s.ring p).join = none →
           ∃ t : State, exec (.ringJoin m) s = .next t ∧ t.ring p = { s.ring p with
               st := if (s.ring p).st = .up then .up else .waiting, maxRate := r.u32 0x14, join := some (m, s.now) } ∧
             t.ser.windowMs = r.u32 0x18 ∧ (t.box m).run = some { r with long := true }) ∧
         (∀ p, p = r.u32 0x10 → s.serving m 0x0A21 anyForm = some r → p ≤ 1 → s.ringPresent p = true →
           exec (.ringLeave m) s = .next (((s.took m).ringClose p).respond m r .ok 0 [])) ∧
         (s.serving m 0x0A24 anyForm = some r → s.ringPresent 0 = true → r.u64 0x10 % 2 ^ 20 = 0 → r.u64 0x10 < 2 ^ 48 →
           r.u64 0x18 ≤ 2 ^ 36 - 2 ^ 20 → exec (.ringWindow m) s = .next (({ s.took m with
             ser.ebase := r.u64 0x10, ser.esize := r.u64 0x18 } : State).respond m r .ok 0 []))) ∧
       (s.serving m 0x0A22 anyForm = some r → r.u32 0x10 ≤ 1 → s.ringPresent (r.u32 0x10) = true →
         ∃ p, exec (.ringQuery m) s = .next ((s.took m).respond m r .ok 0 p) ∧
           p.take 4 = leBytes 4 ((s.ring (r.u32 0x10)).word 0).toNat) ∧
       (s.serving m 0x0A23 anyForm = some r → s.ringPresent 0 = true → ∀ a : AxisId, r.u32 0x10 = a.val →
         (s.axis a.val).controller = (s.box m).owner →
         (r.u32 0x14 = 0 → exec (.ringAxisExport m) s = .next (({ s.took m with
           ser.exports := s.ser.exports.filter fun (x : AxisId) => x != a } : State).respond m r .ok 0 [])) ∧
         (r.u32 0x14 = 1 → s.ser.exports.contains a = false → s.ser.exports.length < 4 → exec (.ringAxisExport m) s =
           .next (({ s.took m with ser.exports := s.ser.exports ++ [a] } : State).respond m r .ok 0 [])))) ∧
     (∀ (x : SegmentTrain) (j : Mb × Nat), s.ringPresent 0 = true → (s.ring x.port.val).join = some j →
       (x.conflict = true → ∃ t : State, exec (.quietSlot [x]) s = .next t ∧ (t.ring x.port.val).st = .bypassed ∧
         (t.ring x.port.val).join = none ∧ ∃ f ∈ t.flt.raised, f.src = 822 + x.port.val) ∧
       (x.conflict = false → ∃ t : State, exec (.quietSlot [x]) s = .next t ∧ (t.ring x.port.val).st = .up ∧
         (t.ring x.port.val).closed = false ∧ (t.ring x.port.val).join = none ∧ (t.ring x.port.val).segO = x.latency ∧
         (t.ring x.port.val).rate = min (segmentRate x.bypassed.val x.rate.val) (s.ring x.port.val).maxRate ∧
         t.ser.quietEnd = some (s.now + 200000)) ∧
       ((s.ring x.port.val).st = .waiting → j.2 + 30000000 ≤ s.now → x.conflict = false →
         (∃ t : State, exec (.joinTimeout x.port none) s = .next t ∧ t.ring x.port.val = { s.ring x.port.val with
           st := .training, closed := false } ∧ t.noc.req = s.noc.req) ∧
         ∃ t : State, exec (.joinTimeout x.port (some x)) s = .next t ∧ (t.ring x.port.val).st = .up ∧
           (t.ring x.port.val).join = none)) ∧
     (∀ (p : Fin 2),
       (s.ringPresent p.val = true → (s.ring p.val).closed = false → exec (.bypassClose p) s = .next (s.ringClose p.val) ∧
         ((s.ringClose p.val).ring p.val).st = .bypassed ∧ ((s.ringClose p.val).ring p.val).closed = true ∧
         ((s.ringClose p.val).ring p.val).path = [] ∧ ((s.ringClose p.val).ring p.val).join = none) ∧
       ((s.ring p.val).st = .up ∨ (s.ring p.val).st = .healing →
         (∀ x : Fin 6, ∃ t : State, exec (.segmentHeal p (some x)) s = .next t ∧ (t.ring p.val).st = .up ∧
           (t.ring p.val).rate = segmentRate (s.ring p.val).bypI.toNat (min x.val (s.ring p.val).maxRate) ∧
           (t.ring p.val).heals = satInc (s.ring p.val).heals ∧ (t.ring p.val).unacked = (s.ring p.val).unacked ∧
           ∃ f ∈ t.flt.raised, f.src = 818 + p.val) ∧
         ∃ t : State, exec (.segmentHeal p none) s = .next t ∧ (t.ring p.val).st = .failed ∧ (t.ring p.val).path = [] ∧
           (t.ring p.val).heals = satInc (s.ring p.val).heals ∧ ∃ f ∈ t.flt.raised, f.src = 818 + p.val) ∧
       ((s.ring p.val).st = .up → ∀ lat : BitVec 24, ∃ t : State, exec (.ringMeasure p lat) s = .next t ∧
         (t.ring p.val).segO = lat ∧ (∀ q, p.val ≠ q → t.ring q = s.ring q) ∧
         (50 * 256 < ((lat.toNat : Int) - (s.ring p.val).segO.toNat).natAbs * 1000 →
           ∃ f ∈ t.flt.raised, f.src = 820 + p.val) ∧
         (((lat.toNat : Int) - (s.ring p.val).segO.toNat).natAbs * 1000 ≤ 50 * 256 → t.flt = s.flt)))) ∧
  (∀ (s : State) (p : Fin 2) (x : RingPort), x = s.ring p.val →
     (x.st = .up →
       (∀ cell : List Byte, 64 ≤ cell.length → cell.length % 64 = 0 →
         (leNat ((cell.drop 60).take 4) ≠ (crc32c (cell.take 60)).toNat →
           exec (.ringCellReceive p cell) s = .next (s.ringAck p true (x.rxSeq % 65536))) ∧
         (leNat ((cell.drop 60).take 4) = (crc32c (cell.take 60)).toNat →
           (leNat ((cell.drop 2).take 2) ≠ x.rxSeq % 65536 →
             exec (.ringCellReceive p cell) s = .next (s.ringAck p false (leNat ((cell.drop 2).take 2)))) ∧
           (leNat ((cell.drop 2).take 2) = x.rxSeq % 65536 → x.rxHold = none →
             leNat ((cell.drop 56).take 4) = (crc32c []).toNat →
             ∃ t : State, exec (.ringCellReceive p cell) s = .next t ∧ (t.ring p.val).rxSeq = x.rxSeq + 1 ∧
               (cell.length = 64 → t.ser.cells.length = s.ser.cells.length + 1 + (if leNat ((cell.drop 1).take 1) / 16 = x.ringId.toNat ∨
                 leNat (cell.take 1) = 5 then 0 else 1)) ∧
               (64 < cell.length → t.ser.cells = s.ser.cells ∧ (t.ring p.val).rxHold = some (leNat (cell.take 1),
                 leNat ((cell.drop 1).take 1) / 16, (cell.drop 4).take 52, cell.drop 64))))) ∧
       (∀ i, i < x.unacked.length →
         (∀ seq : BitVec 16, (x.unacked.findIdx? fun c => leNat ((c.2.drop 2).take 2) == seq.toNat) = some i →
           ∃ t : State, exec (.ringNak p seq) s = .next t ∧ (t.ring p.val).unacked = x.unacked.drop i ∧
             (t.ring p.val).replay = satInc x.replay ∧ t.ser.cells = s.ser.cells ++ (x.unacked.drop i).map (fun c => (p, c.2)) ∧
             ∃ f ∈ t.flt.raised, f.src = 816 + p.val) ∧
         ∃ t : State, exec (.ringAckTimeout p) s = .next t ∧ (t.ring p.val).unacked = x.unacked ∧
           (t.ring p.val).replay = satInc x.replay ∧ t.ser.cells = s.ser.cells ++ x.unacked.map (fun c => (p, c.2))) ∧
       (∀ (src : Fin 16) (c : AxisCell), ∃ t : State, exec (.axisCellReceive p src c) s = .next t ∧
         (∀ n, n < 16 → (s.axis n).cfg.src.toNat = 24 → bitsOf (s.axis n).cfg.srcReg.toNat 25 4 = src.val →
           bitsOf (s.axis n).cfg.srcReg.toNat 31 1 = p.val → bitsOf (s.axis n).cfg.srcReg.toNat 0 4 = c.ax.val →
           (s.axis n).st ≠ .disabled → (t.axis n).ringPos = c.pos ∧ (t.axis n).ringRate = c.rate ∧ (t.axis n).ringTime = s.now ∧
             (t.axis n).ringAge = c.age.toNat + x.segI.toNat ∧ (t.axis n).ringTimeAxis = c.timeAxis ∧
             (t.axis n).ringEpoch = some c.epoch) ∧
         ∀ n, (s.axis n).cfg.src.toNat ≠ 24 → t.axis n = s.axis n) ∧
       (∀ (src : Fin 16) (off : BitVec 16) (remain : BitVec 32), exec (.strikeCellReceive p src off remain) s =
         .next (s.strikeArrive p src off.toNat remain.toNat)) ∧
       (∀ (src : Fin 16) (tag : BitVec 12),
         (∀ (off : BitVec 36) (n : Fin 513), n.val ≠ 0 → off.toNat + n.val ≤ s.ser.esize → ∃ t : State,
           exec (.ringPkt p src (.read off n tag)) s = .next t ∧ t.noc.nextReq = s.noc.nextReq + 1 ∧
           ∃ q, t.req s.noc.nextReq = some q ∧ q.op = .read ∧ q.addr = s.ser.ebase + off.toNat ∧ q.len = n.val ∧
             q.owner = s.peerOwner p.val src.val ∧ q.sink = .ring p src tag) ∧
         (∀ (off : BitVec 36) (n : Fin 513), n.val ≠ 0 → s.ser.esize < off.toNat + n.val → ringBox off.toNat = none → ∃ t : State,
           exec (.ringPkt p src (.read off n tag)) s = .next t ∧
           ∃ q, t.req s.noc.nextReq = some q ∧ q.stage = .answered .unmapped []) ∧
         (∀ (off : BitVec 36) (n : Fin 513) (m : Mb) (i : Nat), n.val ≠ 0 → s.ser.esize < off.toNat + n.val →
           ringBox off.toNat = some (m, i) → ∃ (t : State) (q : Req), exec (.ringPkt p src (.read off n tag)) s = .next t ∧
             t.req s.noc.nextReq = some q ∧ q.addr = 0x040000000000 + 0x1000 * m.val + i ∧ q.len = n.val ∧
             (s.boxPeer p src m = false → q.stage = .answered .notOwner [])) ∧
         (∀ (off : BitVec 36) (data : List Byte), data ≠ [] → data.length ≤ 512 → off.toNat + data.length ≤ s.ser.esize →
           ∃ (t : State) (q : Req), exec (.ringPkt p src (.write off data tag)) s = .next t ∧ t.noc.nextReq = s.noc.nextReq + 1 ∧
             t.req s.noc.nextReq = some q ∧ q.op = .write ∧ q.addr = s.ser.ebase + off.toNat ∧ q.data = data ∧
             q.owner = s.peerOwner p.val src.val ∧ q.sink = .ring p src tag) ∧
         (∀ (id : Nat) (q : Req) (st : BitVec 4) (data : List Byte), s.noc.req = [(id, some q)] → q.stage = .target →
           q.dst = portRouter p.val → q.tag = tag → (∃ y, s.place q.addr q.len = .ring src.val y) →
           exec (.ringPkt p src (.reply tag st data)) s = .next (s.answer id q (NocStatus.ofCode st.toNat)
             (if q.op = .read ∧ st = 0 then padTo q.len (data.take q.len) else []))))) ∧
     (∀ a : AxisId, a ∈ s.ser.exports → (s.axis a.val).st ≠ .disabled → ∃ t : State, exec (.axisCellSend a) s = .next t ∧
       t.ser.cells.length = s.ser.cells.length + (if (s.ring 0).st = .up then 1 else 0) + (if (s.ring 1).st = .up then 1 else 0)) ∧
     (∀ (slot : SlotId) (l : Nat × Owner × Nat × Nat × Nat × Nat), (s.stk.launches.find? fun e => e.1 == slot.val) = some l →
       ((s.ring l.2.2.1).st ≠ .up → exec (.strikeCellLaunch slot) s = .next ((({ s with
           stk.launches := s.stk.launches.erase l } : State).setRing l.2.2.1 { s.ring l.2.2.1 with
             strikeLost := satInc (s.ring l.2.2.1).strikeLost }).raise 824 [l.2.1])) ∧
       ((s.ring l.2.2.1).st = .up → (tget (s.ring l.2.2.1).path {} l.2.2.2.1).reach = true → ∃ t : State,
         exec (.strikeCellLaunch slot) s = .next t ∧ t.stk.launches = s.stk.launches.erase l ∧ t.flt = s.flt ∧
         t.ser.cells.length = s.ser.cells.length + 1)))

/-! ### Loading -/

/-- R161, R163, R168, R171, R176, R415, R416: a firmware image that passes its checks starts the load, and one that fails leaves the device
config-only; a header that passes opens a stream, and a listener that waits for CFG_DONE takes a golden one; a segment not meant for the
group is only chained, another gives its manifest or its records, and the last one releases CFG_DONE; the source reads all of them from
its flash and passes them on; any failure clears the device and goes on to the golden image or config-only, its first cause recorded. R31, R118, R127, R162, R168, R169,
R337, R396, R407: CFG_DONE high begins the start-up, or its wait expires; each step is taken in turn once its wait is over, RELEASE_IO
sets the device running, and Atmon then applies the manifest, binds the mailboxes with new tokens due and reports READY. -/
def Obligations.ImagesLoadAndStartUp : Prop :=
  (∀ (s u : State), u = { s with cfg.lastByte := s.now } →
     (∀ (image f : List Byte) (v : State), s.cfg.st = .firmware → f = (if s.ownFlash then s.flashFirmware.getD image else image) →
       v = s.ringFeed f →
       (v.fwErrOf f = 0 → ∃ t : State, exec (.firmwareCheck image) s = .next t ∧ t.mbx.prog = .atmon ∧ t.mbx.ready = false ∧
         t.mbx.fwErr = 0 ∧ t.mbx.fwFail = false ∧ t.cfg.st = .loading ∧ t.cfg.lastByte = s.now ∧ t.cfg.frame = s.cfg.frame) ∧
       (v.fwErrOf f ≠ 0 → ∃ t : State, exec (.firmwareCheck image) s = .next t ∧ t.mbx.prog = .recovery ∧
         t.mbx.fwErr = v.fwErrOf f ∧ t.mbx.fwFail = true ∧ t.cfg.st = .configOnly ∧ t.cfg.frame = [] ∧
         (t.box 0).bound = true ∧ (t.box 1).bound = false ∧ ∃ f ∈ t.flt.raised, f.src = 43)) ∧
     (∀ (h k : List Byte) (v : State), k = (if u.ownFlash then u.imageNext 512 else h) → v = (if u.ownFlash then u.sourced k else u) →
       (s.cfg.st = .loading → s.cfg.stream = none → s.cfg.host = none →
         (v.headerErr k v.kindsTaken = none → exec (.streamHeader h) s = .next { v with cfg.stream := some (v.streamOf k) }) ∧
         (∀ e, v.headerErr k v.kindsTaken = some e → exec (.streamHeader h) s = .next (v.loadFail e 0))) ∧
       (s.cfg.st = .waitDone → s.cfg.golden = false → s.cfg.bootSel = 1#2 ∨ s.cfg.bootSel = 3#2 → hdrKind h = 2 →
         exec (.streamHeader h) s = .next (u.toGolden.takeHeader h))) ∧
     (∀ (bs g : List Byte) (x : Stream) (v : State), s.cfg.st = .loading → s.cfg.stream = some x → s.cfg.host = none →
       g = (if u.ownFlash then u.imageNext (min 8388689 (segSize (u.imageNext 16))) else bs) → v = (if u.ownFlash then u.sourced g else u) →
       (∀ e, x.chainErr g = some e → exec (.segment bs) s = .next (v.loadFail e x.next)) ∧
       (x.chainErr g = none →
         (segTaken g v.cfg.group.toNat = false → x.next + 1 < hdrCount x.hdr →
           exec (.segment bs) s = .next { v with cfg.stream := some (x.after g) }) ∧
         (segTaken g v.cfg.group.toNat = true → ∀ p : List Byte, x.payload g = .inr p →
           (segKind g = 0 → x.took = false → ∀ mf, manifestOf p = some mf → mf.err = none → x.next + 1 < hdrCount x.hdr →
             exec (.segment bs) s = .next { v with cfg.stream := some (({ x with man := some mf, took := true } : Stream).after g) }) ∧
           (segKind g ≠ 0 → x.man.isSome = true → ∀ (rs : List Rec) (t : State), recsOf (segKind g) p = some rs →
             v.loadRecs (hdrEncrypted x.hdr) rs = (0, t) → t.cfg.host = none →
             (x.next + 1 < hdrCount x.hdr → exec (.segment bs) s = .next { t with cfg.stream := some (x.after g) }) ∧
             (∀ mf, x.man = some mf → hdrCount x.hdr ≤ x.next + 1 → ∃ w : State, exec (.segment bs) s = .next w ∧
               w.cfg.st = .waitDone ∧ w.cfg.doneAt = some t.now ∧ w.cfg.stream = none ∧ w.cfg.man = mf ∧ w.cfg.frame = t.cfg.frame ∧
               w.mbx.ready = false))))) ∧
     (∀ code seg,
       (s.cfg.attempt = 0 → (s.loadFail code seg).cfg.st = .loading ∧ (s.loadFail code seg).cfg.golden = true ∧
         (s.loadFail code seg).cfg.attempt = 1 ∧ (s.loadFail code seg).cfg.frame = []) ∧
       (s.cfg.attempt ≠ 0 → (s.loadFail code seg).cfg.st = .configOnly ∧ (s.loadFail code seg).cfg.frame = []) ∧
       (s.cfg.errCode = 0 → (s.loadFail code seg).cfg.errCode = code ∧ (s.loadFail code seg).cfg.errSeg = seg ∧
         (s.loadFail code seg).cfg.errAttempt = s.cfg.attempt) ∧
       (s.cfg.errCode ≠ 0 → (s.loadFail code seg).cfg.errCode = s.cfg.errCode)) ∧
     (s.cfg.st = .loading → s.cfg.lastByte + 100000000 ≤ s.now →
       exec .sourceSilent s = .next (s.loadFail 19 (s.cfg.stream.elim 0 fun x => x.next))) ∧
     (∀ h, s.cfg.host = some h → h.mb = none → s.configOnly = true → h.since + 1000000000 < s.now →
       exec .hostLoadGap s = .next (s.loadFail 12 (s.cfg.stream.elim 0 fun x => x.next)))) ∧
  (∀ (s : State),
     (s.cfg.st = .waitDone → exec .cfgDoneHigh s = .next { s with
       cfg.donePin := true
       cfg.st := .startup
       cfg.stepAt := s.now }) ∧
     (∀ t0, s.cfg.doneAt = some t0 → s.cfg.st = .waitDone → t0 + s.doneWait ≤ s.now →
       (s.cfg.attempt = 0 → s.cfg.bootSel = 0#2 → ∃ t : State, exec .doneWaitExpiry s = .next t ∧ t.cfg.st = .loading ∧
         t.cfg.golden = true ∧ t.cfg.attempt = 1 ∧ ∃ f ∈ t.flt.raised, f.src = 131) ∧
       (s.cfg.attempt = 1 ∨ s.cfg.attempt = 3 → ∃ t : State, exec .doneWaitExpiry s = .next t ∧ t.cfg.st = .configOnly ∧ ∃ f ∈ t.flt.raised, f.src = 131)) ∧
     (s.stepDue 0 = true →
       (s.clocksLocked = true → exec .waitLock s = .next { s with
         cfg.stepAt := s.now
         cfg.lockDone := true }) ∧
       (s.cfg.man.lockTimeout ≠ 0#16 → s.stepFrom 0 + 16000 * s.cfg.man.lockTimeout.toNat ≤ s.now →
         exec .lockTimeout s = .next (({ s with
           cfg.stepAt := s.now
           cfg.lockDone := true
           cfg.lockTo := true } : State).raise 130 [0]))) ∧
     (s.stepDue 1 = true → exec .releaseGsr s = .next { s with
       cfg.stepAt := s.now
       cfg.gsr := false }) ∧
     (s.stepDue 2 = true → exec .enableWrites s = .next { s with
       cfg.stepAt := s.now
       cfg.writesOn := true }) ∧
     (s.stepDue 3 = true → ∃ t : State, exec .releaseIo s = .next t ∧ t.cfg.ioOn = true ∧ t.cfg.st = .running ∧ t.cfg.stepAt = s.now ∧
       t.cfg.loadUs.toNat = (s.now - s.cfg.start) / 1000 % 2 ^ 32 ∧ t.cfg.host = none ∧ t.pce.crs = false ∧ t.cfg.frame = s.cfg.frame) ∧
     (s.stepDue 1 = false → s.stepDue 2 = false → exec .releaseGsr s = .next s ∧ exec .enableWrites s = .next s) ∧
     (s.cfg.st = .running → s.mbx.prog = .atmon → s.mbx.ready = false → ∃ t : State, exec .atmonReady s = .next t ∧
       t.mbx.ready = true ∧ t.mbx.reloading = false ∧ t.man = { s.cfg.man with inForce := true } ∧
       (∀ m : Mb, (t.box m).tokenDue = true) ∧ (t.box 10).bound = s.cfg.man.pf1.isSome ∧
       (∀ m : Mb, m.val < 4 → (t.box m).bound = s.cfg.man.pf0.isSome ∧ (t.box m).owner = s.cfg.man.pf0.getD 0) ∧
       (∀ k, k < 8 → s.dportOn k = true → (s.dport k).st = .untrained → (t.dport k).st = .training) ∧ t.cfg.frame = s.cfg.frame))

/-- R166, R177, R414, R415, R417, R418: CFG_QUERY answers the status of the load; CFG_HOST_LOAD offers a chunk and CFG_RELOAD falls due in 1
ms; the flash is read, erased and written; FW_UPDATE stores an image that passes the checks, and FW_LOAD waits for its image. -/
def Obligations.LoadingCommandsComplete : Prop :=
  ∀ (m : Mb) (r : Running) (s u : State), u = s.took m → r.final = none →
    (s.serving m 0x0201 anyForm = some r → ∃ p, exec (.cfgQuery m) s = .next (u.respond m r .ok 0 p) ∧
      p = pay 0x58 [(0x10, 4, s.cfgStat.toNat), (0x14, 4, s.cfgErr.toNat), (0x18, 4, 0x07140A01), (0x1C, 4, s.cfg.target.toNat),
        (0x20, 4, s.cfg.version.toNat), (0x24, 4, s.cfg.loadUs.toNat), (0x28, 48, leNat s.cfg.chain)]) ∧
    (s.hasConfig (s.box m).owner = true →
      (s.serving m 0x0202 anyForm = some r → s.configOnly = true → s.mbx.prog = .atmon → 1 ≤ r.u32 0x14 → r.u32 0x14 ≤ 62 →
        (∀ i, i < r.u32 0x14 → extentOk r i = true) → r.u32 0x10 = 1 ∨ r.u32 0x10 = 3 → s.cfg.host = none →
        ∃ t : State, exec (.cfgHostLoad m) s = .next t ∧ t.cfg.attempt = 2 ∧ t.cfg.errCode = 0 ∧ t.cfg.stream = none ∧
          t.cfg.host = some { offered := ((List.range (r.u32 0x14)).map fun i => r.u32 (0x18 + 16 * i + 8)).foldl (· + ·) 0
                              consumed := 0, since := s.now, last := r.bit 0x10 1, mb := some m } ∧
          (t.box m).run = some { r with long := true }) ∧
      (∀ h, s.serving m 0x0202 anyForm = some r → s.configOnly = true → s.mbx.prog = .atmon → 1 ≤ r.u32 0x14 → r.u32 0x14 ≤ 62 →
        (∀ i, i < r.u32 0x14 → extentOk r i = true) → r.u32 0x10 = 0 ∨ r.u32 0x10 = 2 → s.cfg.host = some h → h.mb = none →
        ∃ t : State, exec (.cfgHostLoad m) s = .next t ∧ t.cfg.stream = s.cfg.stream ∧
          t.cfg.host = some { h with
            offered := h.offered + ((List.range (r.u32 0x14)).map fun i => r.u32 (0x18 + 16 * i + 8)).foldl (· + ·) 0
            last := r.bit 0x10 1
            mb := some m } ∧
          (t.box m).run = some { r with long := true }) ∧
      (s.serving m 0x0203 anyForm = some r → r.u32 0x10 ≤ 2 → r.u32 0x14 ≤ 1 → s.anyAdmitted = false ∨ r.bit 0x14 0 = true →
        exec (.cfgReload m) s = .next (({ u with
          cfg.reload := some (s.now + 1000000, r.u32 0x10)
          mbx.reloading := true } : State).respond m r .ok 0 [])) ∧
      (s.drivesFlash = true → r.u32 0x14 ≤ 0x4000000 →
        (s.serving m 0x0211 anyForm = some r → r.u32 0x10 % 0x10000 = 0 → r.u32 0x14 % 0x10000 = 0 →
          s.goldenKept (r.u32 0x10) (r.u32 0x14) = false → ∃ t : State, exec (.flashErase m) s = .next t ∧
            (∀ a, r.u32 0x10 ≤ a → a < r.u32 0x10 + r.u32 0x14 → t.flashBytes a 1 = [0xFF#8]) ∧
            (∀ a, a < r.u32 0x10 ∨ r.u32 0x10 + r.u32 0x14 ≤ a → t.flashBytes a 1 = s.flashBytes a 1) ∧
            (t.box m).run = some { r with long := true, final := some (0, 0, []) }) ∧
        (s.serving m 0x0210 anyForm = some r → ∀ t : State,
          (u.modBox m fun b => { b with run := some { r with long := true } }).cmdWrite (s.box m).owner (r.u64 0x18)
            (s.flashBytes (r.u32 0x10) (r.u32 0x14)) = (.ok, t) → exec (.flashRead m) s =
            .next ((t.finish m .ok).modBox m fun b => { b with run := b.run.map fun x => { x with long := true } })) ∧
        (s.serving m 0x0212 anyForm = some r → s.goldenKept (r.u32 0x10) (r.u32 0x14) = false → ∀ (bs : List Byte) (t : State),
          (u.modBox m fun b => { b with run := some { r with long := true } }).cmdRead (s.box m).owner (r.u64 0x18) (r.u32 0x14) =
            (.ok, bs, t) → exec (.flashWrite m) s = .next (((t.flashWrite (r.u32 0x10) bs).finish m .ok).modBox m fun b => { b with
              run := b.run.map fun x => { x with long := true } }))) ∧
      (s.serving m 0x0110 anyForm = some r → s.drivesFlash = true → r.u32 0x1C % 0x10000 = 0 → r.u32 0x20 ≤ 1 →
        s.flashProtected (r.u32 0x1C) (r.u32 0x18) = false → ∀ (image : List Byte) (t : State),
        (u.modBox m fun b => { b with run := some { r with long := true } }).cmdRead (s.box m).owner (r.u64 0x10) (r.u32 0x18) =
          (.ok, image, t) → t.fwErrOf image = 0 → ∃ v : State, exec (.fwUpdate m) s = .next v ∧ v.mbx.fwErr = 0 ∧ v.mbx.fwFail = false ∧
            (r.u32 0x20 = 0 → v.cfg.flash = ((t.flashErase (r.u32 0x1C) (r.u32 0x18)).flashWrite (r.u32 0x1C) image).cfg.flash) ∧
            (r.u32 0x20 = 1 → v.cfg.flash =
              (((t.flashErase (r.u32 0x1C) (r.u32 0x18)).flashWrite (r.u32 0x1C) image).setFirmware (r.u32 0x1C)).cfg.flash))) ∧
    (s.serving m 0x0111 anyForm = some r → (s.box m).owner = 0 → s.configOnly = true → s.mbx.prog ≠ .atmon →
      (∀ k : Mb, k ≠ m → s.fwWaits k = false) → 0x020000000000 ≤ r.u64 0x10 → r.u64 0x10 + r.u32 0x18 ≤ 0x030000000000 →
      ∃ t : State, exec (.fwLoad m) s = .next t ∧ (t.box m).run = some { r with long := true } ∧ t.fwWaits m = true ∧
        ∀ image : List Byte, t.fwErrOf (image.take (r.u32 0x18)) = 0 → ∃ v : State,
          exec (.firmwareCheck image) t = .next v ∧ v.mbx.prog = .atmon ∧ v.mbx.ready = true ∧ v.mbx.fwErr = 0)

/-! ### Overlays and the configuration scrubber -/

/-- R182 to R188, R193, R199, R227: the image store is created over the ready DRAM ports and frames are copied into it; OVL_STORE keeps a
container that passes its checks under a new handle, which OVL_DROP frees; OVL_STAGE and OVL_LOAD_QUIESCED begin a staging with the shadow
plane cleared; a swap is armed on the region's strike slot and disarmed; the queries answer their registers; ENG_LOAD writes the records
of an engine container. R187, R189, R190, R193, R194, R517: a staging whose frames pass makes the shadow plane READY and answers, and any
other, or one whose store read fails, is discarded with REJECT_S; a swap at its edge (the present instant while a sector of the region is
being captured) exchanges the planes; the region is usable 8 ns later and its record follows. -/
def Obligations.OverlaysAreLoadedAndSwapped : Prop :=
  (∀ (s : State),
     (∀ (m : Mb) (r : Running) (u v : State), u = s.took m → v = (u.modBox m fun b => { b with run := some { r with long := true } }) →
       r.final = none →
       (s.serving m 0x0220 anyForm = some r → s.ovl.made = true → s.storeUsed + r.u32 0x18 ≤ s.storeSize →
         ∀ (h : List Byte) (t : State) (d : RegionRec) (i : Nat),
         v.cmdRead (s.box m).owner (r.u64 0x10) (r.u32 0x18) = (.ok, h, t) → t.storeReadable = true →
         t.headerErr (h.take 512) [3, 4] = none → hdrOwner h = (s.box m).owner.val →
         (hdrKind h = 3 → t.regionRec (hdrRegion h) = some d ∧ d.owner = (s.box m).owner) → chainReason (hdrCount h) (t.streamOf (h.take 512)) (h.drop 512) = 0 →
         firstFree 65536 (fun i => (t.stored i).isNone) = some i →
         ∃ w : State, exec (.ovlStore m) s = .next w ∧ w.stored i = some {
           bytes := h, owner := (s.box m).owner, kind := hdrKind h, region := hdrRegion h, version := hdrVersion h } ∧
           ∀ j, j ≠ i → w.stored j = t.stored j) ∧
       (∀ x, s.stored (r.u16 0x10) = some x → x.owner = (s.box m).owner →
         (s.serving m 0x0221 anyForm = some r → s.resident (r.u16 0x10) = false →
           exec (.ovlDrop m) s = .next ((u.setStored (r.u16 0x10) none).respond m r .ok 0 [])) ∧
         (∀ d i, s.regionRec x.region = some d → i = d.region.val → x.kind = 3 → d.owner = (s.box m).owner → s.armed i = false →
           (s.ovlRegion i).quiesced = none → (s.ovlRegion i).swapping = none → (s.ovlRegion i).staging = none →
           s.stagingCon (s.box m).owner (r.u32 0x14) = true →
           (∀ q ∈ d.quads, bitOf s.ckr.pwrSec.toNat (quadSector q) = true) → ((v.emptyShadow d).stageReason x d).1 = 0 →
           (s.serving m 0x0222 anyForm = some r → ∃ w : State, exec (.ovlStage m) s = .next w ∧ (w.ovlRegion i).shadow = .staging ∧
             (w.ovlRegion i).staging = some { mb := m, handle := r.u16 0x10, quiesced := false, since := s.now, con := r.u32 0x14 } ∧
             (w.ovlRegion i).active = (s.ovlRegion i).active ∧ (w.box m).run = some { r with long := true }) ∧
           (s.serving m 0x0225 anyForm = some r → ∃ w : State, exec (.ovlLoadQuiesced m) s = .next w ∧ (w.ovlRegion i).shadow = .staging ∧
             (w.ovlRegion i).staging = some { mb := m, handle := r.u16 0x10, quiesced := true, since := s.now, con := r.u32 0x14 } ∧
             (w.ovlRegion i).active = (s.ovlRegion i).active ∧ (w.box m).run = some { r with long := true })) ∧
         (s.serving m 0x0240 anyForm = some r → v.headerErr (x.bytes.take 512) [4] = none →
           hdrOwner (x.bytes.take 512) = (s.box m).owner.val → s.storeReadable = true → ∀ (k : Nat) (l : List (Nat × Nat)) (t : State),
           v.engineWalk (s.box m).owner (hdrCount (x.bytes.take 512)) (v.streamOf (x.bytes.take 512)) (x.bytes.drop 512) [] =
             (.ok, k, l, t) → exec (.engLoad m) s = .next ((t.finish m .ok (pay 0x14 [(0x10, 4, 0)])).modBox m fun b => { b with
               run := b.run.map fun x => { x with long := true } }))) ∧
       (∀ d, s.regionRec (r.u32 0x10) = some d →
         (d.owner = (s.box m).owner →
           (s.serving m 0x0223 anyForm = some r → r.u32 0x14 ≤ 15 → r.u32 0x28 ≤ 1 → r.u32 0x2C ≤ 255 →
             (s.ovlRegion (r.u32 0x10)).shadow = .ready → (s.axis (r.u32 0x14)).cfg.bidir = false →
             (s.axis (r.u32 0x14)).st ≠ .disabled → s.armed (r.u32 0x10) = false → (s.ovlRegion (r.u32 0x10)).quiesced = none →
             (s.ovlRegion (r.u32 0x10)).swapping = none → (r.u64 0x20 ≠ 0 →
               (s.ovlRegion (r.u32 0x10)).act.isSome = true ∧ (s.ovlRegion (r.u32 0x10)).shd.isSome = true) →
             exec (.ovlArmSwap m) s = .next ((((u.modOvlRegion (r.u32 0x10) fun x => { x with
                 toggle := decide (r.u64 0x20 ≠ 0)
                 armId := BitVec.ofNat 8 (r.u32 0x2C) }).setStrike (r.u32 0x10) {
               pos := BitVec.ofNat 64 (r.u64 0x18)
               interval := BitVec.ofNat 64 (r.u64 0x20)
               arg := BitVec.ofNat 64 (r.u32 0x10 + 256 * r.u32 0x2C)
               ctl := BitVec.ofNat 16 (r.u32 0x14 + 0x30 + 0x200 * r.u32 0x28 + 0x400)
               owner := d.owner }).catchUp (r.u32 0x10) 0).respond m r .ok 0 (pay 0x14 [(0x10, 4, r.u32 0x10)]))) ∧
           (s.serving m 0x0224 anyForm = some r → s.armed (r.u32 0x10) = true →
             (s.stk.swaps.any fun (w : Nat × Nat × Nat) => w.1 == r.u32 0x10) = false → ∃ t : State,
             exec (.ovlDisarm m) s = .next (t.respond m r .ok 0 []) ∧ t.armed (r.u32 0x10) = false ∧
             t.ovlRegion (r.u32 0x10) = s.ovlRegion (r.u32 0x10))) ∧
         (s.serving m 0x0226 anyForm = some r → ∃ t : State, exec (.ovlQuery m) s = .next (t.respond m r .ok 0
           ((List.range 4).map fun j => leBytes 4 (s.ovlReg (r.u32 0x10) j).toNat).flatten) ∧
           (d.owner = (s.box m).owner → (t.ovlRegion (r.u32 0x10)).swapS = false ∧ (t.ovlRegion (r.u32 0x10)).lateS = false ∧
             (t.ovlRegion (r.u32 0x10)).rejectS = false) ∧ (d.owner ≠ (s.box m).owner → t = u))) ∧
       (s.serving m 0x0230 anyForm = some r → s.hasConfig (s.box m).owner = true → exec (.cfgScrubConfig m) s =
         .next ((if r.bit 0x10 0 = true ∧ s.ovl.scrubEn = false then
             { u with ovl.scrubEn := true, ovl.scan := some 0, ovl.lapAt := s.now }
           else { u with ovl.scrubEn := r.bit 0x10 0 } : State).respond m r .ok 0 [])) ∧
       (s.serving m 0x0231 anyForm = some r → exec (.cfgScrubQuery m) s = .next (u.respond m r .ok 0
         ((List.range 6).map fun j => leBytes 4 (s.scrubReg j).toNat).flatten))) ∧
     (s.mbx.ready = true → s.configOnly = false → s.ovl.made = false → (∀ k, k < 8 → s.dportPresent k = true → (s.dport k).st = .ready) →
       ∀ pb, s.findPbase (2 ^ ((List.range 8).filter s.dportPresent).length - 1)
         (s.storeTotal ((List.range 8).filter s.dportPresent).length / ((List.range 8).filter s.dportPresent).length) = some pb →
       ∃ t : State, exec .imageStoreCreate s = .next t ∧ t.ovl.made = true ∧ (t.region 15).defined = true ∧ (t.region 15).owner = 0 ∧
         (t.region 15).base = vaultBase - (t.region 15).size ∧
         (t.region 15).size = s.storeTotal ((List.range 8).filter s.dportPresent).length) ∧
     (∀ a : BitVec 20, s.ovl.made = true → frameExists a.toNat = true → (s.frame a.toNat).finding = .clean →
       (s.frame a.toNat).enc = false ∨ s.variant.mxe = true → s.frameSettled a.toNat = true → s.storeReadable = true →
       exec (.frameCopyFill a) s = .next (s.setFrame a.toNat { s.frame a.toNat with copied := true }))) ∧
  (∀ (s : State) (r : RegionId) (d : RegionRec), s.regionRec r.val = some d →
     (∀ (g : Staging) (read : Bool) (w : Nat), (s.ovlRegion r.val).staging = some g → (s.ovlRegion r.val).quiesced = none →
       (s.ovlRegion r.val).shadow = .staging → w = (if read then (s.stageAll d g false).1 else 11) →
       (w = 0 → g.quiesced = false → ∃ t : State, exec (.stagingComplete r read) s = .next t ∧
         (t.ovlRegion r.val).shadow = .ready ∧ (t.ovlRegion r.val).shd = some g.handle ∧ (t.ovlRegion r.val).staging = none ∧
         (t.ovlRegion r.val).con = some g.con) ∧
       (w = 0 → g.quiesced = true → ∃ t : State, exec (.stagingComplete r read) s = .next t ∧
         (t.ovlRegion r.val).shadow = .ready ∧ (t.ovlRegion r.val).quiesced.isSome = true ∧ (t.ovlRegion r.val).staging = some g) ∧
       (w ≠ 0 → ∃ t : State, exec (.stagingComplete r read) s = .next t ∧ (t.ovlRegion r.val).shadow = .empty ∧
         (t.ovlRegion r.val).staging = none ∧ (t.ovlRegion r.val).rejectS = true)) ∧
     (∀ (g : Staging) (read : Bool) (w : Nat), (s.ovlRegion r.val).staging = some g → (s.ovlRegion r.val).quiesced.isSome = true →
       (s.ovlRegion r.val).swapDue = false → w = (if read then (s.stageAll d g true).1 else 11) →
       (w = 0 → ∃ t : State, exec (.quiesceEnd r read) s = .next t ∧ (t.ovlRegion r.val).swapDue = true) ∧
       (w ≠ 0 → ∃ t : State, exec (.quiesceEnd r read) s = .next t ∧ (t.ovlRegion r.val).shadow = .empty ∧
         (t.ovlRegion r.val).staging = none ∧ (t.ovlRegion r.val).quiesced = none)) ∧
     ((s.ovlRegion r.val).swapping = none →
       (∀ w, (s.ovlRegion r.val).swapDue = false → (s.stk.swaps.find? fun (w : Nat × Nat × Nat) => w.1 == r.val) = some w →
         swapEdgeOf w.2.2 ≤ s.now → (s.ovlRegion r.val).shadow = .ready → ∃ t : State,
         exec (.swapEdge r) s = .next t ∧ (t.ovlRegion r.val).active = !(s.ovlRegion r.val).active ∧
         (t.ovlRegion r.val).act = (s.ovlRegion r.val).shd ∧ (t.ovlRegion r.val).shd = (s.ovlRegion r.val).act ∧
         (t.ovlRegion r.val).swapping = some (if s.capturing d then s.now else swapEdgeOf w.2.2) ∧
         (t.ovlRegion r.val).lastSwap = (t.ovlRegion r.val).swapping ∧ (t.ovlRegion r.val).record = true ∧ t.stk.swaps = s.stk.swaps.erase w ∧
         t.cfg.frame = s.cfg.frame ∧ ∀ j, j ≠ r.val → t.ovlRegion j = s.ovlRegion j) ∧
       (∀ g q, (s.ovlRegion r.val).swapDue = true → (s.ovlRegion r.val).staging = some g → (s.ovlRegion r.val).quiesced = some q →
         ∃ t : State, exec (.swapEdge r) s = .next t ∧ (t.ovlRegion r.val).active = !(s.ovlRegion r.val).active ∧
         (t.ovlRegion r.val).swapping = some ((s.now + 1) / 2 * 2) ∧ (t.ovlRegion r.val).staging = none ∧
         (t.ovlRegion r.val).quiesced = none)) ∧
     (∀ e, (s.ovlRegion r.val).swapping = some e → e + 8 ≤ s.now → exec (.regionUsable r) s =
       .next (s.setOvlRegion r.val { s.ovlRegion r.val with swapping := none })) ∧
     ((s.ovlRegion r.val).record = true → ∃ t : State, exec (.swapRecordUpdate r) s = .next t ∧ (t.ovlRegion r.val).record = false ∧
       (t.ovlRegion r.val).swapS = true ∧ (t.ovlRegion r.val).swaps = (s.ovlRegion r.val).swaps + 1 ∧
       (t.ovlRegion r.val).shownActive = (s.ovlRegion r.val).active ∧ (t.ovlRegion r.val).shownAct = (s.ovlRegion r.val).actVer))

/-- R155, R195 to R197: the scrubber reads the next frame of its lap, passes over one whose region swaps, and keeps what the frame's check
bits and signature find, nothing where no bit is upset; a repaired frame has its contents again and is counted with its fault; a frame
without a source, or one that cannot be repaired, is marked; a lap that took more than 125 ms raises FSRC 137. -/
def Obligations.ScrubberRepairsFrames : Prop :=
  (∀ x : Frame, x.up = 0#3084 → x.finding = .clean) ∧
  ∀ (s : State) (a : BitVec 20), frameExists a.toNat = true →
    (∀ (flips : BitVec 3084) (u : State) (x : Frame), s.ovl.scrubEn = true → s.ovl.scan = some a.toNat →
      u = { s with ovl.scan := frameAfter a.toNat } → x = { s.frame a.toNat with up := (s.frame a.toNat).up ^^^ flips } →
      (s.scrubSkips (a.toNat % 512) = true → exec (.scrubFrameRead flips) s = .next u) ∧
      (s.scrubSkips (a.toNat % 512) = false →
        exec (.scrubFrameRead flips) s = .next (u.setFrame a.toNat { x with found := x.finding }))) ∧
    ((s.frame a.toNat).found = .corrected →
      (∃ t : State, exec (.frameRepair a true) s = .next t ∧ (t.frame a.toNat).up = 0#3084 ∧ (t.frame a.toNat).found = .clean ∧
        (t.frame a.toNat).data = (s.frame a.toNat).data ∧ t.ovl.sbe = satInc s.ovl.sbe ∧
        (∀ j, j ≠ a.toNat → t.frame j = s.frame j) ∧ ∃ f ∈ t.flt.raised, f.src = 132) ∧
      ∃ t : State, exec (.frameRepair a false) s = .next t ∧ (t.frame a.toNat).unrep = true ∧
        (t.frame a.toNat).up = (s.frame a.toNat).up ∧ ∃ f ∈ t.flt.raised, f.src = 135) ∧
    ((s.frame a.toNat).found = .uncorrectable →
      (∀ (source : Bool), source = (match (s.frame a.toNat).handle with | some h => (s.stored h).isSome | none => false) →
        ((s.frame a.toNat).copied = true ∨ source = true →
          (s.storeReadable = true → ∃ t : State, exec (.frameRepair a true) s = .next t ∧ (t.frame a.toNat).up = 0#3084 ∧
            (t.frame a.toNat).found = .clean ∧ (t.frame a.toNat).data = (s.frame a.toNat).data ∧ t.ovl.mbe = satInc s.ovl.mbe ∧
            ∃ f ∈ t.flt.raised, f.src = 133 ∧ f.owners = [s.quadOwner (a.toNat % 512)]) ∧
          ∃ t : State, exec (.frameRepair a false) s = .next t ∧ (t.frame a.toNat).unrep = true ∧
            (t.frame a.toNat).up = (s.frame a.toNat).up ∧ ∃ f ∈ t.flt.raised, f.src = 135) ∧
        ((s.frame a.toNat).copied = false → source = false → ∀ b, ∃ t : State, exec (.frameRepair a b) s = .next t ∧
          (t.frame a.toNat).unrep = true ∧ (t.frame a.toNat).up = (s.frame a.toNat).up ∧ ∃ f ∈ t.flt.raised, f.src = 133))) ∧
    (∀ (d : Nat) (u : State), s.ovl.scrubEn = true → s.ovl.scan = none → d = s.now - s.ovl.lapAt → u = { s with
        ovl.lapUs := BitVec.ofNat 32 (d / 1000)
        ovl.lap := s.ovl.lap + 1
        ovl.scan := some 0
        ovl.lapAt := s.now } →
      (d ≤ 125000000 → exec .scrubLapEnd s = .next u) ∧
      (125000000 < d → exec .scrubLapEnd s = .next (({ u with ovl.lag := true } : State).raise 137 [0])))

/-! ### Engine instructions -/

/-- R231 to R235: every parallel instruction of an engine has the effect of its operation and its two moves and goes on as R242 to R245
say; one whose load reads an uncorrectable word has no effect and takes FAULT with cause UE. -/
def Obligations.ParallelInstructionsComplete : Prop :=
  ∀ (g : EngineId) (m1 m2 : Move) (s : State) (e : Eng), e = s.engAt g →
    (e.badLoad (e.plan true m1) = none → e.badLoad (e.plan false m2) = none →
      (s.plain g (.par .nop 0 0 m1 m2) = true → s.engBecomes g (exec (.nop g m1 m2) s) (e.retire (e.parStep .nop 0 0 m1 m2) {})) ∧
      (∀ (acc : Fin 4) (sel : Fin 8),
        (s.plain g (.par .dmpy acc sel m1 m2) = true → s.engBecomes g (exec (.dmpy g acc sel m1 m2) s) (e.retire (e.parStep .dmpy acc sel m1 m2) {})) ∧
        (s.plain g (.par .dmac acc sel m1 m2) = true → s.engBecomes g (exec (.dmac g acc sel m1 m2) s) (e.retire (e.parStep .dmac acc sel m1 m2) {})) ∧
        (s.plain g (.par .dmsa acc sel m1 m2) = true → s.engBecomes g (exec (.dmsa g acc sel m1 m2) s) (e.retire (e.parStep .dmsa acc sel m1 m2) {})) ∧
        (s.plain g (.par .mpy2 acc sel m1 m2) = true → s.engBecomes g (exec (.mpy2 g acc sel m1 m2) s) (e.retire (e.parStep .mpy2 acc sel m1 m2) {})) ∧
        (s.plain g (.par .mac2 acc sel m1 m2) = true → s.engBecomes g (exec (.mac2 g acc sel m1 m2) s) (e.retire (e.parStep .mac2 acc sel m1 m2) {})) ∧
        (s.plain g (.par .mas2 acc sel m1 m2) = true → s.engBecomes g (exec (.mas2 g acc sel m1 m2) s) (e.retire (e.parStep .mas2 acc sel m1 m2) {})) ∧
        (s.plain g (.par .mpy acc sel m1 m2) = true → s.engBecomes g (exec (.mpy g acc sel m1 m2) s) (e.retire (e.parStep .mpy acc sel m1 m2) {})) ∧
        (s.plain g (.par .mac acc sel m1 m2) = true → s.engBecomes g (exec (.mac g acc sel m1 m2) s) (e.retire (e.parStep .mac acc sel m1 m2) {})) ∧
        (s.plain g (.par .macn acc sel m1 m2) = true → s.engBecomes g (exec (.macn g acc sel m1 m2) s) (e.retire (e.parStep .macn acc sel m1 m2) {})) ∧
        (s.plain g (.par .add acc sel m1 m2) = true → s.engBecomes g (exec (.aluAdd g acc sel m1 m2) s) (e.retire (e.parStep .add acc sel m1 m2) {})) ∧
        (s.plain g (.par .sub acc sel m1 m2) = true → s.engBecomes g (exec (.aluSub g acc sel m1 m2) s) (e.retire (e.parStep .sub acc sel m1 m2) {})) ∧
        (s.plain g (.par .cmp acc sel m1 m2) = true → s.engBecomes g (exec (.aluCmp g acc sel m1 m2) s) (e.retire (e.parStep .cmp acc sel m1 m2) {})) ∧
        (s.plain g (.par .copy acc sel m1 m2) = true → s.engBecomes g (exec (.copy g acc sel m1 m2) s) (e.retire (e.parStep .copy acc sel m1 m2) {})) ∧
        (s.plain g (.par .max acc sel m1 m2) = true → s.engBecomes g (exec (.aluMax g acc sel m1 m2) s) (e.retire (e.parStep .max acc sel m1 m2) {}))) ∧
      (∀ acc : Fin 4,
        (s.plain g (.par .clr acc 0 m1 m2) = true → s.engBecomes g (exec (.clr g acc m1 m2) s) (e.retire (e.parStep .clr acc 0 m1 m2) {})) ∧
        (s.plain g (.par .rnd acc 0 m1 m2) = true → s.engBecomes g (exec (.rnd g acc m1 m2) s) (e.retire (e.parStep .rnd acc 0 m1 m2) {})) ∧
        (s.plain g (.par .abs acc 0 m1 m2) = true → s.engBecomes g (exec (.abs g acc m1 m2) s) (e.retire (e.parStep .abs acc 0 m1 m2) {})) ∧
        (s.plain g (.par .neg acc 0 m1 m2) = true → s.engBecomes g (exec (.neg g acc m1 m2) s) (e.retire (e.parStep .neg acc 0 m1 m2) {})) ∧
        (s.plain g (.par .asr1 acc 0 m1 m2) = true → s.engBecomes g (exec (.asr1 g acc m1 m2) s) (e.retire (e.parStep .asr1 acc 0 m1 m2) {})) ∧
        (s.plain g (.par .asl1 acc 0 m1 m2) = true → s.engBecomes g (exec (.asl1 g acc m1 m2) s) (e.retire (e.parStep .asl1 acc 0 m1 m2) {})) ∧
        (s.plain g (.par .asr8 acc 0 m1 m2) = true → s.engBecomes g (exec (.asr8 g acc m1 m2) s) (e.retire (e.parStep .asr8 acc 0 m1 m2) {})) ∧
        (s.plain g (.par .asl8 acc 0 m1 m2) = true → s.engBecomes g (exec (.asl8 g acc m1 m2) s) (e.retire (e.parStep .asl8 acc 0 m1 m2) {})))) ∧
    (∀ (b : EngMem × BitVec 13), e.badLoad (e.plan true m1) = some b → s.plain g (.par .nop 0 0 m1 m2) = true →
      exec (.nop g m1 m2) s = .next (s.engFault g 2 (memCode b.1) b.2.toNat))

/-- R208, R234 to R236: a product is twice the exact product of two signed fractions; multiply, add and subtract write the accumulator's
sum modulo 2^56 and set V where the exact result lies outside; a conversion truncates, or rounds where ST.R is set, and saturates
where ST.S is set; an operation's moves and its accumulators do not touch each other's registers. -/
def Obligations.AccumulatorArithmetic : Prop :=
  ∀ (d : Vector W24 8) (a : Vector W56 4) (st : W24) (acc : Fin 4) (sel : Fin 8),
    (∀ x y : W24, (prod x y).toInt = 2 * x.toInt * y.toInt) ∧
    (aluRun .mpy acc sel d a st).w = [(acc, prod0 d sel)] ∧
    (aluRun .mac acc sel d a st).w = [(acc, a[acc] + prod0 d sel)] ∧
    (aluRun .macn acc sel d a st).w = [(acc, a[acc] - prod0 d sel)] ∧
    (aluRun .mpy2 acc sel d a st).w = [(acc, prod0 d sel + prod1 d sel)] ∧
    (aluRun .mac2 acc sel d a st).w = [(acc, a[acc] + prod0 d sel + prod1 d sel)] ∧
    (aluRun .mas2 acc sel d a st).w = [(acc, a[acc] + prod0 d sel - prod1 d sel)] ∧
    (aluRun .dmac acc sel d a st).w = [((accPair acc).1, a[(accPair acc).1] + prod0 d sel), ((accPair acc).2, a[(accPair acc).2] + prod1 d sel)] ∧
    (aluRun .add acc sel d a st).w = [(acc, a[acc] + aluSrc d a sel)] ∧
    (aluRun .sub acc sel d a st).w = [(acc, a[acc] - aluSrc d a sel)] ∧ (aluRun .cmp acc sel d a st).w = [] ∧
    (aluRun .cmp acc sel d a st).f = (aluRun .sub acc sel d a st).f ∧
    (aluRun .mac acc sel d a st).f.v = some (decide (a[acc].toInt + (prod0 d sel).toInt < -(2 ^ 55) ∨
      2 ^ 55 ≤ a[acc].toInt + (prod0 d sel).toInt)) ∧
    (∀ v : W56,
      (stBit st 7 = false → stBit st 6 = false → convert v st = (v.extractLsb' 24 24, false)) ∧
      (stBit st 7 = true → (convert v st).1.toInt = max (-(2 ^ 23)) (min (2 ^ 23 - 1)
        ((v.toInt + (if stBit st 6 then 2 ^ 23 else 0)) / 2 ^ 24)))) ∧
    (∀ (op : AluOp) (e : Eng), (e.parStep op acc sel .none .none).d = e.d ∧ (e.parStep op acc sel .none .none).x = e.x ∧
      (e.parStep op acc sel .none .none).y = e.y ∧ (e.parStep op acc sel .none .none).px = e.px ∧
      (∀ j : Fin 4, (∀ w ∈ (aluRun op acc sel e.d e.a e.sr1).w, w.1 ≠ j) → (e.parStep op acc sel .none .none).a[j] = e.a[j])) ∧
    (∀ (m1 m2 : Move) (e : Eng), (e.parStep .nop acc sel m1 m2).a = e.a)

/-- R237 to R241: each D-register operation of an engine writes its register and the flags it names; sums wrap modulo 2^24, V is signed
overflow, C the carry or borrow. -/
def Obligations.RegisterOperationsComplete : Prop :=
  (∀ (g : EngineId) (dd : Fin 8) (src : DSrc) (s : State) (e : Eng) (v : W24) (after : DOp → Eng), e = s.engAt g →
    (∀ r, src = .reg r → v = e.d[r]) → (∀ i, src = .imm i → v = i.signExtend 24) →
    (∀ op, after op = e.retire { e with
      d := ((daluRun op e.d[dd] v).1.elim e.d fun w => e.d.set dd w)
      sr := applyFl e.sr (daluRun op e.d[dd] v).2 } {}) →
    (s.plain g (.dalu .add dd src) = true → s.engBecomes g (exec (.daluAdd g dd src) s) (after .add)) ∧
    (s.plain g (.dalu .sub dd src) = true → s.engBecomes g (exec (.daluSub g dd src) s) (after .sub)) ∧
    (s.plain g (.dalu .cmp dd src) = true → s.engBecomes g (exec (.daluCmp g dd src) s) (after .cmp)) ∧
    (s.plain g (.dalu .and dd src) = true → s.engBecomes g (exec (.daluAnd g dd src) s) (after .and)) ∧
    (s.plain g (.dalu .or dd src) = true → s.engBecomes g (exec (.daluOr g dd src) s) (after .or)) ∧
    (s.plain g (.dalu .xor dd src) = true → s.engBecomes g (exec (.daluXor g dd src) s) (after .xor)) ∧
    (s.plain g (.dalu .asl dd src) = true → s.engBecomes g (exec (.daluAsl g dd src) s) (after .asl)) ∧
    (s.plain g (.dalu .asr dd src) = true → s.engBecomes g (exec (.daluAsr g dd src) s) (after .asr)) ∧
    (s.plain g (.dalu .lsr dd src) = true → s.engBecomes g (exec (.daluLsr g dd src) s) (after .lsr)) ∧
    (s.plain g (.dalu .min dd src) = true → s.engBecomes g (exec (.daluMin g dd src) s) (after .min)) ∧
    (s.plain g (.dalu .max dd src) = true → s.engBecomes g (exec (.daluMax g dd src) s) (after .max)) ∧
    (s.plain g (.dalu .tst dd src) = true → s.engBecomes g (exec (.tst g dd src) s) (after .tst))) ∧
  (∀ x v : W24,
    (daluRun .add x v).1 = some (x + v) ∧ (daluRun .sub x v).1 = some (x - v) ∧ (daluRun .cmp x v).1 = none ∧ (daluRun .tst x v).1 = none ∧
    (daluRun .cmp x v).2 = (daluRun .sub x v).2 ∧
    (daluRun .add x v).2.v = some (decide ((x + v).toInt ≠ x.toInt + v.toInt)) ∧
    (daluRun .sub x v).2.v = some (decide ((x - v).toInt ≠ x.toInt - v.toInt)) ∧
    (∀ r, (daluRun .min x v).1 = some r → r.toInt = min x.toInt v.toInt) ∧
    (∀ r, (daluRun .max x v).1 = some r → r.toInt = max x.toInt v.toInt) ∧
    (∀ op, (daluRun op x 0#24).2.c = none ∨ op = .add ∨ op = .sub ∨ op = .cmp))

/-- R237 to R241, R245, R472: the loads of immediates, register and memory moves, status and control instructions of an engine have the effects
the rules give them, and a MOVEM that reads an uncorrectable word or gives LDEPTH more than 4 faults; a branch takes effect after its
delay slot; REP and REPI nest a loop or skip it, with FAULT LOOP beyond four, and ENDL ends one; BKPT is a NOP where DBG_ENGCTL names no
action, and sets HIT and acts where it does. -/
def Obligations.MoveAndControlInstructionsComplete : Prop :=
  ∀ (g : EngineId) (s : State) (e : Eng) (nest : Vector Loop 3), e = s.engAt g →
    nest = (if 0 < e.view 0x33 then
      #v[{ lc := BitVec.ofNat 24 (e.view 0x30), ls := BitVec.ofNat 13 (e.view 0x31), le := BitVec.ofNat 13 (e.view 0x32) },
        e.lstkView 0, e.lstkView 1] else e.lstk) →
    (∀ r imm, s.plain g (.ldi r imm) = true → s.engBecomes g (exec (.ldi g r imm) s)
      (e.retire (e.put r.toNat (imm.signExtend 24)) { late := e.lateOf r.toNat })) ∧
    (∀ r imm, s.plain g (.ldih r imm) = true → s.engBecomes g (exec (.ldih g r imm) s)
      (e.retire (e.put r.toNat (imm ++ BitVec.ofNat 12 (e.reg r.toNat))) { late := e.lateOf r.toNat })) ∧
    (∀ d src, s.plain g (.movec d src) = true → s.engBecomes g (exec (.movec g d src) s)
      (e.retire ((e.satL (e.src src.toNat).2).put d.toNat (e.src src.toNat).1) { late := e.lateOf d.toNat })) ∧
    (∀ r y a, s.plain g (.movem r true y a) = true → s.engBecomes g (exec (.movem g r true y a) s)
      (e.retire (((e.movemAddr y a).2.setMemWord (if y then .y else .x) (e.movemAddr y a).1 (e.src r.toNat).1).satL (e.src r.toNat).2) {})) ∧
    (∀ (r : BitVec 7) (y : Bool) (a : MemAddr) (w : W24), s.plain g (.movem r false y a) = true →
      w = e.memWord (if y then .y else .x) (e.movemAddr y a).1 →
      (e.bad (if y then .y else .x) (e.movemAddr y a).1 = false → (r.toNat = 0x33 → w.toNat ≤ 4) →
        s.engBecomes g (exec (.movem g r false y a) s)
          (e.retire ((e.movemAddr y a).2.put r.toNat w) { late := (e.movemAddr y a).2.lateOf r.toNat })) ∧
      (e.bad (if y then .y else .x) (e.movemAddr y a).1 = false → r.toNat = 0x33 → 4 < w.toNat →
        exec (.movem g r false y a) s = .next (s.engFaultPc g 1)) ∧
      (e.bad (if y then .y else .x) (e.movemAddr y a).1 = true →
        exec (.movem g r false y a) s = .next (s.engFault g 2 (memCode (if y then .y else .x)) (e.movemAddr y a).1.toNat))) ∧
    (∀ m, s.plain g (.stset m) = true → s.engBecomes g (exec (.stset g m) s) (e.retire { e with sr := e.sr ||| m.setWidth 24 } {})) ∧
    (∀ m, s.plain g (.stclr m) = true → s.engBecomes g (exec (.stclr g m) s) (e.retire { e with sr := e.sr &&& ~~~(m.setWidth 24) } {})) ∧
    (∀ cond target, s.plain g (.jcc cond target) = true → s.engBecomes g (exec (.jcc g cond target) s)
      (e.retire e { slot := some (.branch (if condHolds cond.toNat e.sr1 = some true then some target else none)) })) ∧
    (∀ dn target, s.plain g (.jsr dn target) = true → s.engBecomes g (exec (.jsr g dn target) s)
      (e.retire { e with d := e.d.set dn ((e.pc + 2).setWidth 24) } { slot := some (.branch (some target)) })) ∧
    (∀ dn, s.plain g (.jmpDn dn) = true → s.engBecomes g (exec (.jmpDn g dn) s)
      (e.retire e { slot := some (.branch (some ((e.d[dn]).setWidth 13))) })) ∧
    (s.plain g .rti = true → s.engBecomes g (exec (.rti g) s)
      (e.retire e { slot := some (.rti (BitVec.ofNat 13 (e.view 0x35)) (BitVec.ofNat 24 (e.view 0x36))) })) ∧
    (∀ last, s.plain g (.rep last) = true →
      (e.view 0x30 = 0 → s.engBecomes g (exec (.rep g last) s) (e.retire e { jump := some (last + 1), cycles := 2 })) ∧
      (e.view 0x30 ≠ 0 → e.view 0x33 ≠ 4 → s.engBecomes g (exec (.rep g last) s) (e.retire { e with
        lstk := nest
        loop := { lc := BitVec.ofNat 24 (e.view 0x30), ls := e.pc + 1, le := last }
        ldepth := e.view 0x33 + 1
        once := decide (e.view 0x30 = 1) } { cycles := 2 })) ∧
      (e.view 0x30 ≠ 0 → e.view 0x33 = 4 → exec (.rep g last) s = .next (s.engFaultPc g 4))) ∧
    (∀ (n last : BitVec 13), s.plain g (.repi n last) = true →
      (n = 0#13 → s.engBecomes g (exec (.repi g n last) s)
        (e.retire { e with loop := { e.loop with lc := 0#24 } } { jump := some (last + 1), cycles := 2 })) ∧
      (n ≠ 0#13 → e.view 0x33 ≠ 4 → s.engBecomes g (exec (.repi g n last) s) (e.retire { e with
        lstk := nest
        loop := { lc := n.setWidth 24, ls := e.pc + 1, le := last }
        ldepth := e.view 0x33 + 1
        once := decide (n = 1#13) } { cycles := 2 })) ∧
      (n ≠ 0#13 → e.view 0x33 = 4 → exec (.repi g n last) s = .next (s.engFaultPc g 4))) ∧
    (s.plain g .endl = true →
      (e.view 0x33 = 1 → s.engBecomes g (exec (.endl g) s) (e.retire { e with
        ldepth := 0
        loop := { e.loop with lc := 0#24 }
        once := false } {})) ∧
      (1 < e.view 0x33 → s.engBecomes g (exec (.endl g) s) (e.retire { e with
        ldepth := e.view 0x33 - 1
        loop := e.lstkView 0
        lstk := #v[e.lstkView 1, e.lstkView 2, e.lstk[2]]
        once := false } {}))) ∧
    (s.plain g .bkpt = true →
      (e.dbg.bkptAct = 0 → s.engBecomes g (exec (.bkpt g) s) (e.retire e {})) ∧
      (e.dbg.bkptAct ≠ 0 → ∃ u : State, exec (.bkpt g) s = .next (u.engAction g e.pc e.dbg.bkptAct 7 none) ∧
        s.engBecomes g (.next u) { e.retire e {} with dbg := { (e.retire e {}).dbg with hit := (e.retire e {}).dbg.hit ||| 0x80#8 } }))

/-- R240, R242 to R245, R468: an instruction that ends goes on to the next word, or from LE back to LS while the count is above 1; after a
delay slot the branch takes effect; the views that lag by one and by two instructions move on; the watchdog of a task counts the cycles; a
STEP counts down and halts. R205, R211, R212, R217, R223, R229: a word that spells no instruction, or one forbidden where it stands, takes
FAULT: its address and ST saved, IE cleared, PC at 4, ENG_FREC and FSRC 512 + g; a fault inside the handler is a double fault, which stops
an engine outside a task and ends a task; an enabled interrupt of the highest priority is accepted at a boundary. -/
def Obligations.InstructionsRetireOrFault : Prop :=
  (∀ (e0 e : Eng) (c : Nat),
     (e0.atLe = false → e0.slot = none → e.haltReq = false → e.steps = 0 → e.dbg.iaAt = none →
       ∀ x : Eng, x = { e with
         a1 := e0.a
         sr1 := e0.sr
         sr2 := e0.sr1
         late := []
         slot := none
         pc := e0.pc + 1
         steps := 0 } → e0.retire e { cycles := c } = (if e0.st = .task then x.charge c else x)) ∧
     (e.st = .task → (e.charge c).wdog.toNat = e.wdog.toNat - c ∧ (e.charge c).wdogAt = e.wdogAt + c) ∧
     (e0.atLe = true → e0.slot = none → 1 < e0.view 0x30 → (e0.retire e { cycles := c }).pc = BitVec.ofNat 13 (e0.view 0x31) ∧
       (e0.retire e { cycles := c }).loop = { e.loop with lc := BitVec.ofNat 24 (e0.view 0x30 - 1) } ∧
       (e0.retire e { cycles := c }).ldepth = e.ldepth) ∧
     (e0.atLe = true → e0.slot = none → e0.view 0x30 ≤ 1 → e0.view 0x33 = 1 → (e0.retire e { cycles := c }).pc = e0.pc + 1 ∧
       (e0.retire e { cycles := c }).ldepth = 0) ∧
     (∀ t, e0.slot = some (.branch (some t)) → (e0.retire e { cycles := c }).pc = t) ∧
     (e0.slot = some (.branch none) → e0.atLe = false → (e0.retire e { cycles := c }).pc = e0.pc + 1) ∧
     (∀ p st, e0.slot = some (.rti p st) → (e0.retire e { cycles := c }).pc = p ∧ (e0.retire e { cycles := c }).sr = st &&& 0x1FF#24 ∧
       (e0.retire e { cycles := c }).fdepth = e.fdepth - 1) ∧
     (1 < e.steps → e.haltReq = false → e0.slot = none → (e0.retire e { cycles := c }).steps = e.steps - 1 ∧
       (e0.retire e { cycles := c }).halted = e.halted) ∧
     (e.steps = 1 → (e0.retire e { cycles := c }).halted = true ∧ (e0.retire e { cycles := c }).steps = 0)) ∧
  (∀ (g : EngineId) (s : State) (e : Eng), e = s.engAt g →
     (s.engReady g = true → e.bad .p e.pc = false → (engDecode (s.engWord g) = none ∨
         ∃ op, engDecode (s.engWord g) = some op ∧ (e.misplaced op = true ∨ e.illegalHere op = true)) →
       exec (.illegalInstruction g) s = .next (s.engFaultPc g 1)) ∧
     (∀ cause mem addr, e.fdepth = 0 → cause < 16 → ∃ t, t = s.engFault g cause mem addr ∧ (t.engAt g).pc = 4#13 ∧ (t.engAt g).ipc = e.pc ∧
       (t.engAt g).istat = e.sr ∧ (t.engAt g).sr = setStBit e.sr 8 false ∧ (t.engAt g).fdepth = 1 ∧ (t.engAt g).d = e.d ∧
       (t.engAt g).a = e.a ∧ (t.engAt g).x = e.x ∧ (t.engAt g).y = e.y ∧ bitsOf (t.engAt g).frec.toNat 0 4 = cause ∧
       (∀ j, j ≠ g.val → t.engAt j = s.engAt j) ∧ ∃ f ∈ t.flt.raised, f.src = 512 + g.val ∧ f.owners = [(s.kitAt (g.val / 8)).owner]) ∧
     (∀ cause mem addr, e.fdepth ≠ 0 → s.engFault g cause mem addr = s.setEngAt g { e with double := true }) ∧
     (e.double = true → e.st ≠ .task → ∃ t : State, exec (.doubleFault g) s = .next t ∧ (t.engAt g).st = .stopped ∧
       (t.engAt g).double = false ∧ (t.engAt g).fdepth = 0 ∧ (t.engAt g).lock = none ∧ ∃ f ∈ t.flt.raised, f.src = 512 + g.val) ∧
     (e.double = true → e.st = .task → exec (.doubleFault g) s = .next (s.engStop g 2 6)) ∧
     (s.engOn g = true → e.st = .task → e.halted = false → e.wdog.toNat ≤ s.engLag g → exec (.taskWatchdogExpiry g) s = .next (s.engStop g 1 5)) ∧
     (∀ kind cause, ((s.engStop g kind cause).engAt g).st = .running ∧ ((s.engStop g kind cause).engAt g).sr = 0x40#24 ∧
       ((s.engStop g kind cause).engAt g).lock = none ∧ ((s.engStop g kind cause).engAt g).stall = none ∧
       ((s.engStop g kind cause).engAt g).double = false ∧ ((s.engStop g kind cause).engAt g).task = 0#14) ∧
     (∀ v : IntVector, s.intBoundary g = true → e.wants v = true → (higher v).any e.wants = false → ∃ t : State,
       exec (.interruptAccept g v) s = .next t ∧ (t.engAt g).pc = BitVec.ofNat 13 (vectorAddr v) ∧ (t.engAt g).ipc = e.pc ∧
       (t.engAt g).istat = e.sr ∧ (t.engAt g).sr = setStBit e.sr 8 false ∧ (t.engAt g).wants v = false ∧
       (t.engAt g).st = (if e.st = .waiting then .running else e.st) ∧ ∀ j, j ≠ g.val → t.engAt j = s.engAt j))

/-- R214 to R217: TAKE waits; a token starts a task with its context's entry, budget, deadline and arguments, or completes with ARG_FAULT;
DONE stalls until nothing of the engine is outstanding and its completion queue has room, and its completion then returns the engine
to TAKEPC. -/
def Obligations.TasksStartAndEnd : Prop :=
  ∀ (g : EngineId) (s : State) (e : Eng), e = s.engAt g →
    (s.plain g .take = true → s.engBecomes g (exec (.take g) s) { e.retire e { jump := some e.pc } with
      st := .waiting
      takePc := e.pc }) ∧
    (∀ nc status, s.plain g (.done nc status) = true → exec (.done g nc status) s =
      .next (s.setEngAt g { e with stall := some (.done nc status) })) ∧
    (∀ (t : Token) (bs : List Byte) (u : State), s.engHeld g = some t → s.argRead g t = some (.ok, bs, u) → ∃ v : State,
      exec (.taskStart g) s = .next v ∧ (v.engAt g).st = .task ∧ (v.engAt g).task = BitVec.ofNat 14 t.ctx ∧
      (v.engAt g).dln = t.deadline ∧ (v.engAt g).arg = t.arg ∧ (v.engAt g).wdog = BitVec.ofNat 24 (s.ctx t.ctx).budget ∧
      (v.engAt g).wdogAt = u.now * 5 / 4 ∧
      (v.engAt g).pc = (s.ctx t.ctx).entry ∧ v.tdu = u.tdu) ∧
    (∀ (t : Token) (st : NocStatus) (bs : List Byte) (u : State), s.engHeld g = some t → s.argRead g t = some (st, bs, u) → st ≠ .ok →
      ∃ v : State, exec (.argFault g) s = .next v ∧ tget v.tdu.running none g.val = none ∧ (v.engAt g).argReq = none ∧
        bitsOf (v.engAt g).frec.toNat 0 4 = 7) ∧
    (∀ (nc : Bool) (status : Byte) (t : Token) (t0 : Nat), e.stall = some (.done nc status) → tget s.tdu.running none g.val = some (t, t0) →
      e.halted = false →
      (s.engQuiet g = false → exec (.doneCompletion g) s = .next s) ∧
      (s.engQuiet g = true → ∀ (q : Nat) (bs : List Byte), (s.ctx t.ctx).compq = some q → nc = false →
        bs = s.completion t status.toNat 0 (t.missed || s.reached (s.ctx t.ctx).group t.deadline) (some g.val) →
        (s.qPush q bs).1 = .full → exec (.doneCompletion g) s = .next s) ∧
      (s.engQuiet g = true → nc = true ∨ (s.ctx t.ctx).compq = none ∨ (∃ q, (s.ctx t.ctx).compq = some q ∧
          (s.qPush q (s.completion t status.toNat 0 (t.missed || s.reached (s.ctx t.ctx).group t.deadline) (some g.val))).1 = .ok) →
        ∃ v : State, exec (.doneCompletion g) s = .next v ∧ (v.engAt g).st = .running ∧ (v.engAt g).pc = e.takePc ∧
          (v.engAt g).stall = none ∧ (v.engAt g).task = 0#14 ∧ tget v.tdu.running none g.val = none))

/-- R205, R211, R218 to R222, R225, R226: kit DMA, queue and lock instructions of an engine take effect, wait or fault as the rules say (a
descriptor whose reserved bits are set is a free one, R228, and an UNLOCK after more than 16 cycles is free to find its sequence broken:
the model's choices, log entry 126); locks break and are released by their banks; a corrected word is written back; SOFTWARE is raised;
KIT_LOCK clears as it is read. -/
def Obligations.EnginesMoveDataAndLock : Prop :=
  ∀ (g : EngineId) (s : State) (e : Eng) (k : Nat) (o : Owner), e = s.engAt g → k = g.val / 8 → o = s.ownerOf (.engine g) →
    (∀ (c : Fin 4) (a : BitVec 13), s.plain g (.kdma c a) = true →
      ((e.chan[c]).desc.isSome = true → exec (.kdma g c a) s = .next s) ∧
      ((e.chan[c]).desc = none →
        (e.descAt a = none → exec (.kdma g c a) s = .next (s.engFault g 2 2 a.toNat)) ∧
        (∀ x, e.descAt a = some x → e.descReserved a = false → s.engBecomes g (exec (.kdma g c a) s)
          (e.retire (e.setChan c fun _ => { desc := some x }) {})) ∧
        (∀ x, e.descAt a = some x → e.descReserved a = true → ∃ (t : State) (y : Desc), exec (.kdma g c a) s = .next t ∧
          t.engAt g = (e.retire (e.setChan c fun _ => { desc := some y }) {}).charge (s.engLag g) ∧
          t.freeCount = s.freeCount + 1))) ∧
    (∀ c : Fin 4, s.plain g (.kdmaw c) = true →
      ((e.chan[c]).desc.isSome = true → exec (.kdmaw g c) s = .next s) ∧
      ((e.chan[c]).desc = none → (e.chan[c]).err = false → s.engBecomes g (exec (.kdmaw g c) s) (e.retire e {})) ∧
      ((e.chan[c]).desc = none → (e.chan[c]).err = true → exec (.kdmaw g c) s = .next (s.engFaultPc g 3))) ∧
    (∀ (c : Fin 4) (x : Desc), (e.chan[c]).desc = some x →
      (∀ code, s.descCheck g x = some code → (e.chan[c]).cut = false → ∃ t : State, exec (.kdmaDescriptorComplete g c) s = .next t ∧
        ((t.engAt g).chan[c]).desc = none ∧ ((t.engAt g).chan[c]).err = true ∧ (t.engAt g).kdmaCode = BitVec.ofNat 4 code ∧
        ∃ f ∈ t.flt.raised, f.src = 640 + k) ∧
      (s.descCheck g x = none → (e.chan[c]).status = none →
        ((e.chan[c]).done = false → (e.chan[c]).req = none → ∀ bs,
          (e.chan[c]).data = some bs → exec (.kdmaDescriptorComplete g c) s = .next (s.kdmaWrite g c x bs)) ∧
        ((e.chan[c]).done = false → (e.chan[c]).req = none → (e.chan[c]).data = none →
          (x.srcSel ≠ 0 → ∀ r, r = s.kitReadSlots (.engine g) k (spanOf 4 (localOff g x.srcSel x.src.toNat) x.len) → r.1 = .ok →
            exec (.kdmaDescriptorComplete g c) s = .next (r.2.2.kdmaWrite g c x (reformat x.format (r.2.1.take x.len)))) ∧
          (x.srcSel = 0 → kitDirect k x.flow x.src.toNat x.len = false → ∃ (t : State) (q : Req),
            exec (.kdmaDescriptorComplete g c) s = .next t ∧ ((t.engAt g).chan[c]).req = some s.noc.nextReq ∧
            t.req s.noc.nextReq = some q ∧ q.op = .read ∧ q.flow = x.flow ∧ q.addr = x.src.toNat ∧ q.owner = o ∧
            q.len = min x.len (s.kitMax k x.flow))) ∧
        ((e.chan[c]).done = true → (e.chan[c]).cut = false →
          (x.next = 0#13 → exec (.kdmaDescriptorComplete g c) s = .next (s.setEngAt g (e.setChan c fun _ => {}))) ∧
          (x.next ≠ 0#13 → e.descReserved x.next = false → ∀ y, e.descAt x.next = some y →
            exec (.kdmaDescriptorComplete g c) s = .next (s.setEngAt g (e.setChan c fun _ => { desc := some y })))))) ∧
    (∀ (dq : Fin 8) (size : Fin 3) (n : Fin 4) (inc : Bool) (q : Nat), q = (e.d[dq]).toNat % 2 ^ 18 →
      (s.plain g (.pushq dq size n inc) = true → (∀ a ∈ e.yAddrs n (sizeBytes size / 4), e.bad .y a = false) →
        ∀ bs, bs = ((e.yAddrs n (sizeBytes size / 4)).map fun a => leBytes 4 (e.memWord .y a).toNat).flatten →
        (s.qSoftPush o q bs.length = false → exec (.pushq g dq size n inc) s = .next ((s.noteOwner (.engine g)).engFaultPc g 3)) ∧
        (s.qSoftPush o q bs.length = true →
          (∀ t, s.qPush q bs = (.ok, t) → exec (.pushq g dq size n inc) s = .next (t.pushqEnd g e q size n inc)) ∧
          (∀ t, s.qPush q bs = (.full, t) → ∃ v : State, exec (.pushq g dq size n inc) s = .next v ∧ (v.engAt g).stall = some .pushq ∧
            (v.engAt g).pc = (t.engAt g).pc))) ∧
      (s.plain g (.popq dq size n inc) = true → s.qSoftPop o q = true → (s.queue q).bytes = sizeBytes size → e.slot = none →
        ((s.qPop q).1 = .empty → ∃ t : State, exec (.popq g dq size n inc) s = .next t ∧ stBit (t.engAt g).sr 2 = true) ∧
        ((s.qPop q).1 = .ok → ∃ t : State, exec (.popq g dq size n inc) s = .next t ∧ stBit (t.engAt g).sr 2 = false ∧
          t.queue q = (s.qPop q).2.2.queue q ∧
          (t.engAt g).py[n] = (if inc then e.yAdvance n (sizeBytes size / 4) else ((s.qPop q).2.2.engAt g).py[n]) ∧
          tget (t.engAt g).y 0#24 (e.ptrView true n).toNat = BitVec.ofNat 24 (leNat ((s.qPop q).2.1.take 3))))) ∧
    (∀ (da : Fin 8) (n : Fin 4) (w : Nat), w = (e.d[da]).toNat % 2 ^ 16 → s.plain g (.lock false da n) = true →
      (s.kitAt k).owner = o →
      (s.kitBankHeld k w = true → exec (.lock g false da n) s = .next s) ∧
      (s.kitBankHeld k w = false → s.cellMark .kit g w = .clean → ∃ t : State, exec (.lock g false da n) s = .next t ∧
        (t.engAt g).lock = some { vault := false, word := w, broken := false, since := s.now } ∧
        (t.kitAt k).locks = (s.kitAt k).locks ++ [(w, g, s.now)])) ∧
    (∀ (da : Fin 8) (n : Fin 4) (w : Nat), w = (e.d[da]).toNat % 2 ^ 21 → s.plain g (.lock true da n) = true →
      (sidePort k (vaultBase + 16 * w) 16 = false → ∃ (t : State) (q : Req), exec (.lock g true da n) s = .next t ∧
        (t.engAt g).stall = some (.lock s.noc.nextReq) ∧ t.req s.noc.nextReq = some q ∧ q.op = .lock ∧ q.addr = vaultBase + 16 * w ∧
        q.len = 16 ∧ q.owner = o ∧ q.sink = .lock g) ∧
      (sidePort k (vaultBase + 16 * w) 16 = true →
        ((s.vlt.locks.any fun l => l.1 = w) = true → exec (.lock g true da n) s = .next s) ∧
        (∀ bs u, (s.vlt.locks.any fun l => l.1 = w) = false → s.vaultGrant g o w = (.ok, bs, u) → ∃ t : State,
          exec (.lock g true da n) s = .next t ∧ t.vlt = u.vlt ∧
          (t.engAt g).lock = some { vault := true, word := w, broken := false, since := u.now }))) ∧
    (∀ (l : LockSeq) (store : Bool) (n : Fin 4), e.lock = some l → e.slot = none → s.plain g (.unlock store n) = true →
      (l.broken = true → ∃ t : State, exec (.unlock g store n) s = .next t ∧ (t.engAt g).lock = none ∧
        stBit (t.engAt g).sr 5 = true ∧ (t.kitAt k).mem = (s.kitAt k).mem ∧ t.vlt.word = s.vlt.word) ∧
      (l.broken = false → (store = true → ∀ a ∈ e.yAddrs n (if l.vault then 6 else 2), e.bad .y a = false) →
        (l.vault = false →
          (s.engHolds g = false → ∃ t : State, exec (.unlock g store n) s = .next t ∧ (t.engAt g).lock = none ∧
            stBit (t.engAt g).sr 5 = true ∧ (t.kitAt k).mem = (s.kitAt k).mem ∧ t.vlt.word = s.vlt.word) ∧
          (s.engHolds g = true → ∃ t : State, exec (.unlock g store n) s = .next t ∧ (t.engAt g).lock = none ∧ t.engHolds g = false ∧
            (s.openTime l ≤ 16 → stBit (t.engAt g).sr 5 = false ∧ (store = false → (t.kitAt k).mem = (s.kitAt k).mem) ∧
              (store = true → (t.kitAt k).mem = ((s.extWrite .kit g l.word 0 (leBytes 4
                ((e.yAddrs n 2).zipIdx.foldl (fun (v : Nat) (p : BitVec 13 × Nat) => v + (e.memWord .y p.1).toNat * 2 ^ (24 * p.2))
                  0))).2.kitAt k).mem)))) ∧
        (l.vault = true → s.openTime l ≤ 16 → sidePort k (vaultBase + 16 * l.word) 16 = false → ∃ (t : State) (q : Req),
          exec (.unlock g store n) s = .next t ∧ (t.engAt g).stall = some (.unlock s.noc.nextReq l.word) ∧
          t.req s.noc.nextReq = some q ∧ q.op = .unlock ∧ q.addr = vaultBase + 16 * l.word ∧ q.owner = o ∧
          (store = false → q.data = []) ∧ (store = true → q.data.length = 16)))) ∧
    (∀ l : LockSeq, e.lock = some l → l.broken = false → 256 * 4 ≤ (s.now - l.since) * 5 → e.haltReq = false → ∃ t : State,
      exec (.lockBreak g) s = .next t ∧ (t.engAt g).lock = some { l with broken := true } ∧ t.engHolds g = false ∧
      (t.kitAt k).broken = satInc (s.kitAt k).broken) ∧
    ((∀ l ∈ (s.kitAt k).locks, l.2.1 = g → 320 * 4 ≤ (s.now - l.2.2) * 5) →
      (∀ l ∈ s.vlt.locks, l.2.1 = Initiator.engine g → 2000 ≤ s.now - l.2.2) → ∃ t : State, exec (.bankLockRelease g) s = .next t ∧
      t.engHolds g = false ∧ t.engAt g = e) ∧
    (∀ (mem : EngMem) (a : BitVec 16), s.engOn g = true → mem = .kit ∨ a.toNat < 8192 → s.cellMark mem g a.toNat ≠ .poisoned →
      exec (.eccWriteback g mem a) s = .next (s.putRight mem g a.toNat)) ∧
    (∀ (who : Initiator) (v : BitVec 32), s.engOn g = true → s.atOnce who = true →
      (s.passes who (s.kitAt k).owner = true →
        (v = 1#32 → exec (.engSwiSet who g v) s = .next (s.setEngAt g { e with swi := true })) ∧
        (v = 0#32 → exec (.engSwiSet who g v) s = .next s) ∧
        (2 ≤ v.toNat → ∃ t : State, exec (.engSwiSet who g v) s = .next t ∧ t.freeCount = s.freeCount + 1 ∧
          (t.engAt g = e ∨ t.engAt g = { e with swi := true }))) ∧
      (s.passes who (s.kitAt k).owner = false → exec (.engSwiSet who g v) s = .next (s.noteOwner who))) ∧
    (∀ (who : Initiator) (j : KitId), s.kitOn j = true → isDebug who = false → s.atOnce who = true → ∃ t : State,
      exec (.kitLockRead who j) s = .next t ∧ t.readData = leBytes 4 (s.kitAt j.val).broken.toNat ∧
      t.kitAt j.val = { s.kitAt j.val with broken := 0#16 } ∧ ∀ i, i ≠ j.val → t.kitAt i = s.kitAt i)

/-! ### Control space (R21, R22, R42) -/

/-- R15 to R17, R21, R22, R42: a write that reaches control space leaves free values of the defined bits where its size or alignment is another
than the register allows, where it sets reserved bits or two bits of DBG_RUN at once (R489), or where it changes a Q-class field while the
block runs (the free values are the model's form of an owner error, log entry 13); one past control space raises FSRC 199; a reserved
offset takes nothing, nor does the register of a unit that is dark; a defined register that no owner writes leaves a fault note,
whichever initiator but the belfry writes, as the security registers do but for secure owners; a window select, FLT_PEND and DBG_RUN
take the write as their rows do; the belfry writes the limits, the scrubbers and the sources' settings. -/
def Obligations.RegisterWritesComplete : Prop :=
  ∀ (who : Initiator) (off : BitVec 28) (v : BitVec 64) (s f : State) (x w : Nat), x = off.toNat → w = v.toNat % 2 ^ 32 →
    s.atOnce who = true → f = { s with freeCount := s.freeCount + 1 } →
    (∀ wide, ctlTop ≤ x → exec (.registerWrite who off wide v) s = .next (s.raiseBy 199 who (s.ownerOf who))) ∧
    (∀ wide n, n = (if wide then 8 else 4) → x < ctlTop → ctlShape who x n = false →
      exec (.registerWrite who off wide v) s = .next (s.ctlBadWrite who x n)) ∧
    (0x20000 ≤ x → x < ctlTop → x % 4 = 0 →
      (s.ctlDark x = true → exec (.registerWrite who off false v) s = .next s) ∧
      (s.ctlDark x = false → 0x1200000 ≤ x → x < 0x1300000 → who ≠ .belfry → s.isSecure (s.ownerOf who) = false →
        exec (.registerWrite who off false v) s = .next (s.noteOwner who)) ∧
      (s.ctlDark x = false → (0x1200000 ≤ x → 0x1300000 ≤ x) →
        (ctlDefined x = false → ctlFields x = 0 → exec (.registerWrite who off false v) s = .next s) ∧
        (ctlDefined x = true → who ≠ .belfry → s.ownerWrite who x w = none → ctlFields x = 0 ∨ w &&& ctlFields x = w →
          exec (.registerWrite who off false v) s = .next (s.noteOwner who)))) ∧
    (∀ o : Owner, x = 0x601000 + 0x100 * o.val →
      (s.passes who o = true →
        (w < 2 ^ 18 → exec (.registerWrite who off false v) s = .next (s.modWin o.val fun y => { y with sel := w })) ∧
        (2 ^ 18 ≤ w → ∃ n, n < 2 ^ 18 ∧ exec (.registerWrite who off false v) s = .next (f.modWin o.val fun y => { y with sel := n }))) ∧
      (s.passes who o = false → w < 2 ^ 18 → exec (.registerWrite who off false v) s = .next (s.noteOwner who))) ∧
    (∀ o : Owner, x = 0x100100 + 0x10 * o.val → w &&& 0xFE = w →
      exec (.registerWrite who off false v) s = exec (.fltPendWrite who o (v.setWidth 32)) s) ∧
    (∀ g : EngineId, x = 0x1310068 + 0x80 * g.val → s.kitPresent (g.val / 8) = true → w < 32 →
      (w % 8 = 1 → exec (.registerWrite who off false v) s = exec (.dbgRunHalt who g) s) ∧
      (w % 8 = 2 → exec (.registerWrite who off false v) s = exec (.dbgRunResume who g) s) ∧
      (w % 8 = 4 → exec (.registerWrite who off false v) s = exec (.dbgRunStep who g) s) ∧
      (w % 8 = 0 → exec (.registerWrite who off false v) s = .next s) ∧
      (w % 8 = 3 ∨ w % 8 = 5 ∨ w % 8 = 6 ∨ w % 8 = 7 →
        ∃ n, n < 32 ∧ exec (.registerWrite who off false v) s = .next (f.runWrite who g.val n))) ∧
    (x = 0x20000C → w < 2 ^ 17 → exec (.registerWrite .belfry off false v) s =
      .next { s with ckr.limit := v.setWidth 16, ckr.autoReturn := v.getLsbD 16 }) ∧
    (x = 0x900004 → w &&& 0x1F01 = w → exec (.registerWrite .belfry off false v) s =
      .next { s with vlt.scrubEn := v.getLsbD 0, vlt.div := v.extractLsb' 8 5 }) ∧
    (∀ k : Nat, x = 0xA00024 + 0x10000 * k → k < 8 → s.ctlDark x = false → s.dportPresent k = true → w &&& 0xFF01 = w →
      exec (.registerWrite .belfry off false v) s =
        .next (s.modDport k fun p => { p with scrubEn := v.getLsbD 0, lapH := v.extractLsb' 8 8 })) ∧
    (x = 0x600004 → w &&& 0xFF03FF = w → exec (.registerWrite .belfry off false v) s = .next { s with qcu.limit := v.setWidth 10 }) ∧
    (∀ i : Nat, i < 1024 → x = 0x101000 + 4 * i → w < 2 ^ 13 → exec (.registerWrite .belfry off false v) s =
      .next (s.setSrcCfg i { s.srcCfg i with
        level := bitsOf w 3 3, cap := bitsOf w 6 3, errn := bitOf w 9, latch := bitOf w 10, mask := bitOf w 11 })) ∧
    (∀ n : Nat, n < 16 → x = 0x30001C + 0x40 * n →
      ((s.axis n).st = .disabled → exec (.registerWrite .belfry off false v) s = .next (s.setAxis n { s.axis n with
        cfg := { (s.axis n).cfg with clamp := v.setWidth 24, stallExp := v.extractLsb' 24 8 } })) ∧
      ((s.axis n).st ≠ .disabled → ∃ k : BitVec 32, exec (.registerWrite .belfry off false v) s = .next (f.setAxis n { s.axis n with
        cfg := { (s.axis n).cfg with clamp := k.setWidth 24, stallExp := k.extractLsb' 24 8 } })))

/-! ### Reset -/

/-- The reset columns of the register tables, as the registers read right after reset, and the states that the chapters give:
engines stopped with SR 0x40, mailboxes in IDLE, memories with nothing written, no fault raised and no command waiting. -/
def Obligations.ResetLeavesStatedValues : Prop :=
  (∀ e ∈ [(0x200000, 0xF0), (0x200004, 0), (0x20000C, 0x103E8), (0x200200, 1), (0x20020C, 1), (0x200400, 0xFFFFFFFF), (0x200404, 0x1FFF),
      (0x200500, 0xFFFFFFFF), (0x20050C, 0xFFFFFFFF), (0x200510, 7), (0x300000, 0x1664000), (0x30001C, 0x0A000000), (0x500018, 0),
      (0x50001C, 1), (0x500024, 4000), (0x900000, 1), (0x900004, 0x801), (0xA0001C, 0xFF), (0xA00024, 0x1801), (0xC00000, 0x07140A01),
      (0xC0000C, 0x40E4), (0xD00000, 0x1000), (0xE00000, 8), (0xE00200, 2), (0x1100000, 8), (0x1400008, 0x8000)],
    (State.reset.plainRead .belfry e.1).1 = BitVec.ofNat 32 e.2) ∧
  (∀ g : EngineId, (State.reset.engAt g).st = .stopped ∧ (State.reset.engAt g).sr = 0x40#24) ∧
  (∀ m : Mb, (State.reset.box m).st = .idle) ∧ (∀ n : Nat, (State.reset.axis n).st = .disabled) ∧
  (∀ a : Nat, tget State.reset.vlt.word .unwritten a = .unwritten ∧ rdByte State.reset.dram.mem a = 0#8 ∧
    tget State.reset.cfg.flash 0xFF#8 a = 0xFF#8) ∧
  State.reset.flt.raised = [] ∧ State.reset.pending = []

/-! ### Invariants -/

/-- The state after reset holds its memories in canonical form. -/
def Obligations.ResetMemoriesAreCanonical : Prop :=
  Memory.wf State.reset = true

/-- R4, R324, R331, R417: a step keeps the vault, the DRAM regions, the strike slots and the flash in canonical form, so that equal contents
are equal data. -/
def Obligations.StepKeepsMemoriesCanonical : Prop :=
  ∀ s t : State, Memory.wf s = true → step s = .next t → Memory.wf t = true

/-- R479, R480, R505: whatever command a step runs, the identity, the fused settings, the SVN minimum, the keys and the life-cycle state change
only as the table of transitions allows: no command leads out of SCRAPPED, brings a removed key back or lowers the SVN minimum. -/
def Obligations.StepFollowsLifeCycle : Prop :=
  ∀ s t : State, step s = .next t → s.fuses.follow t.fuses

/-! ### Engine words (R229 to R241) -/

/-- Every instruction that the encoding tables of R230 to R241 give a word is what its word decodes to: no operand bit is dropped or
read in another's place. -/
def Obligations.EngineWordsDecodeAsEncoded : Prop :=
  ∀ op : EOp, op.wf = true → engDecode (engEncode op) = some op

/-- R229: the word 0 is ILLEGAL, and so is a word whose MAJOR no table gives. -/
def Obligations.UndefinedWordsAreIllegal : Prop :=
  engDecode 0#32 = none ∧ ∀ w : BitVec 32, w.getLsbD 31 = false → (bitsOf w.toNat 26 5 = 0 ∨ 17 ≤ bitsOf w.toNat 26 5) → engDecode w = none
end

