-- ==== Sys2Proof/Laws/Tab.lean ====
section
/-!
SUPPORT. Laws/Tab.lean: the laws of the canonical tables of Machine/Bits.lean: a read after a write to the same key
gives the value written, a write leaves every other key alone, and every write keeps the canonical form.
-/
namespace Sys2Proof.Machine

theorem tget_tdel_same {α : Type} (t : List (Nat × α)) (d : α) (k : Nat) : tget (tdel t k) d k = d := by
  induction t with
  | nil => rfl
  | cons e t ih => obtain ⟨k', v'⟩ := e; by_cases h : k = k' <;> simp [tdel, tget, h, ih]; simpa [h] using ih

theorem tget_tins_same {α : Type} (t : List (Nat × α)) (d : α) (k : Nat) (v : α) : tget (tins t k v) d k = v := by
  induction t with
  | nil => simp [tins, tget]
  | cons e t ih =>
    obtain ⟨k', v'⟩ := e
    by_cases h1 : k < k'
    · simp [tins, tget, h1]
    · by_cases h2 : k = k'
      · simp [tins, tget, h2]
      · simp [tins, tget, h1, h2, ih]

@[simp] theorem tget_tput_same {α : Type} [DecidableEq α] (t : List (Nat × α)) (d : α) (k : Nat) (v : α) :
    tget (tput t d k v) d k = v := by
  by_cases h : v = d
  · simp [tput, h, tget_tdel_same]
  · simp [tput, h, tget_tins_same]

theorem tget_tdel_ne {α : Type} (t : List (Nat × α)) (d : α) (k m : Nat) (h : m ≠ k) :
    tget (tdel t k) d m = tget t d m := by
  induction t with
  | nil => rfl
  | cons e t ih =>
    obtain ⟨k', v'⟩ := e
    by_cases h1 : k = k'
    · subst h1; simp [tdel, tget, h, ih]
    · by_cases h2 : m = k' <;> simp [tdel, tget, h1, h2, ih]

theorem tget_tins_ne {α : Type} (t : List (Nat × α)) (d : α) (k : Nat) (v : α) (m : Nat) (h : m ≠ k) :
    tget (tins t k v) d m = tget t d m := by
  induction t with
  | nil => simp [tins, tget, h]
  | cons e t ih =>
    obtain ⟨k', v'⟩ := e
    by_cases h1 : k < k'
    · simp [tins, tget, h1, h]
    · by_cases h2 : k = k'
      · subst h2; simp [tins, tget, h]
      · by_cases h3 : m = k' <;> simp [tins, tget, h1, h2, h3, ih]

theorem tget_tput_ne {α : Type} [DecidableEq α] (t : List (Nat × α)) (d : α) (k : Nat) (v : α) (m : Nat)
    (h : m ≠ k) : tget (tput t d k v) d m = tget t d m := by
  by_cases hv : v = d
  · simp [tput, hv, tget_tdel_ne _ _ _ _ h]
  · simp [tput, hv, tget_tins_ne _ _ _ _ _ h]

theorem tabWfFrom_mono {α : Type} [DecidableEq α] (d : α) (t : List (Nat × α)) {lo lo' : Nat} (h : lo ≤ lo')
    (hw : tabWfFrom d lo' t = true) : tabWfFrom d lo t = true := by
  cases t with
  | nil => rfl
  | cons e t =>
    obtain ⟨k, v⟩ := e
    simp only [tabWfFrom, Bool.and_eq_true, decide_eq_true_eq] at hw ⊢
    exact ⟨⟨Nat.le_trans h hw.1.1, hw.1.2⟩, hw.2⟩

theorem tabWfFrom_tins {α : Type} [DecidableEq α] (d : α) (t : List (Nat × α)) (k : Nat) (v : α) (hv : v ≠ d) :
    ∀ lo, lo ≤ k → tabWfFrom d lo t = true → tabWfFrom d lo (tins t k v) = true := by
  induction t with
  | nil => intro lo hk _; simp [tins, tabWfFrom, hk, hv]
  | cons e t ih =>
    obtain ⟨k', v'⟩ := e
    intro lo hk hw
    simp only [tabWfFrom, Bool.and_eq_true, decide_eq_true_eq] at hw
    by_cases h1 : k < k'
    · have h4 : k + 1 ≤ k' := h1
      simp [tins, h1, h4, tabWfFrom, hk, hv, hw.1.2, hw.2]
    · by_cases h2 : k = k'
      · subst h2; simp [tins, tabWfFrom, hk, hv, hw.2]
      · have h3 : k' + 1 ≤ k := by omega
        simp [tins, h1, h2, tabWfFrom, hw.1.1, hw.1.2, ih (k' + 1) h3 hw.2]

theorem tabWfFrom_tdel {α : Type} [DecidableEq α] (d : α) (t : List (Nat × α)) (k : Nat) :
    ∀ lo, tabWfFrom d lo t = true → tabWfFrom d lo (tdel t k) = true := by
  induction t with
  | nil => intro lo _; rfl
  | cons e t ih =>
    obtain ⟨k', v'⟩ := e
    intro lo hw
    simp only [tabWfFrom, Bool.and_eq_true, decide_eq_true_eq] at hw
    by_cases h1 : k = k'
    · simp only [tdel, h1, if_true]
      have := ih (k' + 1) hw.2
      rw [h1] at this
      exact tabWfFrom_mono d _ (by omega) this
    · simp [tdel, h1, tabWfFrom, hw.1.1, hw.1.2, ih (k' + 1) hw.2]

/-- Every write keeps the canonical form. -/
theorem tabWf_tput {α : Type} [DecidableEq α] (t : List (Nat × α)) (d : α) (k : Nat) (v : α)
    (h : tabWf d t = true) : tabWf d (tput t d k v) = true := by
  by_cases hv : v = d
  · simpa [tput, hv, tabWf] using tabWfFrom_tdel d t k 0 h
  · simpa [tput, hv, tabWf] using tabWfFrom_tins d t k v hv 0 (Nat.zero_le _) h

/-- What a lookup finds after a list of keys was set: the value given for a key of the list, else what stood there. -/
theorem tget_tputAll {α : Type} [DecidableEq α] (d : α) (f : Nat → Option α) (m : Nat) : ∀ (ks : List Nat) (t : List (Nat × α)),
    tget (tputAll t d ks f) d m = if m ∈ ks then (f m).getD (tget t d m) else tget t d m := by
  intro ks
  induction ks with
  | nil => intro t; simp [tputAll]
  | cons k ks ih =>
    intro t
    have e : tputAll t d (k :: ks) f = tputAll (match f k with | some v => tput t d k v | none => t) d ks f := rfl
    rw [e, ih]
    by_cases hk : m = k
    · subst hk
      cases f m <;> simp
    · cases hf : f k <;> simp [hk, tget_tput_ne t d k _ m hk]

/-- Setting keys keeps the canonical form. -/
theorem tabWf_tputAll {α : Type} [DecidableEq α] (d : α) (f : Nat → Option α) : ∀ (ks : List Nat) (t : List (Nat × α)),
    tabWf d t = true → tabWf d (tputAll t d ks f) = true := by
  intro ks
  induction ks with
  | nil => intro t h; exact h
  | cons k ks ih =>
    intro t h
    refine ih _ ?_
    cases e : f k with
    | none => simpa [e] using h
    | some v => simpa [e] using tabWf_tput t d k v h

/-- Storing bytes keeps the canonical form of a memory. -/
theorem memWf_wrBytes (bs : List Byte) : ∀ (m : List (Nat × Byte)) (a : Nat), memWf m = true →
    memWf (wrBytes m a bs) = true := by
  induction bs with
  | nil => intro m a h; exact h
  | cons b bs ih => intro m a h; exact ih _ _ (tabWf_tput m 0#8 a b h)

/-- A byte outside the stored range reads as before. -/
theorem rdByte_wrBytes_ne (bs : List Byte) : ∀ (m : List (Nat × Byte)) (a x : Nat),
    (x < a ∨ a + bs.length ≤ x) → rdByte (wrBytes m a bs) x = rdByte m x := by
  induction bs with
  | nil => intro m a x _; rfl
  | cons b bs ih =>
    intro m a x h
    simp only [wrBytes, List.length_cons] at *
    rw [ih _ _ _ (by omega)]
    exact tget_tput_ne m 0#8 a b x (by omega)

end Sys2Proof.Machine
end

