-- ==== Sys2Proof/Laws/State.lean ====
section
/-!
SUPPORT. Laws/State.lean: what each writer of Machine/Access.lean leaves and changes, so that no proof unfolds a record
update. `get_set` gives back what was written, `get_set_ne` what stood at another index, and one lemma per other unit
says that the unit is untouched.
-/
namespace Sys2Proof.Machine

@[simp] theorem State.axis_setAxis (s : State) (n : Nat) (v : Axis) : (s.setAxis n v).axis n = v := by
  simp [State.axis, State.setAxis]

@[simp] theorem State.axis_setAxis_ne (s : State) (n m : Nat) (v : Axis) (h : m ≠ n) :
    (s.setAxis n v).axis m = s.axis m := by
  simp [State.axis, State.setAxis, tget_tput_ne _ _ _ _ _ h]

@[simp] theorem State.setAxis_pending (s : State) (n : Nat) (v : Axis) : (s.setAxis n v).pending = s.pending := rfl

@[simp] theorem State.setAxis_now (s : State) (n : Nat) (v : Axis) : (s.setAxis n v).now = s.now := rfl

@[simp] theorem State.setAxis_freeCount (s : State) (n : Nat) (v : Axis) : (s.setAxis n v).freeCount = s.freeCount := rfl

@[simp] theorem State.setAxis_readData (s : State) (n : Nat) (v : Axis) : (s.setAxis n v).readData = s.readData := rfl

@[simp] theorem State.setAxis_variant (s : State) (n : Nat) (v : Axis) : (s.setAxis n v).variant = s.variant := rfl

@[simp] theorem State.setAxis_man (s : State) (n : Nat) (v : Axis) : (s.setAxis n v).man = s.man := rfl

@[simp] theorem State.setAxis_flt (s : State) (n : Nat) (v : Axis) : (s.setAxis n v).flt = s.flt := rfl

@[simp] theorem State.setAxis_thm (s : State) (n : Nat) (v : Axis) : (s.setAxis n v).thm = s.thm := rfl

@[simp] theorem State.setAxis_ckr (s : State) (n : Nat) (v : Axis) : (s.setAxis n v).ckr = s.ckr := rfl

@[simp] theorem State.setAxis_mbx (s : State) (n : Nat) (v : Axis) : (s.setAxis n v).mbx = s.mbx := rfl

@[simp] theorem State.setAxis_qcu (s : State) (n : Nat) (v : Axis) : (s.setAxis n v).qcu = s.qcu := rfl

@[simp] theorem State.setAxis_tdu (s : State) (n : Nat) (v : Axis) : (s.setAxis n v).tdu = s.tdu := rfl

@[simp] theorem State.setAxis_stk (s : State) (n : Nat) (v : Axis) : (s.setAxis n v).stk = s.stk := rfl

@[simp] theorem State.setAxis_ptu (s : State) (n : Nat) (v : Axis) : (s.setAxis n v).ptu = s.ptu := rfl

@[simp] theorem State.setAxis_noc (s : State) (n : Nat) (v : Axis) : (s.setAxis n v).noc = s.noc := rfl

@[simp] theorem State.setAxis_vlt (s : State) (n : Nat) (v : Axis) : (s.setAxis n v).vlt = s.vlt := rfl

@[simp] theorem State.setAxis_dram (s : State) (n : Nat) (v : Axis) : (s.setAxis n v).dram = s.dram := rfl

@[simp] theorem State.setAxis_mxe (s : State) (n : Nat) (v : Axis) : (s.setAxis n v).mxe = s.mxe := rfl

@[simp] theorem State.setAxis_eng (s : State) (n : Nat) (v : Axis) : (s.setAxis n v).eng = s.eng := rfl

@[simp] theorem State.setAxis_kit (s : State) (n : Nat) (v : Axis) : (s.setAxis n v).kit = s.kit := rfl

@[simp] theorem State.setAxis_fab (s : State) (n : Nat) (v : Axis) : (s.setAxis n v).fab = s.fab := rfl

@[simp] theorem State.setAxis_dbg (s : State) (n : Nat) (v : Axis) : (s.setAxis n v).dbg = s.dbg := rfl

@[simp] theorem State.setAxis_pce (s : State) (n : Nat) (v : Axis) : (s.setAxis n v).pce = s.pce := rfl

@[simp] theorem State.setAxis_ser (s : State) (n : Nat) (v : Axis) : (s.setAxis n v).ser = s.ser := rfl

@[simp] theorem State.setAxis_speed (s : State) (n : Nat) (v : Axis) : (s.setAxis n v).speed = s.speed := rfl

@[simp] theorem State.setAxis_gradeE (s : State) (n : Nat) (v : Axis) : (s.setAxis n v).gradeE = s.gradeE := rfl

@[simp] theorem State.setAxis_cfg (s : State) (n : Nat) (v : Axis) : (s.setAxis n v).cfg = s.cfg := rfl

@[simp] theorem State.setAxis_ovl (s : State) (n : Nat) (v : Axis) : (s.setAxis n v).ovl = s.ovl := rfl

@[simp] theorem State.setAxis_sec (s : State) (n : Nat) (v : Axis) : (s.setAxis n v).sec = s.sec := rfl

@[simp] theorem State.pin_setPin (s : State) (n : Nat) (v : Pin) : (s.setPin n v).pin n = v := by
  simp [State.pin, State.setPin]

@[simp] theorem State.pin_setPin_ne (s : State) (n m : Nat) (v : Pin) (h : m ≠ n) :
    (s.setPin n v).pin m = s.pin m := by
  simp [State.pin, State.setPin, tget_tput_ne _ _ _ _ _ h]

@[simp] theorem State.setPin_pending (s : State) (n : Nat) (v : Pin) : (s.setPin n v).pending = s.pending := rfl

@[simp] theorem State.setPin_now (s : State) (n : Nat) (v : Pin) : (s.setPin n v).now = s.now := rfl

@[simp] theorem State.setPin_freeCount (s : State) (n : Nat) (v : Pin) : (s.setPin n v).freeCount = s.freeCount := rfl

@[simp] theorem State.setPin_readData (s : State) (n : Nat) (v : Pin) : (s.setPin n v).readData = s.readData := rfl

@[simp] theorem State.setPin_variant (s : State) (n : Nat) (v : Pin) : (s.setPin n v).variant = s.variant := rfl

@[simp] theorem State.setPin_man (s : State) (n : Nat) (v : Pin) : (s.setPin n v).man = s.man := rfl

@[simp] theorem State.setPin_flt (s : State) (n : Nat) (v : Pin) : (s.setPin n v).flt = s.flt := rfl

@[simp] theorem State.setPin_thm (s : State) (n : Nat) (v : Pin) : (s.setPin n v).thm = s.thm := rfl

@[simp] theorem State.setPin_ckr (s : State) (n : Nat) (v : Pin) : (s.setPin n v).ckr = s.ckr := rfl

@[simp] theorem State.setPin_mbx (s : State) (n : Nat) (v : Pin) : (s.setPin n v).mbx = s.mbx := rfl

@[simp] theorem State.setPin_qcu (s : State) (n : Nat) (v : Pin) : (s.setPin n v).qcu = s.qcu := rfl

@[simp] theorem State.setPin_tdu (s : State) (n : Nat) (v : Pin) : (s.setPin n v).tdu = s.tdu := rfl

@[simp] theorem State.setPin_stk (s : State) (n : Nat) (v : Pin) : (s.setPin n v).stk = s.stk := rfl

@[simp] theorem State.setPin_ptu (s : State) (n : Nat) (v : Pin) : (s.setPin n v).ptu = s.ptu := rfl

@[simp] theorem State.setPin_noc (s : State) (n : Nat) (v : Pin) : (s.setPin n v).noc = s.noc := rfl

@[simp] theorem State.setPin_vlt (s : State) (n : Nat) (v : Pin) : (s.setPin n v).vlt = s.vlt := rfl

@[simp] theorem State.setPin_dram (s : State) (n : Nat) (v : Pin) : (s.setPin n v).dram = s.dram := rfl

@[simp] theorem State.setPin_mxe (s : State) (n : Nat) (v : Pin) : (s.setPin n v).mxe = s.mxe := rfl

@[simp] theorem State.setPin_eng (s : State) (n : Nat) (v : Pin) : (s.setPin n v).eng = s.eng := rfl

@[simp] theorem State.setPin_kit (s : State) (n : Nat) (v : Pin) : (s.setPin n v).kit = s.kit := rfl

@[simp] theorem State.setPin_fab (s : State) (n : Nat) (v : Pin) : (s.setPin n v).fab = s.fab := rfl

@[simp] theorem State.setPin_dbg (s : State) (n : Nat) (v : Pin) : (s.setPin n v).dbg = s.dbg := rfl

@[simp] theorem State.setPin_pce (s : State) (n : Nat) (v : Pin) : (s.setPin n v).pce = s.pce := rfl

@[simp] theorem State.setPin_ser (s : State) (n : Nat) (v : Pin) : (s.setPin n v).ser = s.ser := rfl

@[simp] theorem State.setPin_speed (s : State) (n : Nat) (v : Pin) : (s.setPin n v).speed = s.speed := rfl

@[simp] theorem State.setPin_gradeE (s : State) (n : Nat) (v : Pin) : (s.setPin n v).gradeE = s.gradeE := rfl

@[simp] theorem State.setPin_cfg (s : State) (n : Nat) (v : Pin) : (s.setPin n v).cfg = s.cfg := rfl

@[simp] theorem State.setPin_ovl (s : State) (n : Nat) (v : Pin) : (s.setPin n v).ovl = s.ovl := rfl

@[simp] theorem State.setPin_sec (s : State) (n : Nat) (v : Pin) : (s.setPin n v).sec = s.sec := rfl

@[simp] theorem State.cap_setCap (s : State) (n : Nat) (v : Capture) : (s.setCap n v).cap n = v := by
  simp [State.cap, State.setCap]

@[simp] theorem State.cap_setCap_ne (s : State) (n m : Nat) (v : Capture) (h : m ≠ n) :
    (s.setCap n v).cap m = s.cap m := by
  simp [State.cap, State.setCap, tget_tput_ne _ _ _ _ _ h]

@[simp] theorem State.setCap_pending (s : State) (n : Nat) (v : Capture) : (s.setCap n v).pending = s.pending := rfl

@[simp] theorem State.setCap_now (s : State) (n : Nat) (v : Capture) : (s.setCap n v).now = s.now := rfl

@[simp] theorem State.setCap_freeCount (s : State) (n : Nat) (v : Capture) : (s.setCap n v).freeCount = s.freeCount := rfl

@[simp] theorem State.setCap_readData (s : State) (n : Nat) (v : Capture) : (s.setCap n v).readData = s.readData := rfl

@[simp] theorem State.setCap_variant (s : State) (n : Nat) (v : Capture) : (s.setCap n v).variant = s.variant := rfl

@[simp] theorem State.setCap_man (s : State) (n : Nat) (v : Capture) : (s.setCap n v).man = s.man := rfl

@[simp] theorem State.setCap_flt (s : State) (n : Nat) (v : Capture) : (s.setCap n v).flt = s.flt := rfl

@[simp] theorem State.setCap_thm (s : State) (n : Nat) (v : Capture) : (s.setCap n v).thm = s.thm := rfl

@[simp] theorem State.setCap_ckr (s : State) (n : Nat) (v : Capture) : (s.setCap n v).ckr = s.ckr := rfl

@[simp] theorem State.setCap_mbx (s : State) (n : Nat) (v : Capture) : (s.setCap n v).mbx = s.mbx := rfl

@[simp] theorem State.setCap_qcu (s : State) (n : Nat) (v : Capture) : (s.setCap n v).qcu = s.qcu := rfl

@[simp] theorem State.setCap_tdu (s : State) (n : Nat) (v : Capture) : (s.setCap n v).tdu = s.tdu := rfl

@[simp] theorem State.setCap_stk (s : State) (n : Nat) (v : Capture) : (s.setCap n v).stk = s.stk := rfl

@[simp] theorem State.setCap_ptu (s : State) (n : Nat) (v : Capture) : (s.setCap n v).ptu = s.ptu := rfl

@[simp] theorem State.setCap_noc (s : State) (n : Nat) (v : Capture) : (s.setCap n v).noc = s.noc := rfl

@[simp] theorem State.setCap_vlt (s : State) (n : Nat) (v : Capture) : (s.setCap n v).vlt = s.vlt := rfl

@[simp] theorem State.setCap_dram (s : State) (n : Nat) (v : Capture) : (s.setCap n v).dram = s.dram := rfl

@[simp] theorem State.setCap_mxe (s : State) (n : Nat) (v : Capture) : (s.setCap n v).mxe = s.mxe := rfl

@[simp] theorem State.setCap_eng (s : State) (n : Nat) (v : Capture) : (s.setCap n v).eng = s.eng := rfl

@[simp] theorem State.setCap_kit (s : State) (n : Nat) (v : Capture) : (s.setCap n v).kit = s.kit := rfl

@[simp] theorem State.setCap_fab (s : State) (n : Nat) (v : Capture) : (s.setCap n v).fab = s.fab := rfl

@[simp] theorem State.setCap_dbg (s : State) (n : Nat) (v : Capture) : (s.setCap n v).dbg = s.dbg := rfl

@[simp] theorem State.setCap_pce (s : State) (n : Nat) (v : Capture) : (s.setCap n v).pce = s.pce := rfl

@[simp] theorem State.setCap_ser (s : State) (n : Nat) (v : Capture) : (s.setCap n v).ser = s.ser := rfl

@[simp] theorem State.setCap_speed (s : State) (n : Nat) (v : Capture) : (s.setCap n v).speed = s.speed := rfl

@[simp] theorem State.setCap_gradeE (s : State) (n : Nat) (v : Capture) : (s.setCap n v).gradeE = s.gradeE := rfl

@[simp] theorem State.setCap_cfg (s : State) (n : Nat) (v : Capture) : (s.setCap n v).cfg = s.cfg := rfl

@[simp] theorem State.setCap_ovl (s : State) (n : Nat) (v : Capture) : (s.setCap n v).ovl = s.ovl := rfl

@[simp] theorem State.setCap_sec (s : State) (n : Nat) (v : Capture) : (s.setCap n v).sec = s.sec := rfl

@[simp] theorem State.strike_setStrike (s : State) (n : Nat) (v : Strike) : (s.setStrike n v).strike n = v := by
  simp [State.strike, State.setStrike]

@[simp] theorem State.strike_setStrike_ne (s : State) (n m : Nat) (v : Strike) (h : m ≠ n) :
    (s.setStrike n v).strike m = s.strike m := by
  simp [State.strike, State.setStrike, tget_tput_ne _ _ _ _ _ h]

@[simp] theorem State.setStrike_pending (s : State) (n : Nat) (v : Strike) : (s.setStrike n v).pending = s.pending := rfl

@[simp] theorem State.setStrike_now (s : State) (n : Nat) (v : Strike) : (s.setStrike n v).now = s.now := rfl

@[simp] theorem State.setStrike_freeCount (s : State) (n : Nat) (v : Strike) : (s.setStrike n v).freeCount = s.freeCount := rfl

@[simp] theorem State.setStrike_readData (s : State) (n : Nat) (v : Strike) : (s.setStrike n v).readData = s.readData := rfl

@[simp] theorem State.setStrike_variant (s : State) (n : Nat) (v : Strike) : (s.setStrike n v).variant = s.variant := rfl

@[simp] theorem State.setStrike_man (s : State) (n : Nat) (v : Strike) : (s.setStrike n v).man = s.man := rfl

@[simp] theorem State.setStrike_flt (s : State) (n : Nat) (v : Strike) : (s.setStrike n v).flt = s.flt := rfl

@[simp] theorem State.setStrike_thm (s : State) (n : Nat) (v : Strike) : (s.setStrike n v).thm = s.thm := rfl

@[simp] theorem State.setStrike_ckr (s : State) (n : Nat) (v : Strike) : (s.setStrike n v).ckr = s.ckr := rfl

@[simp] theorem State.setStrike_mbx (s : State) (n : Nat) (v : Strike) : (s.setStrike n v).mbx = s.mbx := rfl

@[simp] theorem State.setStrike_qcu (s : State) (n : Nat) (v : Strike) : (s.setStrike n v).qcu = s.qcu := rfl

@[simp] theorem State.setStrike_tdu (s : State) (n : Nat) (v : Strike) : (s.setStrike n v).tdu = s.tdu := rfl

@[simp] theorem State.setStrike_axu (s : State) (n : Nat) (v : Strike) : (s.setStrike n v).axu = s.axu := rfl

@[simp] theorem State.setStrike_ptu (s : State) (n : Nat) (v : Strike) : (s.setStrike n v).ptu = s.ptu := rfl

@[simp] theorem State.setStrike_noc (s : State) (n : Nat) (v : Strike) : (s.setStrike n v).noc = s.noc := rfl

@[simp] theorem State.setStrike_vlt (s : State) (n : Nat) (v : Strike) : (s.setStrike n v).vlt = s.vlt := rfl

@[simp] theorem State.setStrike_dram (s : State) (n : Nat) (v : Strike) : (s.setStrike n v).dram = s.dram := rfl

@[simp] theorem State.setStrike_mxe (s : State) (n : Nat) (v : Strike) : (s.setStrike n v).mxe = s.mxe := rfl

@[simp] theorem State.setStrike_eng (s : State) (n : Nat) (v : Strike) : (s.setStrike n v).eng = s.eng := rfl

@[simp] theorem State.setStrike_kit (s : State) (n : Nat) (v : Strike) : (s.setStrike n v).kit = s.kit := rfl

@[simp] theorem State.setStrike_fab (s : State) (n : Nat) (v : Strike) : (s.setStrike n v).fab = s.fab := rfl

@[simp] theorem State.setStrike_dbg (s : State) (n : Nat) (v : Strike) : (s.setStrike n v).dbg = s.dbg := rfl

@[simp] theorem State.setStrike_pce (s : State) (n : Nat) (v : Strike) : (s.setStrike n v).pce = s.pce := rfl

@[simp] theorem State.setStrike_ser (s : State) (n : Nat) (v : Strike) : (s.setStrike n v).ser = s.ser := rfl

@[simp] theorem State.setStrike_speed (s : State) (n : Nat) (v : Strike) : (s.setStrike n v).speed = s.speed := rfl

@[simp] theorem State.setStrike_gradeE (s : State) (n : Nat) (v : Strike) : (s.setStrike n v).gradeE = s.gradeE := rfl

@[simp] theorem State.setStrike_cfg (s : State) (n : Nat) (v : Strike) : (s.setStrike n v).cfg = s.cfg := rfl

@[simp] theorem State.setStrike_ovl (s : State) (n : Nat) (v : Strike) : (s.setStrike n v).ovl = s.ovl := rfl

@[simp] theorem State.setStrike_sec (s : State) (n : Nat) (v : Strike) : (s.setStrike n v).sec = s.sec := rfl

@[simp] theorem State.allot_setAllot (s : State) (n : Nat) (v : Allot) : (s.setAllot n v).allot n = v := by
  simp [State.allot, State.setAllot]

@[simp] theorem State.allot_setAllot_ne (s : State) (n m : Nat) (v : Allot) (h : m ≠ n) :
    (s.setAllot n v).allot m = s.allot m := by
  simp [State.allot, State.setAllot, tget_tput_ne _ _ _ _ _ h]

@[simp] theorem State.setAllot_pending (s : State) (n : Nat) (v : Allot) : (s.setAllot n v).pending = s.pending := rfl

@[simp] theorem State.setAllot_now (s : State) (n : Nat) (v : Allot) : (s.setAllot n v).now = s.now := rfl

@[simp] theorem State.setAllot_freeCount (s : State) (n : Nat) (v : Allot) : (s.setAllot n v).freeCount = s.freeCount := rfl

@[simp] theorem State.setAllot_readData (s : State) (n : Nat) (v : Allot) : (s.setAllot n v).readData = s.readData := rfl

@[simp] theorem State.setAllot_variant (s : State) (n : Nat) (v : Allot) : (s.setAllot n v).variant = s.variant := rfl

@[simp] theorem State.setAllot_man (s : State) (n : Nat) (v : Allot) : (s.setAllot n v).man = s.man := rfl

@[simp] theorem State.setAllot_flt (s : State) (n : Nat) (v : Allot) : (s.setAllot n v).flt = s.flt := rfl

@[simp] theorem State.setAllot_thm (s : State) (n : Nat) (v : Allot) : (s.setAllot n v).thm = s.thm := rfl

@[simp] theorem State.setAllot_ckr (s : State) (n : Nat) (v : Allot) : (s.setAllot n v).ckr = s.ckr := rfl

@[simp] theorem State.setAllot_mbx (s : State) (n : Nat) (v : Allot) : (s.setAllot n v).mbx = s.mbx := rfl

@[simp] theorem State.setAllot_qcu (s : State) (n : Nat) (v : Allot) : (s.setAllot n v).qcu = s.qcu := rfl

@[simp] theorem State.setAllot_tdu (s : State) (n : Nat) (v : Allot) : (s.setAllot n v).tdu = s.tdu := rfl

@[simp] theorem State.setAllot_axu (s : State) (n : Nat) (v : Allot) : (s.setAllot n v).axu = s.axu := rfl

@[simp] theorem State.setAllot_ptu (s : State) (n : Nat) (v : Allot) : (s.setAllot n v).ptu = s.ptu := rfl

@[simp] theorem State.setAllot_noc (s : State) (n : Nat) (v : Allot) : (s.setAllot n v).noc = s.noc := rfl

@[simp] theorem State.setAllot_vlt (s : State) (n : Nat) (v : Allot) : (s.setAllot n v).vlt = s.vlt := rfl

@[simp] theorem State.setAllot_dram (s : State) (n : Nat) (v : Allot) : (s.setAllot n v).dram = s.dram := rfl

@[simp] theorem State.setAllot_mxe (s : State) (n : Nat) (v : Allot) : (s.setAllot n v).mxe = s.mxe := rfl

@[simp] theorem State.setAllot_eng (s : State) (n : Nat) (v : Allot) : (s.setAllot n v).eng = s.eng := rfl

@[simp] theorem State.setAllot_kit (s : State) (n : Nat) (v : Allot) : (s.setAllot n v).kit = s.kit := rfl

@[simp] theorem State.setAllot_fab (s : State) (n : Nat) (v : Allot) : (s.setAllot n v).fab = s.fab := rfl

@[simp] theorem State.setAllot_dbg (s : State) (n : Nat) (v : Allot) : (s.setAllot n v).dbg = s.dbg := rfl

@[simp] theorem State.setAllot_pce (s : State) (n : Nat) (v : Allot) : (s.setAllot n v).pce = s.pce := rfl

@[simp] theorem State.setAllot_ser (s : State) (n : Nat) (v : Allot) : (s.setAllot n v).ser = s.ser := rfl

@[simp] theorem State.setAllot_speed (s : State) (n : Nat) (v : Allot) : (s.setAllot n v).speed = s.speed := rfl

@[simp] theorem State.setAllot_gradeE (s : State) (n : Nat) (v : Allot) : (s.setAllot n v).gradeE = s.gradeE := rfl

@[simp] theorem State.setAllot_cfg (s : State) (n : Nat) (v : Allot) : (s.setAllot n v).cfg = s.cfg := rfl

@[simp] theorem State.setAllot_ovl (s : State) (n : Nat) (v : Allot) : (s.setAllot n v).ovl = s.ovl := rfl

@[simp] theorem State.setAllot_sec (s : State) (n : Nat) (v : Allot) : (s.setAllot n v).sec = s.sec := rfl

@[simp] theorem State.ptuAt_setPtuAt (s : State) (n : Nat) (v : Ptu) : (s.setPtuAt n v).ptuAt n = v := by
  simp [State.ptuAt, State.setPtuAt]

@[simp] theorem State.ptuAt_setPtuAt_ne (s : State) (n m : Nat) (v : Ptu) (h : m ≠ n) :
    (s.setPtuAt n v).ptuAt m = s.ptuAt m := by
  simp [State.ptuAt, State.setPtuAt, tget_tput_ne _ _ _ _ _ h]

@[simp] theorem State.setPtuAt_pending (s : State) (n : Nat) (v : Ptu) : (s.setPtuAt n v).pending = s.pending := rfl

@[simp] theorem State.setPtuAt_now (s : State) (n : Nat) (v : Ptu) : (s.setPtuAt n v).now = s.now := rfl

@[simp] theorem State.setPtuAt_freeCount (s : State) (n : Nat) (v : Ptu) : (s.setPtuAt n v).freeCount = s.freeCount := rfl

@[simp] theorem State.setPtuAt_readData (s : State) (n : Nat) (v : Ptu) : (s.setPtuAt n v).readData = s.readData := rfl

@[simp] theorem State.setPtuAt_variant (s : State) (n : Nat) (v : Ptu) : (s.setPtuAt n v).variant = s.variant := rfl

@[simp] theorem State.setPtuAt_man (s : State) (n : Nat) (v : Ptu) : (s.setPtuAt n v).man = s.man := rfl

@[simp] theorem State.setPtuAt_flt (s : State) (n : Nat) (v : Ptu) : (s.setPtuAt n v).flt = s.flt := rfl

@[simp] theorem State.setPtuAt_thm (s : State) (n : Nat) (v : Ptu) : (s.setPtuAt n v).thm = s.thm := rfl

@[simp] theorem State.setPtuAt_ckr (s : State) (n : Nat) (v : Ptu) : (s.setPtuAt n v).ckr = s.ckr := rfl

@[simp] theorem State.setPtuAt_mbx (s : State) (n : Nat) (v : Ptu) : (s.setPtuAt n v).mbx = s.mbx := rfl

@[simp] theorem State.setPtuAt_qcu (s : State) (n : Nat) (v : Ptu) : (s.setPtuAt n v).qcu = s.qcu := rfl

@[simp] theorem State.setPtuAt_tdu (s : State) (n : Nat) (v : Ptu) : (s.setPtuAt n v).tdu = s.tdu := rfl

@[simp] theorem State.setPtuAt_axu (s : State) (n : Nat) (v : Ptu) : (s.setPtuAt n v).axu = s.axu := rfl

@[simp] theorem State.setPtuAt_stk (s : State) (n : Nat) (v : Ptu) : (s.setPtuAt n v).stk = s.stk := rfl

@[simp] theorem State.setPtuAt_noc (s : State) (n : Nat) (v : Ptu) : (s.setPtuAt n v).noc = s.noc := rfl

@[simp] theorem State.setPtuAt_vlt (s : State) (n : Nat) (v : Ptu) : (s.setPtuAt n v).vlt = s.vlt := rfl

@[simp] theorem State.setPtuAt_dram (s : State) (n : Nat) (v : Ptu) : (s.setPtuAt n v).dram = s.dram := rfl

@[simp] theorem State.setPtuAt_mxe (s : State) (n : Nat) (v : Ptu) : (s.setPtuAt n v).mxe = s.mxe := rfl

@[simp] theorem State.setPtuAt_eng (s : State) (n : Nat) (v : Ptu) : (s.setPtuAt n v).eng = s.eng := rfl

@[simp] theorem State.setPtuAt_kit (s : State) (n : Nat) (v : Ptu) : (s.setPtuAt n v).kit = s.kit := rfl

@[simp] theorem State.setPtuAt_fab (s : State) (n : Nat) (v : Ptu) : (s.setPtuAt n v).fab = s.fab := rfl

@[simp] theorem State.setPtuAt_dbg (s : State) (n : Nat) (v : Ptu) : (s.setPtuAt n v).dbg = s.dbg := rfl

@[simp] theorem State.setPtuAt_pce (s : State) (n : Nat) (v : Ptu) : (s.setPtuAt n v).pce = s.pce := rfl

@[simp] theorem State.setPtuAt_ser (s : State) (n : Nat) (v : Ptu) : (s.setPtuAt n v).ser = s.ser := rfl

@[simp] theorem State.setPtuAt_speed (s : State) (n : Nat) (v : Ptu) : (s.setPtuAt n v).speed = s.speed := rfl

@[simp] theorem State.setPtuAt_gradeE (s : State) (n : Nat) (v : Ptu) : (s.setPtuAt n v).gradeE = s.gradeE := rfl

@[simp] theorem State.setPtuAt_cfg (s : State) (n : Nat) (v : Ptu) : (s.setPtuAt n v).cfg = s.cfg := rfl

@[simp] theorem State.setPtuAt_ovl (s : State) (n : Nat) (v : Ptu) : (s.setPtuAt n v).ovl = s.ovl := rfl

@[simp] theorem State.setPtuAt_sec (s : State) (n : Nat) (v : Ptu) : (s.setPtuAt n v).sec = s.sec := rfl

@[simp] theorem State.queue_setQueue (s : State) (n : Nat) (v : Queue) : (s.setQueue n v).queue n = v := by
  simp [State.queue, State.setQueue]

@[simp] theorem State.queue_setQueue_ne (s : State) (n m : Nat) (v : Queue) (h : m ≠ n) :
    (s.setQueue n v).queue m = s.queue m := by
  simp [State.queue, State.setQueue, tget_tput_ne _ _ _ _ _ h]

@[simp] theorem State.setQueue_pending (s : State) (n : Nat) (v : Queue) : (s.setQueue n v).pending = s.pending := rfl

@[simp] theorem State.setQueue_now (s : State) (n : Nat) (v : Queue) : (s.setQueue n v).now = s.now := rfl

@[simp] theorem State.setQueue_freeCount (s : State) (n : Nat) (v : Queue) : (s.setQueue n v).freeCount = s.freeCount := rfl

@[simp] theorem State.setQueue_readData (s : State) (n : Nat) (v : Queue) : (s.setQueue n v).readData = s.readData := rfl

@[simp] theorem State.setQueue_variant (s : State) (n : Nat) (v : Queue) : (s.setQueue n v).variant = s.variant := rfl

@[simp] theorem State.setQueue_man (s : State) (n : Nat) (v : Queue) : (s.setQueue n v).man = s.man := rfl

@[simp] theorem State.setQueue_flt (s : State) (n : Nat) (v : Queue) : (s.setQueue n v).flt = s.flt := rfl

@[simp] theorem State.setQueue_thm (s : State) (n : Nat) (v : Queue) : (s.setQueue n v).thm = s.thm := rfl

@[simp] theorem State.setQueue_ckr (s : State) (n : Nat) (v : Queue) : (s.setQueue n v).ckr = s.ckr := rfl

@[simp] theorem State.setQueue_mbx (s : State) (n : Nat) (v : Queue) : (s.setQueue n v).mbx = s.mbx := rfl

@[simp] theorem State.setQueue_tdu (s : State) (n : Nat) (v : Queue) : (s.setQueue n v).tdu = s.tdu := rfl

@[simp] theorem State.setQueue_axu (s : State) (n : Nat) (v : Queue) : (s.setQueue n v).axu = s.axu := rfl

@[simp] theorem State.setQueue_stk (s : State) (n : Nat) (v : Queue) : (s.setQueue n v).stk = s.stk := rfl

@[simp] theorem State.setQueue_ptu (s : State) (n : Nat) (v : Queue) : (s.setQueue n v).ptu = s.ptu := rfl

@[simp] theorem State.setQueue_noc (s : State) (n : Nat) (v : Queue) : (s.setQueue n v).noc = s.noc := rfl

@[simp] theorem State.setQueue_vlt (s : State) (n : Nat) (v : Queue) : (s.setQueue n v).vlt = s.vlt := rfl

@[simp] theorem State.setQueue_dram (s : State) (n : Nat) (v : Queue) : (s.setQueue n v).dram = s.dram := rfl

@[simp] theorem State.setQueue_mxe (s : State) (n : Nat) (v : Queue) : (s.setQueue n v).mxe = s.mxe := rfl

@[simp] theorem State.setQueue_eng (s : State) (n : Nat) (v : Queue) : (s.setQueue n v).eng = s.eng := rfl

@[simp] theorem State.setQueue_kit (s : State) (n : Nat) (v : Queue) : (s.setQueue n v).kit = s.kit := rfl

@[simp] theorem State.setQueue_fab (s : State) (n : Nat) (v : Queue) : (s.setQueue n v).fab = s.fab := rfl

@[simp] theorem State.setQueue_dbg (s : State) (n : Nat) (v : Queue) : (s.setQueue n v).dbg = s.dbg := rfl

@[simp] theorem State.setQueue_pce (s : State) (n : Nat) (v : Queue) : (s.setQueue n v).pce = s.pce := rfl

@[simp] theorem State.setQueue_ser (s : State) (n : Nat) (v : Queue) : (s.setQueue n v).ser = s.ser := rfl

@[simp] theorem State.setQueue_speed (s : State) (n : Nat) (v : Queue) : (s.setQueue n v).speed = s.speed := rfl

@[simp] theorem State.setQueue_gradeE (s : State) (n : Nat) (v : Queue) : (s.setQueue n v).gradeE = s.gradeE := rfl

@[simp] theorem State.setQueue_cfg (s : State) (n : Nat) (v : Queue) : (s.setQueue n v).cfg = s.cfg := rfl

@[simp] theorem State.setQueue_ovl (s : State) (n : Nat) (v : Queue) : (s.setQueue n v).ovl = s.ovl := rfl

@[simp] theorem State.setQueue_sec (s : State) (n : Nat) (v : Queue) : (s.setQueue n v).sec = s.sec := rfl

@[simp] theorem State.win_setWin (s : State) (n : Nat) (v : PopWin) : (s.setWin n v).win n = v := by
  simp [State.win, State.setWin]

@[simp] theorem State.win_setWin_ne (s : State) (n m : Nat) (v : PopWin) (h : m ≠ n) :
    (s.setWin n v).win m = s.win m := by
  simp [State.win, State.setWin, tget_tput_ne _ _ _ _ _ h]

@[simp] theorem State.setWin_pending (s : State) (n : Nat) (v : PopWin) : (s.setWin n v).pending = s.pending := rfl

@[simp] theorem State.setWin_now (s : State) (n : Nat) (v : PopWin) : (s.setWin n v).now = s.now := rfl

@[simp] theorem State.setWin_freeCount (s : State) (n : Nat) (v : PopWin) : (s.setWin n v).freeCount = s.freeCount := rfl

@[simp] theorem State.setWin_readData (s : State) (n : Nat) (v : PopWin) : (s.setWin n v).readData = s.readData := rfl

@[simp] theorem State.setWin_variant (s : State) (n : Nat) (v : PopWin) : (s.setWin n v).variant = s.variant := rfl

@[simp] theorem State.setWin_man (s : State) (n : Nat) (v : PopWin) : (s.setWin n v).man = s.man := rfl

@[simp] theorem State.setWin_flt (s : State) (n : Nat) (v : PopWin) : (s.setWin n v).flt = s.flt := rfl

@[simp] theorem State.setWin_thm (s : State) (n : Nat) (v : PopWin) : (s.setWin n v).thm = s.thm := rfl

@[simp] theorem State.setWin_ckr (s : State) (n : Nat) (v : PopWin) : (s.setWin n v).ckr = s.ckr := rfl

@[simp] theorem State.setWin_mbx (s : State) (n : Nat) (v : PopWin) : (s.setWin n v).mbx = s.mbx := rfl

@[simp] theorem State.setWin_tdu (s : State) (n : Nat) (v : PopWin) : (s.setWin n v).tdu = s.tdu := rfl

@[simp] theorem State.setWin_axu (s : State) (n : Nat) (v : PopWin) : (s.setWin n v).axu = s.axu := rfl

@[simp] theorem State.setWin_stk (s : State) (n : Nat) (v : PopWin) : (s.setWin n v).stk = s.stk := rfl

@[simp] theorem State.setWin_ptu (s : State) (n : Nat) (v : PopWin) : (s.setWin n v).ptu = s.ptu := rfl

@[simp] theorem State.setWin_noc (s : State) (n : Nat) (v : PopWin) : (s.setWin n v).noc = s.noc := rfl

@[simp] theorem State.setWin_vlt (s : State) (n : Nat) (v : PopWin) : (s.setWin n v).vlt = s.vlt := rfl

@[simp] theorem State.setWin_dram (s : State) (n : Nat) (v : PopWin) : (s.setWin n v).dram = s.dram := rfl

@[simp] theorem State.setWin_mxe (s : State) (n : Nat) (v : PopWin) : (s.setWin n v).mxe = s.mxe := rfl

@[simp] theorem State.setWin_eng (s : State) (n : Nat) (v : PopWin) : (s.setWin n v).eng = s.eng := rfl

@[simp] theorem State.setWin_kit (s : State) (n : Nat) (v : PopWin) : (s.setWin n v).kit = s.kit := rfl

@[simp] theorem State.setWin_fab (s : State) (n : Nat) (v : PopWin) : (s.setWin n v).fab = s.fab := rfl

@[simp] theorem State.setWin_dbg (s : State) (n : Nat) (v : PopWin) : (s.setWin n v).dbg = s.dbg := rfl

@[simp] theorem State.setWin_pce (s : State) (n : Nat) (v : PopWin) : (s.setWin n v).pce = s.pce := rfl

@[simp] theorem State.setWin_ser (s : State) (n : Nat) (v : PopWin) : (s.setWin n v).ser = s.ser := rfl

@[simp] theorem State.setWin_speed (s : State) (n : Nat) (v : PopWin) : (s.setWin n v).speed = s.speed := rfl

@[simp] theorem State.setWin_gradeE (s : State) (n : Nat) (v : PopWin) : (s.setWin n v).gradeE = s.gradeE := rfl

@[simp] theorem State.setWin_cfg (s : State) (n : Nat) (v : PopWin) : (s.setWin n v).cfg = s.cfg := rfl

@[simp] theorem State.setWin_ovl (s : State) (n : Nat) (v : PopWin) : (s.setWin n v).ovl = s.ovl := rfl

@[simp] theorem State.setWin_sec (s : State) (n : Nat) (v : PopWin) : (s.setWin n v).sec = s.sec := rfl

@[simp] theorem State.grp_setGrp (s : State) (n : Nat) (v : Group) : (s.setGrp n v).grp n = v := by
  simp [State.grp, State.setGrp]

@[simp] theorem State.grp_setGrp_ne (s : State) (n m : Nat) (v : Group) (h : m ≠ n) :
    (s.setGrp n v).grp m = s.grp m := by
  simp [State.grp, State.setGrp, tget_tput_ne _ _ _ _ _ h]

@[simp] theorem State.setGrp_pending (s : State) (n : Nat) (v : Group) : (s.setGrp n v).pending = s.pending := rfl

@[simp] theorem State.setGrp_now (s : State) (n : Nat) (v : Group) : (s.setGrp n v).now = s.now := rfl

@[simp] theorem State.setGrp_freeCount (s : State) (n : Nat) (v : Group) : (s.setGrp n v).freeCount = s.freeCount := rfl

@[simp] theorem State.setGrp_readData (s : State) (n : Nat) (v : Group) : (s.setGrp n v).readData = s.readData := rfl

@[simp] theorem State.setGrp_variant (s : State) (n : Nat) (v : Group) : (s.setGrp n v).variant = s.variant := rfl

@[simp] theorem State.setGrp_man (s : State) (n : Nat) (v : Group) : (s.setGrp n v).man = s.man := rfl

@[simp] theorem State.setGrp_flt (s : State) (n : Nat) (v : Group) : (s.setGrp n v).flt = s.flt := rfl

@[simp] theorem State.setGrp_thm (s : State) (n : Nat) (v : Group) : (s.setGrp n v).thm = s.thm := rfl

@[simp] theorem State.setGrp_ckr (s : State) (n : Nat) (v : Group) : (s.setGrp n v).ckr = s.ckr := rfl

@[simp] theorem State.setGrp_mbx (s : State) (n : Nat) (v : Group) : (s.setGrp n v).mbx = s.mbx := rfl

@[simp] theorem State.setGrp_qcu (s : State) (n : Nat) (v : Group) : (s.setGrp n v).qcu = s.qcu := rfl

@[simp] theorem State.setGrp_axu (s : State) (n : Nat) (v : Group) : (s.setGrp n v).axu = s.axu := rfl

@[simp] theorem State.setGrp_stk (s : State) (n : Nat) (v : Group) : (s.setGrp n v).stk = s.stk := rfl

@[simp] theorem State.setGrp_ptu (s : State) (n : Nat) (v : Group) : (s.setGrp n v).ptu = s.ptu := rfl

@[simp] theorem State.setGrp_noc (s : State) (n : Nat) (v : Group) : (s.setGrp n v).noc = s.noc := rfl

@[simp] theorem State.setGrp_vlt (s : State) (n : Nat) (v : Group) : (s.setGrp n v).vlt = s.vlt := rfl

@[simp] theorem State.setGrp_dram (s : State) (n : Nat) (v : Group) : (s.setGrp n v).dram = s.dram := rfl

@[simp] theorem State.setGrp_mxe (s : State) (n : Nat) (v : Group) : (s.setGrp n v).mxe = s.mxe := rfl

@[simp] theorem State.setGrp_eng (s : State) (n : Nat) (v : Group) : (s.setGrp n v).eng = s.eng := rfl

@[simp] theorem State.setGrp_kit (s : State) (n : Nat) (v : Group) : (s.setGrp n v).kit = s.kit := rfl

@[simp] theorem State.setGrp_fab (s : State) (n : Nat) (v : Group) : (s.setGrp n v).fab = s.fab := rfl

@[simp] theorem State.setGrp_dbg (s : State) (n : Nat) (v : Group) : (s.setGrp n v).dbg = s.dbg := rfl

@[simp] theorem State.setGrp_pce (s : State) (n : Nat) (v : Group) : (s.setGrp n v).pce = s.pce := rfl

@[simp] theorem State.setGrp_ser (s : State) (n : Nat) (v : Group) : (s.setGrp n v).ser = s.ser := rfl

@[simp] theorem State.setGrp_speed (s : State) (n : Nat) (v : Group) : (s.setGrp n v).speed = s.speed := rfl

@[simp] theorem State.setGrp_gradeE (s : State) (n : Nat) (v : Group) : (s.setGrp n v).gradeE = s.gradeE := rfl

@[simp] theorem State.setGrp_cfg (s : State) (n : Nat) (v : Group) : (s.setGrp n v).cfg = s.cfg := rfl

@[simp] theorem State.setGrp_ovl (s : State) (n : Nat) (v : Group) : (s.setGrp n v).ovl = s.ovl := rfl

@[simp] theorem State.setGrp_sec (s : State) (n : Nat) (v : Group) : (s.setGrp n v).sec = s.sec := rfl

@[simp] theorem State.ctx_setCtx (s : State) (n : Nat) (v : Ctx) : (s.setCtx n v).ctx n = v := by
  simp [State.ctx, State.setCtx]

@[simp] theorem State.ctx_setCtx_ne (s : State) (n m : Nat) (v : Ctx) (h : m ≠ n) :
    (s.setCtx n v).ctx m = s.ctx m := by
  simp [State.ctx, State.setCtx, tget_tput_ne _ _ _ _ _ h]

@[simp] theorem State.setCtx_pending (s : State) (n : Nat) (v : Ctx) : (s.setCtx n v).pending = s.pending := rfl

@[simp] theorem State.setCtx_now (s : State) (n : Nat) (v : Ctx) : (s.setCtx n v).now = s.now := rfl

@[simp] theorem State.setCtx_freeCount (s : State) (n : Nat) (v : Ctx) : (s.setCtx n v).freeCount = s.freeCount := rfl

@[simp] theorem State.setCtx_readData (s : State) (n : Nat) (v : Ctx) : (s.setCtx n v).readData = s.readData := rfl

@[simp] theorem State.setCtx_variant (s : State) (n : Nat) (v : Ctx) : (s.setCtx n v).variant = s.variant := rfl

@[simp] theorem State.setCtx_man (s : State) (n : Nat) (v : Ctx) : (s.setCtx n v).man = s.man := rfl

@[simp] theorem State.setCtx_flt (s : State) (n : Nat) (v : Ctx) : (s.setCtx n v).flt = s.flt := rfl

@[simp] theorem State.setCtx_thm (s : State) (n : Nat) (v : Ctx) : (s.setCtx n v).thm = s.thm := rfl

@[simp] theorem State.setCtx_ckr (s : State) (n : Nat) (v : Ctx) : (s.setCtx n v).ckr = s.ckr := rfl

@[simp] theorem State.setCtx_mbx (s : State) (n : Nat) (v : Ctx) : (s.setCtx n v).mbx = s.mbx := rfl

@[simp] theorem State.setCtx_qcu (s : State) (n : Nat) (v : Ctx) : (s.setCtx n v).qcu = s.qcu := rfl

@[simp] theorem State.setCtx_axu (s : State) (n : Nat) (v : Ctx) : (s.setCtx n v).axu = s.axu := rfl

@[simp] theorem State.setCtx_stk (s : State) (n : Nat) (v : Ctx) : (s.setCtx n v).stk = s.stk := rfl

@[simp] theorem State.setCtx_ptu (s : State) (n : Nat) (v : Ctx) : (s.setCtx n v).ptu = s.ptu := rfl

@[simp] theorem State.setCtx_noc (s : State) (n : Nat) (v : Ctx) : (s.setCtx n v).noc = s.noc := rfl

@[simp] theorem State.setCtx_vlt (s : State) (n : Nat) (v : Ctx) : (s.setCtx n v).vlt = s.vlt := rfl

@[simp] theorem State.setCtx_dram (s : State) (n : Nat) (v : Ctx) : (s.setCtx n v).dram = s.dram := rfl

@[simp] theorem State.setCtx_mxe (s : State) (n : Nat) (v : Ctx) : (s.setCtx n v).mxe = s.mxe := rfl

@[simp] theorem State.setCtx_eng (s : State) (n : Nat) (v : Ctx) : (s.setCtx n v).eng = s.eng := rfl

@[simp] theorem State.setCtx_kit (s : State) (n : Nat) (v : Ctx) : (s.setCtx n v).kit = s.kit := rfl

@[simp] theorem State.setCtx_fab (s : State) (n : Nat) (v : Ctx) : (s.setCtx n v).fab = s.fab := rfl

@[simp] theorem State.setCtx_dbg (s : State) (n : Nat) (v : Ctx) : (s.setCtx n v).dbg = s.dbg := rfl

@[simp] theorem State.setCtx_pce (s : State) (n : Nat) (v : Ctx) : (s.setCtx n v).pce = s.pce := rfl

@[simp] theorem State.setCtx_ser (s : State) (n : Nat) (v : Ctx) : (s.setCtx n v).ser = s.ser := rfl

@[simp] theorem State.setCtx_speed (s : State) (n : Nat) (v : Ctx) : (s.setCtx n v).speed = s.speed := rfl

@[simp] theorem State.setCtx_gradeE (s : State) (n : Nat) (v : Ctx) : (s.setCtx n v).gradeE = s.gradeE := rfl

@[simp] theorem State.setCtx_cfg (s : State) (n : Nat) (v : Ctx) : (s.setCtx n v).cfg = s.cfg := rfl

@[simp] theorem State.setCtx_ovl (s : State) (n : Nat) (v : Ctx) : (s.setCtx n v).ovl = s.ovl := rfl

@[simp] theorem State.setCtx_sec (s : State) (n : Nat) (v : Ctx) : (s.setCtx n v).sec = s.sec := rfl

@[simp] theorem State.box_setBox (s : State) (n : Nat) (v : Mailbox) : (s.setBox n v).box n = v := by
  simp [State.box, State.setBox]

@[simp] theorem State.box_setBox_ne (s : State) (n m : Nat) (v : Mailbox) (h : m ≠ n) :
    (s.setBox n v).box m = s.box m := by
  simp [State.box, State.setBox, tget_tput_ne _ _ _ _ _ h]

@[simp] theorem State.setBox_pending (s : State) (n : Nat) (v : Mailbox) : (s.setBox n v).pending = s.pending := rfl

@[simp] theorem State.setBox_now (s : State) (n : Nat) (v : Mailbox) : (s.setBox n v).now = s.now := rfl

@[simp] theorem State.setBox_freeCount (s : State) (n : Nat) (v : Mailbox) : (s.setBox n v).freeCount = s.freeCount := rfl

@[simp] theorem State.setBox_readData (s : State) (n : Nat) (v : Mailbox) : (s.setBox n v).readData = s.readData := rfl

@[simp] theorem State.setBox_variant (s : State) (n : Nat) (v : Mailbox) : (s.setBox n v).variant = s.variant := rfl

@[simp] theorem State.setBox_man (s : State) (n : Nat) (v : Mailbox) : (s.setBox n v).man = s.man := rfl

@[simp] theorem State.setBox_flt (s : State) (n : Nat) (v : Mailbox) : (s.setBox n v).flt = s.flt := rfl

@[simp] theorem State.setBox_thm (s : State) (n : Nat) (v : Mailbox) : (s.setBox n v).thm = s.thm := rfl

@[simp] theorem State.setBox_ckr (s : State) (n : Nat) (v : Mailbox) : (s.setBox n v).ckr = s.ckr := rfl

@[simp] theorem State.setBox_qcu (s : State) (n : Nat) (v : Mailbox) : (s.setBox n v).qcu = s.qcu := rfl

@[simp] theorem State.setBox_tdu (s : State) (n : Nat) (v : Mailbox) : (s.setBox n v).tdu = s.tdu := rfl

@[simp] theorem State.setBox_axu (s : State) (n : Nat) (v : Mailbox) : (s.setBox n v).axu = s.axu := rfl

@[simp] theorem State.setBox_stk (s : State) (n : Nat) (v : Mailbox) : (s.setBox n v).stk = s.stk := rfl

@[simp] theorem State.setBox_ptu (s : State) (n : Nat) (v : Mailbox) : (s.setBox n v).ptu = s.ptu := rfl

@[simp] theorem State.setBox_noc (s : State) (n : Nat) (v : Mailbox) : (s.setBox n v).noc = s.noc := rfl

@[simp] theorem State.setBox_vlt (s : State) (n : Nat) (v : Mailbox) : (s.setBox n v).vlt = s.vlt := rfl

@[simp] theorem State.setBox_dram (s : State) (n : Nat) (v : Mailbox) : (s.setBox n v).dram = s.dram := rfl

@[simp] theorem State.setBox_mxe (s : State) (n : Nat) (v : Mailbox) : (s.setBox n v).mxe = s.mxe := rfl

@[simp] theorem State.setBox_eng (s : State) (n : Nat) (v : Mailbox) : (s.setBox n v).eng = s.eng := rfl

@[simp] theorem State.setBox_kit (s : State) (n : Nat) (v : Mailbox) : (s.setBox n v).kit = s.kit := rfl

@[simp] theorem State.setBox_fab (s : State) (n : Nat) (v : Mailbox) : (s.setBox n v).fab = s.fab := rfl

@[simp] theorem State.setBox_dbg (s : State) (n : Nat) (v : Mailbox) : (s.setBox n v).dbg = s.dbg := rfl

@[simp] theorem State.setBox_pce (s : State) (n : Nat) (v : Mailbox) : (s.setBox n v).pce = s.pce := rfl

@[simp] theorem State.setBox_ser (s : State) (n : Nat) (v : Mailbox) : (s.setBox n v).ser = s.ser := rfl

@[simp] theorem State.setBox_speed (s : State) (n : Nat) (v : Mailbox) : (s.setBox n v).speed = s.speed := rfl

@[simp] theorem State.setBox_gradeE (s : State) (n : Nat) (v : Mailbox) : (s.setBox n v).gradeE = s.gradeE := rfl

@[simp] theorem State.setBox_cfg (s : State) (n : Nat) (v : Mailbox) : (s.setBox n v).cfg = s.cfg := rfl

@[simp] theorem State.setBox_ovl (s : State) (n : Nat) (v : Mailbox) : (s.setBox n v).ovl = s.ovl := rfl

@[simp] theorem State.setBox_sec (s : State) (n : Nat) (v : Mailbox) : (s.setBox n v).sec = s.sec := rfl

@[simp] theorem State.rtr_setRtr (s : State) (n : Nat) (v : Router) : (s.setRtr n v).rtr n = v := by
  simp [State.rtr, State.setRtr]

@[simp] theorem State.rtr_setRtr_ne (s : State) (n m : Nat) (v : Router) (h : m ≠ n) :
    (s.setRtr n v).rtr m = s.rtr m := by
  simp [State.rtr, State.setRtr, tget_tput_ne _ _ _ _ _ h]

@[simp] theorem State.setRtr_pending (s : State) (n : Nat) (v : Router) : (s.setRtr n v).pending = s.pending := rfl

@[simp] theorem State.setRtr_now (s : State) (n : Nat) (v : Router) : (s.setRtr n v).now = s.now := rfl

@[simp] theorem State.setRtr_freeCount (s : State) (n : Nat) (v : Router) : (s.setRtr n v).freeCount = s.freeCount := rfl

@[simp] theorem State.setRtr_readData (s : State) (n : Nat) (v : Router) : (s.setRtr n v).readData = s.readData := rfl

@[simp] theorem State.setRtr_variant (s : State) (n : Nat) (v : Router) : (s.setRtr n v).variant = s.variant := rfl

@[simp] theorem State.setRtr_man (s : State) (n : Nat) (v : Router) : (s.setRtr n v).man = s.man := rfl

@[simp] theorem State.setRtr_flt (s : State) (n : Nat) (v : Router) : (s.setRtr n v).flt = s.flt := rfl

@[simp] theorem State.setRtr_thm (s : State) (n : Nat) (v : Router) : (s.setRtr n v).thm = s.thm := rfl

@[simp] theorem State.setRtr_ckr (s : State) (n : Nat) (v : Router) : (s.setRtr n v).ckr = s.ckr := rfl

@[simp] theorem State.setRtr_mbx (s : State) (n : Nat) (v : Router) : (s.setRtr n v).mbx = s.mbx := rfl

@[simp] theorem State.setRtr_qcu (s : State) (n : Nat) (v : Router) : (s.setRtr n v).qcu = s.qcu := rfl

@[simp] theorem State.setRtr_tdu (s : State) (n : Nat) (v : Router) : (s.setRtr n v).tdu = s.tdu := rfl

@[simp] theorem State.setRtr_axu (s : State) (n : Nat) (v : Router) : (s.setRtr n v).axu = s.axu := rfl

@[simp] theorem State.setRtr_stk (s : State) (n : Nat) (v : Router) : (s.setRtr n v).stk = s.stk := rfl

@[simp] theorem State.setRtr_ptu (s : State) (n : Nat) (v : Router) : (s.setRtr n v).ptu = s.ptu := rfl

@[simp] theorem State.setRtr_vlt (s : State) (n : Nat) (v : Router) : (s.setRtr n v).vlt = s.vlt := rfl

@[simp] theorem State.setRtr_dram (s : State) (n : Nat) (v : Router) : (s.setRtr n v).dram = s.dram := rfl

@[simp] theorem State.setRtr_mxe (s : State) (n : Nat) (v : Router) : (s.setRtr n v).mxe = s.mxe := rfl

@[simp] theorem State.setRtr_eng (s : State) (n : Nat) (v : Router) : (s.setRtr n v).eng = s.eng := rfl

@[simp] theorem State.setRtr_kit (s : State) (n : Nat) (v : Router) : (s.setRtr n v).kit = s.kit := rfl

@[simp] theorem State.setRtr_fab (s : State) (n : Nat) (v : Router) : (s.setRtr n v).fab = s.fab := rfl

@[simp] theorem State.setRtr_dbg (s : State) (n : Nat) (v : Router) : (s.setRtr n v).dbg = s.dbg := rfl

@[simp] theorem State.setRtr_pce (s : State) (n : Nat) (v : Router) : (s.setRtr n v).pce = s.pce := rfl

@[simp] theorem State.setRtr_ser (s : State) (n : Nat) (v : Router) : (s.setRtr n v).ser = s.ser := rfl

@[simp] theorem State.setRtr_speed (s : State) (n : Nat) (v : Router) : (s.setRtr n v).speed = s.speed := rfl

@[simp] theorem State.setRtr_gradeE (s : State) (n : Nat) (v : Router) : (s.setRtr n v).gradeE = s.gradeE := rfl

@[simp] theorem State.setRtr_cfg (s : State) (n : Nat) (v : Router) : (s.setRtr n v).cfg = s.cfg := rfl

@[simp] theorem State.setRtr_ovl (s : State) (n : Nat) (v : Router) : (s.setRtr n v).ovl = s.ovl := rfl

@[simp] theorem State.setRtr_sec (s : State) (n : Nat) (v : Router) : (s.setRtr n v).sec = s.sec := rfl

@[simp] theorem State.req_setReq (s : State) (n : Nat) (v : (Option Req)) : (s.setReq n v).req n = v := by
  simp [State.req, State.setReq]

@[simp] theorem State.req_setReq_ne (s : State) (n m : Nat) (v : (Option Req)) (h : m ≠ n) :
    (s.setReq n v).req m = s.req m := by
  simp [State.req, State.setReq, tget_tput_ne _ _ _ _ _ h]

@[simp] theorem State.setReq_pending (s : State) (n : Nat) (v : (Option Req)) : (s.setReq n v).pending = s.pending := rfl

@[simp] theorem State.setReq_now (s : State) (n : Nat) (v : (Option Req)) : (s.setReq n v).now = s.now := rfl

@[simp] theorem State.setReq_freeCount (s : State) (n : Nat) (v : (Option Req)) : (s.setReq n v).freeCount = s.freeCount := rfl

@[simp] theorem State.setReq_readData (s : State) (n : Nat) (v : (Option Req)) : (s.setReq n v).readData = s.readData := rfl

@[simp] theorem State.setReq_variant (s : State) (n : Nat) (v : (Option Req)) : (s.setReq n v).variant = s.variant := rfl

@[simp] theorem State.setReq_man (s : State) (n : Nat) (v : (Option Req)) : (s.setReq n v).man = s.man := rfl

@[simp] theorem State.setReq_flt (s : State) (n : Nat) (v : (Option Req)) : (s.setReq n v).flt = s.flt := rfl

@[simp] theorem State.setReq_thm (s : State) (n : Nat) (v : (Option Req)) : (s.setReq n v).thm = s.thm := rfl

@[simp] theorem State.setReq_ckr (s : State) (n : Nat) (v : (Option Req)) : (s.setReq n v).ckr = s.ckr := rfl

@[simp] theorem State.setReq_mbx (s : State) (n : Nat) (v : (Option Req)) : (s.setReq n v).mbx = s.mbx := rfl

@[simp] theorem State.setReq_qcu (s : State) (n : Nat) (v : (Option Req)) : (s.setReq n v).qcu = s.qcu := rfl

@[simp] theorem State.setReq_tdu (s : State) (n : Nat) (v : (Option Req)) : (s.setReq n v).tdu = s.tdu := rfl

@[simp] theorem State.setReq_axu (s : State) (n : Nat) (v : (Option Req)) : (s.setReq n v).axu = s.axu := rfl

@[simp] theorem State.setReq_stk (s : State) (n : Nat) (v : (Option Req)) : (s.setReq n v).stk = s.stk := rfl

@[simp] theorem State.setReq_ptu (s : State) (n : Nat) (v : (Option Req)) : (s.setReq n v).ptu = s.ptu := rfl

@[simp] theorem State.setReq_vlt (s : State) (n : Nat) (v : (Option Req)) : (s.setReq n v).vlt = s.vlt := rfl

@[simp] theorem State.setReq_dram (s : State) (n : Nat) (v : (Option Req)) : (s.setReq n v).dram = s.dram := rfl

@[simp] theorem State.setReq_mxe (s : State) (n : Nat) (v : (Option Req)) : (s.setReq n v).mxe = s.mxe := rfl

@[simp] theorem State.setReq_eng (s : State) (n : Nat) (v : (Option Req)) : (s.setReq n v).eng = s.eng := rfl

@[simp] theorem State.setReq_kit (s : State) (n : Nat) (v : (Option Req)) : (s.setReq n v).kit = s.kit := rfl

@[simp] theorem State.setReq_fab (s : State) (n : Nat) (v : (Option Req)) : (s.setReq n v).fab = s.fab := rfl

@[simp] theorem State.setReq_dbg (s : State) (n : Nat) (v : (Option Req)) : (s.setReq n v).dbg = s.dbg := rfl

@[simp] theorem State.setReq_pce (s : State) (n : Nat) (v : (Option Req)) : (s.setReq n v).pce = s.pce := rfl

@[simp] theorem State.setReq_ser (s : State) (n : Nat) (v : (Option Req)) : (s.setReq n v).ser = s.ser := rfl

@[simp] theorem State.setReq_speed (s : State) (n : Nat) (v : (Option Req)) : (s.setReq n v).speed = s.speed := rfl

@[simp] theorem State.setReq_gradeE (s : State) (n : Nat) (v : (Option Req)) : (s.setReq n v).gradeE = s.gradeE := rfl

@[simp] theorem State.setReq_cfg (s : State) (n : Nat) (v : (Option Req)) : (s.setReq n v).cfg = s.cfg := rfl

@[simp] theorem State.setReq_ovl (s : State) (n : Nat) (v : (Option Req)) : (s.setReq n v).ovl = s.ovl := rfl

@[simp] theorem State.setReq_sec (s : State) (n : Nat) (v : (Option Req)) : (s.setReq n v).sec = s.sec := rfl

@[simp] theorem State.con_setCon (s : State) (n : Nat) (v : (Option Contract)) : (s.setCon n v).con n = v := by
  simp [State.con, State.setCon]

@[simp] theorem State.con_setCon_ne (s : State) (n m : Nat) (v : (Option Contract)) (h : m ≠ n) :
    (s.setCon n v).con m = s.con m := by
  simp [State.con, State.setCon, tget_tput_ne _ _ _ _ _ h]

@[simp] theorem State.setCon_pending (s : State) (n : Nat) (v : (Option Contract)) : (s.setCon n v).pending = s.pending := rfl

@[simp] theorem State.setCon_now (s : State) (n : Nat) (v : (Option Contract)) : (s.setCon n v).now = s.now := rfl

@[simp] theorem State.setCon_freeCount (s : State) (n : Nat) (v : (Option Contract)) : (s.setCon n v).freeCount = s.freeCount := rfl

@[simp] theorem State.setCon_readData (s : State) (n : Nat) (v : (Option Contract)) : (s.setCon n v).readData = s.readData := rfl

@[simp] theorem State.setCon_variant (s : State) (n : Nat) (v : (Option Contract)) : (s.setCon n v).variant = s.variant := rfl

@[simp] theorem State.setCon_man (s : State) (n : Nat) (v : (Option Contract)) : (s.setCon n v).man = s.man := rfl

@[simp] theorem State.setCon_flt (s : State) (n : Nat) (v : (Option Contract)) : (s.setCon n v).flt = s.flt := rfl

@[simp] theorem State.setCon_thm (s : State) (n : Nat) (v : (Option Contract)) : (s.setCon n v).thm = s.thm := rfl

@[simp] theorem State.setCon_ckr (s : State) (n : Nat) (v : (Option Contract)) : (s.setCon n v).ckr = s.ckr := rfl

@[simp] theorem State.setCon_mbx (s : State) (n : Nat) (v : (Option Contract)) : (s.setCon n v).mbx = s.mbx := rfl

@[simp] theorem State.setCon_qcu (s : State) (n : Nat) (v : (Option Contract)) : (s.setCon n v).qcu = s.qcu := rfl

@[simp] theorem State.setCon_tdu (s : State) (n : Nat) (v : (Option Contract)) : (s.setCon n v).tdu = s.tdu := rfl

@[simp] theorem State.setCon_axu (s : State) (n : Nat) (v : (Option Contract)) : (s.setCon n v).axu = s.axu := rfl

@[simp] theorem State.setCon_stk (s : State) (n : Nat) (v : (Option Contract)) : (s.setCon n v).stk = s.stk := rfl

@[simp] theorem State.setCon_ptu (s : State) (n : Nat) (v : (Option Contract)) : (s.setCon n v).ptu = s.ptu := rfl

@[simp] theorem State.setCon_vlt (s : State) (n : Nat) (v : (Option Contract)) : (s.setCon n v).vlt = s.vlt := rfl

@[simp] theorem State.setCon_dram (s : State) (n : Nat) (v : (Option Contract)) : (s.setCon n v).dram = s.dram := rfl

@[simp] theorem State.setCon_mxe (s : State) (n : Nat) (v : (Option Contract)) : (s.setCon n v).mxe = s.mxe := rfl

@[simp] theorem State.setCon_eng (s : State) (n : Nat) (v : (Option Contract)) : (s.setCon n v).eng = s.eng := rfl

@[simp] theorem State.setCon_kit (s : State) (n : Nat) (v : (Option Contract)) : (s.setCon n v).kit = s.kit := rfl

@[simp] theorem State.setCon_fab (s : State) (n : Nat) (v : (Option Contract)) : (s.setCon n v).fab = s.fab := rfl

@[simp] theorem State.setCon_dbg (s : State) (n : Nat) (v : (Option Contract)) : (s.setCon n v).dbg = s.dbg := rfl

@[simp] theorem State.setCon_pce (s : State) (n : Nat) (v : (Option Contract)) : (s.setCon n v).pce = s.pce := rfl

@[simp] theorem State.setCon_ser (s : State) (n : Nat) (v : (Option Contract)) : (s.setCon n v).ser = s.ser := rfl

@[simp] theorem State.setCon_speed (s : State) (n : Nat) (v : (Option Contract)) : (s.setCon n v).speed = s.speed := rfl

@[simp] theorem State.setCon_gradeE (s : State) (n : Nat) (v : (Option Contract)) : (s.setCon n v).gradeE = s.gradeE := rfl

@[simp] theorem State.setCon_cfg (s : State) (n : Nat) (v : (Option Contract)) : (s.setCon n v).cfg = s.cfg := rfl

@[simp] theorem State.setCon_ovl (s : State) (n : Nat) (v : (Option Contract)) : (s.setCon n v).ovl = s.ovl := rfl

@[simp] theorem State.setCon_sec (s : State) (n : Nat) (v : (Option Contract)) : (s.setCon n v).sec = s.sec := rfl

@[simp] theorem State.dport_setDport (s : State) (n : Nat) (v : DPort) : (s.setDport n v).dport n = v := by
  simp [State.dport, State.setDport]

@[simp] theorem State.dport_setDport_ne (s : State) (n m : Nat) (v : DPort) (h : m ≠ n) :
    (s.setDport n v).dport m = s.dport m := by
  simp [State.dport, State.setDport, tget_tput_ne _ _ _ _ _ h]

@[simp] theorem State.setDport_pending (s : State) (n : Nat) (v : DPort) : (s.setDport n v).pending = s.pending := rfl

@[simp] theorem State.setDport_now (s : State) (n : Nat) (v : DPort) : (s.setDport n v).now = s.now := rfl

@[simp] theorem State.setDport_freeCount (s : State) (n : Nat) (v : DPort) : (s.setDport n v).freeCount = s.freeCount := rfl

@[simp] theorem State.setDport_readData (s : State) (n : Nat) (v : DPort) : (s.setDport n v).readData = s.readData := rfl

@[simp] theorem State.setDport_variant (s : State) (n : Nat) (v : DPort) : (s.setDport n v).variant = s.variant := rfl

@[simp] theorem State.setDport_man (s : State) (n : Nat) (v : DPort) : (s.setDport n v).man = s.man := rfl

@[simp] theorem State.setDport_flt (s : State) (n : Nat) (v : DPort) : (s.setDport n v).flt = s.flt := rfl

@[simp] theorem State.setDport_thm (s : State) (n : Nat) (v : DPort) : (s.setDport n v).thm = s.thm := rfl

@[simp] theorem State.setDport_ckr (s : State) (n : Nat) (v : DPort) : (s.setDport n v).ckr = s.ckr := rfl

@[simp] theorem State.setDport_mbx (s : State) (n : Nat) (v : DPort) : (s.setDport n v).mbx = s.mbx := rfl

@[simp] theorem State.setDport_qcu (s : State) (n : Nat) (v : DPort) : (s.setDport n v).qcu = s.qcu := rfl

@[simp] theorem State.setDport_tdu (s : State) (n : Nat) (v : DPort) : (s.setDport n v).tdu = s.tdu := rfl

@[simp] theorem State.setDport_axu (s : State) (n : Nat) (v : DPort) : (s.setDport n v).axu = s.axu := rfl

@[simp] theorem State.setDport_stk (s : State) (n : Nat) (v : DPort) : (s.setDport n v).stk = s.stk := rfl

@[simp] theorem State.setDport_ptu (s : State) (n : Nat) (v : DPort) : (s.setDport n v).ptu = s.ptu := rfl

@[simp] theorem State.setDport_noc (s : State) (n : Nat) (v : DPort) : (s.setDport n v).noc = s.noc := rfl

@[simp] theorem State.setDport_vlt (s : State) (n : Nat) (v : DPort) : (s.setDport n v).vlt = s.vlt := rfl

@[simp] theorem State.setDport_mxe (s : State) (n : Nat) (v : DPort) : (s.setDport n v).mxe = s.mxe := rfl

@[simp] theorem State.setDport_eng (s : State) (n : Nat) (v : DPort) : (s.setDport n v).eng = s.eng := rfl

@[simp] theorem State.setDport_kit (s : State) (n : Nat) (v : DPort) : (s.setDport n v).kit = s.kit := rfl

@[simp] theorem State.setDport_fab (s : State) (n : Nat) (v : DPort) : (s.setDport n v).fab = s.fab := rfl

@[simp] theorem State.setDport_dbg (s : State) (n : Nat) (v : DPort) : (s.setDport n v).dbg = s.dbg := rfl

@[simp] theorem State.setDport_pce (s : State) (n : Nat) (v : DPort) : (s.setDport n v).pce = s.pce := rfl

@[simp] theorem State.setDport_ser (s : State) (n : Nat) (v : DPort) : (s.setDport n v).ser = s.ser := rfl

@[simp] theorem State.setDport_speed (s : State) (n : Nat) (v : DPort) : (s.setDport n v).speed = s.speed := rfl

@[simp] theorem State.setDport_gradeE (s : State) (n : Nat) (v : DPort) : (s.setDport n v).gradeE = s.gradeE := rfl

@[simp] theorem State.setDport_cfg (s : State) (n : Nat) (v : DPort) : (s.setDport n v).cfg = s.cfg := rfl

@[simp] theorem State.setDport_ovl (s : State) (n : Nat) (v : DPort) : (s.setDport n v).ovl = s.ovl := rfl

@[simp] theorem State.setDport_sec (s : State) (n : Nat) (v : DPort) : (s.setDport n v).sec = s.sec := rfl

@[simp] theorem State.region_setRegion (s : State) (n : Nat) (v : Region) : (s.setRegion n v).region n = v := by
  simp [State.region, State.setRegion]

@[simp] theorem State.region_setRegion_ne (s : State) (n m : Nat) (v : Region) (h : m ≠ n) :
    (s.setRegion n v).region m = s.region m := by
  simp [State.region, State.setRegion, tget_tput_ne _ _ _ _ _ h]

@[simp] theorem State.setRegion_pending (s : State) (n : Nat) (v : Region) : (s.setRegion n v).pending = s.pending := rfl

@[simp] theorem State.setRegion_now (s : State) (n : Nat) (v : Region) : (s.setRegion n v).now = s.now := rfl

@[simp] theorem State.setRegion_freeCount (s : State) (n : Nat) (v : Region) : (s.setRegion n v).freeCount = s.freeCount := rfl

@[simp] theorem State.setRegion_readData (s : State) (n : Nat) (v : Region) : (s.setRegion n v).readData = s.readData := rfl

@[simp] theorem State.setRegion_variant (s : State) (n : Nat) (v : Region) : (s.setRegion n v).variant = s.variant := rfl

@[simp] theorem State.setRegion_man (s : State) (n : Nat) (v : Region) : (s.setRegion n v).man = s.man := rfl

@[simp] theorem State.setRegion_flt (s : State) (n : Nat) (v : Region) : (s.setRegion n v).flt = s.flt := rfl

@[simp] theorem State.setRegion_thm (s : State) (n : Nat) (v : Region) : (s.setRegion n v).thm = s.thm := rfl

@[simp] theorem State.setRegion_ckr (s : State) (n : Nat) (v : Region) : (s.setRegion n v).ckr = s.ckr := rfl

@[simp] theorem State.setRegion_mbx (s : State) (n : Nat) (v : Region) : (s.setRegion n v).mbx = s.mbx := rfl

@[simp] theorem State.setRegion_qcu (s : State) (n : Nat) (v : Region) : (s.setRegion n v).qcu = s.qcu := rfl

@[simp] theorem State.setRegion_tdu (s : State) (n : Nat) (v : Region) : (s.setRegion n v).tdu = s.tdu := rfl

@[simp] theorem State.setRegion_axu (s : State) (n : Nat) (v : Region) : (s.setRegion n v).axu = s.axu := rfl

@[simp] theorem State.setRegion_stk (s : State) (n : Nat) (v : Region) : (s.setRegion n v).stk = s.stk := rfl

@[simp] theorem State.setRegion_ptu (s : State) (n : Nat) (v : Region) : (s.setRegion n v).ptu = s.ptu := rfl

@[simp] theorem State.setRegion_noc (s : State) (n : Nat) (v : Region) : (s.setRegion n v).noc = s.noc := rfl

@[simp] theorem State.setRegion_vlt (s : State) (n : Nat) (v : Region) : (s.setRegion n v).vlt = s.vlt := rfl

@[simp] theorem State.setRegion_mxe (s : State) (n : Nat) (v : Region) : (s.setRegion n v).mxe = s.mxe := rfl

@[simp] theorem State.setRegion_eng (s : State) (n : Nat) (v : Region) : (s.setRegion n v).eng = s.eng := rfl

@[simp] theorem State.setRegion_kit (s : State) (n : Nat) (v : Region) : (s.setRegion n v).kit = s.kit := rfl

@[simp] theorem State.setRegion_fab (s : State) (n : Nat) (v : Region) : (s.setRegion n v).fab = s.fab := rfl

@[simp] theorem State.setRegion_dbg (s : State) (n : Nat) (v : Region) : (s.setRegion n v).dbg = s.dbg := rfl

@[simp] theorem State.setRegion_pce (s : State) (n : Nat) (v : Region) : (s.setRegion n v).pce = s.pce := rfl

@[simp] theorem State.setRegion_ser (s : State) (n : Nat) (v : Region) : (s.setRegion n v).ser = s.ser := rfl

@[simp] theorem State.setRegion_speed (s : State) (n : Nat) (v : Region) : (s.setRegion n v).speed = s.speed := rfl

@[simp] theorem State.setRegion_gradeE (s : State) (n : Nat) (v : Region) : (s.setRegion n v).gradeE = s.gradeE := rfl

@[simp] theorem State.setRegion_cfg (s : State) (n : Nat) (v : Region) : (s.setRegion n v).cfg = s.cfg := rfl

@[simp] theorem State.setRegion_ovl (s : State) (n : Nat) (v : Region) : (s.setRegion n v).ovl = s.ovl := rfl

@[simp] theorem State.setRegion_sec (s : State) (n : Nat) (v : Region) : (s.setRegion n v).sec = s.sec := rfl

@[simp] theorem State.range_setRange (s : State) (n : Nat) (v : MRange) : (s.setRange n v).range n = v := by
  simp [State.range, State.setRange]

@[simp] theorem State.range_setRange_ne (s : State) (n m : Nat) (v : MRange) (h : m ≠ n) :
    (s.setRange n v).range m = s.range m := by
  simp [State.range, State.setRange, tget_tput_ne _ _ _ _ _ h]

@[simp] theorem State.setRange_pending (s : State) (n : Nat) (v : MRange) : (s.setRange n v).pending = s.pending := rfl

@[simp] theorem State.setRange_now (s : State) (n : Nat) (v : MRange) : (s.setRange n v).now = s.now := rfl

@[simp] theorem State.setRange_freeCount (s : State) (n : Nat) (v : MRange) : (s.setRange n v).freeCount = s.freeCount := rfl

@[simp] theorem State.setRange_readData (s : State) (n : Nat) (v : MRange) : (s.setRange n v).readData = s.readData := rfl

@[simp] theorem State.setRange_variant (s : State) (n : Nat) (v : MRange) : (s.setRange n v).variant = s.variant := rfl

@[simp] theorem State.setRange_man (s : State) (n : Nat) (v : MRange) : (s.setRange n v).man = s.man := rfl

@[simp] theorem State.setRange_flt (s : State) (n : Nat) (v : MRange) : (s.setRange n v).flt = s.flt := rfl

@[simp] theorem State.setRange_thm (s : State) (n : Nat) (v : MRange) : (s.setRange n v).thm = s.thm := rfl

@[simp] theorem State.setRange_ckr (s : State) (n : Nat) (v : MRange) : (s.setRange n v).ckr = s.ckr := rfl

@[simp] theorem State.setRange_mbx (s : State) (n : Nat) (v : MRange) : (s.setRange n v).mbx = s.mbx := rfl

@[simp] theorem State.setRange_qcu (s : State) (n : Nat) (v : MRange) : (s.setRange n v).qcu = s.qcu := rfl

@[simp] theorem State.setRange_tdu (s : State) (n : Nat) (v : MRange) : (s.setRange n v).tdu = s.tdu := rfl

@[simp] theorem State.setRange_axu (s : State) (n : Nat) (v : MRange) : (s.setRange n v).axu = s.axu := rfl

@[simp] theorem State.setRange_stk (s : State) (n : Nat) (v : MRange) : (s.setRange n v).stk = s.stk := rfl

@[simp] theorem State.setRange_ptu (s : State) (n : Nat) (v : MRange) : (s.setRange n v).ptu = s.ptu := rfl

@[simp] theorem State.setRange_noc (s : State) (n : Nat) (v : MRange) : (s.setRange n v).noc = s.noc := rfl

@[simp] theorem State.setRange_vlt (s : State) (n : Nat) (v : MRange) : (s.setRange n v).vlt = s.vlt := rfl

@[simp] theorem State.setRange_dram (s : State) (n : Nat) (v : MRange) : (s.setRange n v).dram = s.dram := rfl

@[simp] theorem State.setRange_eng (s : State) (n : Nat) (v : MRange) : (s.setRange n v).eng = s.eng := rfl

@[simp] theorem State.setRange_kit (s : State) (n : Nat) (v : MRange) : (s.setRange n v).kit = s.kit := rfl

@[simp] theorem State.setRange_fab (s : State) (n : Nat) (v : MRange) : (s.setRange n v).fab = s.fab := rfl

@[simp] theorem State.setRange_dbg (s : State) (n : Nat) (v : MRange) : (s.setRange n v).dbg = s.dbg := rfl

@[simp] theorem State.setRange_pce (s : State) (n : Nat) (v : MRange) : (s.setRange n v).pce = s.pce := rfl

@[simp] theorem State.setRange_ser (s : State) (n : Nat) (v : MRange) : (s.setRange n v).ser = s.ser := rfl

@[simp] theorem State.setRange_speed (s : State) (n : Nat) (v : MRange) : (s.setRange n v).speed = s.speed := rfl

@[simp] theorem State.setRange_gradeE (s : State) (n : Nat) (v : MRange) : (s.setRange n v).gradeE = s.gradeE := rfl

@[simp] theorem State.setRange_cfg (s : State) (n : Nat) (v : MRange) : (s.setRange n v).cfg = s.cfg := rfl

@[simp] theorem State.setRange_ovl (s : State) (n : Nat) (v : MRange) : (s.setRange n v).ovl = s.ovl := rfl

@[simp] theorem State.setRange_sec (s : State) (n : Nat) (v : MRange) : (s.setRange n v).sec = s.sec := rfl

@[simp] theorem State.vpage_setVpage (s : State) (n : Nat) (v : VPage) : (s.setVpage n v).vpage n = v := by
  simp [State.vpage, State.setVpage]

@[simp] theorem State.vpage_setVpage_ne (s : State) (n m : Nat) (v : VPage) (h : m ≠ n) :
    (s.setVpage n v).vpage m = s.vpage m := by
  simp [State.vpage, State.setVpage, tget_tput_ne _ _ _ _ _ h]

@[simp] theorem State.setVpage_pending (s : State) (n : Nat) (v : VPage) : (s.setVpage n v).pending = s.pending := rfl

@[simp] theorem State.setVpage_now (s : State) (n : Nat) (v : VPage) : (s.setVpage n v).now = s.now := rfl

@[simp] theorem State.setVpage_freeCount (s : State) (n : Nat) (v : VPage) : (s.setVpage n v).freeCount = s.freeCount := rfl

@[simp] theorem State.setVpage_readData (s : State) (n : Nat) (v : VPage) : (s.setVpage n v).readData = s.readData := rfl

@[simp] theorem State.setVpage_variant (s : State) (n : Nat) (v : VPage) : (s.setVpage n v).variant = s.variant := rfl

@[simp] theorem State.setVpage_man (s : State) (n : Nat) (v : VPage) : (s.setVpage n v).man = s.man := rfl

@[simp] theorem State.setVpage_flt (s : State) (n : Nat) (v : VPage) : (s.setVpage n v).flt = s.flt := rfl

@[simp] theorem State.setVpage_thm (s : State) (n : Nat) (v : VPage) : (s.setVpage n v).thm = s.thm := rfl

@[simp] theorem State.setVpage_ckr (s : State) (n : Nat) (v : VPage) : (s.setVpage n v).ckr = s.ckr := rfl

@[simp] theorem State.setVpage_mbx (s : State) (n : Nat) (v : VPage) : (s.setVpage n v).mbx = s.mbx := rfl

@[simp] theorem State.setVpage_qcu (s : State) (n : Nat) (v : VPage) : (s.setVpage n v).qcu = s.qcu := rfl

@[simp] theorem State.setVpage_tdu (s : State) (n : Nat) (v : VPage) : (s.setVpage n v).tdu = s.tdu := rfl

@[simp] theorem State.setVpage_axu (s : State) (n : Nat) (v : VPage) : (s.setVpage n v).axu = s.axu := rfl

@[simp] theorem State.setVpage_stk (s : State) (n : Nat) (v : VPage) : (s.setVpage n v).stk = s.stk := rfl

@[simp] theorem State.setVpage_ptu (s : State) (n : Nat) (v : VPage) : (s.setVpage n v).ptu = s.ptu := rfl

@[simp] theorem State.setVpage_noc (s : State) (n : Nat) (v : VPage) : (s.setVpage n v).noc = s.noc := rfl

@[simp] theorem State.setVpage_dram (s : State) (n : Nat) (v : VPage) : (s.setVpage n v).dram = s.dram := rfl

@[simp] theorem State.setVpage_mxe (s : State) (n : Nat) (v : VPage) : (s.setVpage n v).mxe = s.mxe := rfl

@[simp] theorem State.setVpage_eng (s : State) (n : Nat) (v : VPage) : (s.setVpage n v).eng = s.eng := rfl

@[simp] theorem State.setVpage_kit (s : State) (n : Nat) (v : VPage) : (s.setVpage n v).kit = s.kit := rfl

@[simp] theorem State.setVpage_fab (s : State) (n : Nat) (v : VPage) : (s.setVpage n v).fab = s.fab := rfl

@[simp] theorem State.setVpage_dbg (s : State) (n : Nat) (v : VPage) : (s.setVpage n v).dbg = s.dbg := rfl

@[simp] theorem State.setVpage_pce (s : State) (n : Nat) (v : VPage) : (s.setVpage n v).pce = s.pce := rfl

@[simp] theorem State.setVpage_ser (s : State) (n : Nat) (v : VPage) : (s.setVpage n v).ser = s.ser := rfl

@[simp] theorem State.setVpage_speed (s : State) (n : Nat) (v : VPage) : (s.setVpage n v).speed = s.speed := rfl

@[simp] theorem State.setVpage_gradeE (s : State) (n : Nat) (v : VPage) : (s.setVpage n v).gradeE = s.gradeE := rfl

@[simp] theorem State.setVpage_cfg (s : State) (n : Nat) (v : VPage) : (s.setVpage n v).cfg = s.cfg := rfl

@[simp] theorem State.setVpage_ovl (s : State) (n : Nat) (v : VPage) : (s.setVpage n v).ovl = s.ovl := rfl

@[simp] theorem State.setVpage_sec (s : State) (n : Nat) (v : VPage) : (s.setVpage n v).sec = s.sec := rfl

@[simp] theorem State.engAt_setEngAt (s : State) (n : Nat) (v : Eng) : (s.setEngAt n v).engAt n = v := by
  simp [State.engAt, State.setEngAt]

@[simp] theorem State.engAt_setEngAt_ne (s : State) (n m : Nat) (v : Eng) (h : m ≠ n) :
    (s.setEngAt n v).engAt m = s.engAt m := by
  simp [State.engAt, State.setEngAt, tget_tput_ne _ _ _ _ _ h]

@[simp] theorem State.setEngAt_pending (s : State) (n : Nat) (v : Eng) : (s.setEngAt n v).pending = s.pending := rfl

@[simp] theorem State.setEngAt_now (s : State) (n : Nat) (v : Eng) : (s.setEngAt n v).now = s.now := rfl

@[simp] theorem State.setEngAt_freeCount (s : State) (n : Nat) (v : Eng) : (s.setEngAt n v).freeCount = s.freeCount := rfl

@[simp] theorem State.setEngAt_readData (s : State) (n : Nat) (v : Eng) : (s.setEngAt n v).readData = s.readData := rfl

@[simp] theorem State.setEngAt_variant (s : State) (n : Nat) (v : Eng) : (s.setEngAt n v).variant = s.variant := rfl

@[simp] theorem State.setEngAt_man (s : State) (n : Nat) (v : Eng) : (s.setEngAt n v).man = s.man := rfl

@[simp] theorem State.setEngAt_flt (s : State) (n : Nat) (v : Eng) : (s.setEngAt n v).flt = s.flt := rfl

@[simp] theorem State.setEngAt_thm (s : State) (n : Nat) (v : Eng) : (s.setEngAt n v).thm = s.thm := rfl

@[simp] theorem State.setEngAt_ckr (s : State) (n : Nat) (v : Eng) : (s.setEngAt n v).ckr = s.ckr := rfl

@[simp] theorem State.setEngAt_mbx (s : State) (n : Nat) (v : Eng) : (s.setEngAt n v).mbx = s.mbx := rfl

@[simp] theorem State.setEngAt_qcu (s : State) (n : Nat) (v : Eng) : (s.setEngAt n v).qcu = s.qcu := rfl

@[simp] theorem State.setEngAt_tdu (s : State) (n : Nat) (v : Eng) : (s.setEngAt n v).tdu = s.tdu := rfl

@[simp] theorem State.setEngAt_axu (s : State) (n : Nat) (v : Eng) : (s.setEngAt n v).axu = s.axu := rfl

@[simp] theorem State.setEngAt_stk (s : State) (n : Nat) (v : Eng) : (s.setEngAt n v).stk = s.stk := rfl

@[simp] theorem State.setEngAt_ptu (s : State) (n : Nat) (v : Eng) : (s.setEngAt n v).ptu = s.ptu := rfl

@[simp] theorem State.setEngAt_noc (s : State) (n : Nat) (v : Eng) : (s.setEngAt n v).noc = s.noc := rfl

@[simp] theorem State.setEngAt_vlt (s : State) (n : Nat) (v : Eng) : (s.setEngAt n v).vlt = s.vlt := rfl

@[simp] theorem State.setEngAt_dram (s : State) (n : Nat) (v : Eng) : (s.setEngAt n v).dram = s.dram := rfl

@[simp] theorem State.setEngAt_mxe (s : State) (n : Nat) (v : Eng) : (s.setEngAt n v).mxe = s.mxe := rfl

@[simp] theorem State.setEngAt_kit (s : State) (n : Nat) (v : Eng) : (s.setEngAt n v).kit = s.kit := rfl

@[simp] theorem State.setEngAt_fab (s : State) (n : Nat) (v : Eng) : (s.setEngAt n v).fab = s.fab := rfl

@[simp] theorem State.setEngAt_dbg (s : State) (n : Nat) (v : Eng) : (s.setEngAt n v).dbg = s.dbg := rfl

@[simp] theorem State.setEngAt_pce (s : State) (n : Nat) (v : Eng) : (s.setEngAt n v).pce = s.pce := rfl

@[simp] theorem State.setEngAt_ser (s : State) (n : Nat) (v : Eng) : (s.setEngAt n v).ser = s.ser := rfl

@[simp] theorem State.setEngAt_speed (s : State) (n : Nat) (v : Eng) : (s.setEngAt n v).speed = s.speed := rfl

@[simp] theorem State.setEngAt_gradeE (s : State) (n : Nat) (v : Eng) : (s.setEngAt n v).gradeE = s.gradeE := rfl

@[simp] theorem State.setEngAt_cfg (s : State) (n : Nat) (v : Eng) : (s.setEngAt n v).cfg = s.cfg := rfl

@[simp] theorem State.setEngAt_ovl (s : State) (n : Nat) (v : Eng) : (s.setEngAt n v).ovl = s.ovl := rfl

@[simp] theorem State.setEngAt_sec (s : State) (n : Nat) (v : Eng) : (s.setEngAt n v).sec = s.sec := rfl

@[simp] theorem State.kitAt_setKitAt (s : State) (n : Nat) (v : Kit) : (s.setKitAt n v).kitAt n = v := by
  simp [State.kitAt, State.setKitAt]

@[simp] theorem State.kitAt_setKitAt_ne (s : State) (n m : Nat) (v : Kit) (h : m ≠ n) :
    (s.setKitAt n v).kitAt m = s.kitAt m := by
  simp [State.kitAt, State.setKitAt, tget_tput_ne _ _ _ _ _ h]

@[simp] theorem State.setKitAt_pending (s : State) (n : Nat) (v : Kit) : (s.setKitAt n v).pending = s.pending := rfl

@[simp] theorem State.setKitAt_now (s : State) (n : Nat) (v : Kit) : (s.setKitAt n v).now = s.now := rfl

@[simp] theorem State.setKitAt_freeCount (s : State) (n : Nat) (v : Kit) : (s.setKitAt n v).freeCount = s.freeCount := rfl

@[simp] theorem State.setKitAt_readData (s : State) (n : Nat) (v : Kit) : (s.setKitAt n v).readData = s.readData := rfl

@[simp] theorem State.setKitAt_variant (s : State) (n : Nat) (v : Kit) : (s.setKitAt n v).variant = s.variant := rfl

@[simp] theorem State.setKitAt_man (s : State) (n : Nat) (v : Kit) : (s.setKitAt n v).man = s.man := rfl

@[simp] theorem State.setKitAt_flt (s : State) (n : Nat) (v : Kit) : (s.setKitAt n v).flt = s.flt := rfl

@[simp] theorem State.setKitAt_thm (s : State) (n : Nat) (v : Kit) : (s.setKitAt n v).thm = s.thm := rfl

@[simp] theorem State.setKitAt_ckr (s : State) (n : Nat) (v : Kit) : (s.setKitAt n v).ckr = s.ckr := rfl

@[simp] theorem State.setKitAt_mbx (s : State) (n : Nat) (v : Kit) : (s.setKitAt n v).mbx = s.mbx := rfl

@[simp] theorem State.setKitAt_qcu (s : State) (n : Nat) (v : Kit) : (s.setKitAt n v).qcu = s.qcu := rfl

@[simp] theorem State.setKitAt_tdu (s : State) (n : Nat) (v : Kit) : (s.setKitAt n v).tdu = s.tdu := rfl

@[simp] theorem State.setKitAt_axu (s : State) (n : Nat) (v : Kit) : (s.setKitAt n v).axu = s.axu := rfl

@[simp] theorem State.setKitAt_stk (s : State) (n : Nat) (v : Kit) : (s.setKitAt n v).stk = s.stk := rfl

@[simp] theorem State.setKitAt_ptu (s : State) (n : Nat) (v : Kit) : (s.setKitAt n v).ptu = s.ptu := rfl

@[simp] theorem State.setKitAt_noc (s : State) (n : Nat) (v : Kit) : (s.setKitAt n v).noc = s.noc := rfl

@[simp] theorem State.setKitAt_vlt (s : State) (n : Nat) (v : Kit) : (s.setKitAt n v).vlt = s.vlt := rfl

@[simp] theorem State.setKitAt_dram (s : State) (n : Nat) (v : Kit) : (s.setKitAt n v).dram = s.dram := rfl

@[simp] theorem State.setKitAt_mxe (s : State) (n : Nat) (v : Kit) : (s.setKitAt n v).mxe = s.mxe := rfl

@[simp] theorem State.setKitAt_eng (s : State) (n : Nat) (v : Kit) : (s.setKitAt n v).eng = s.eng := rfl

@[simp] theorem State.setKitAt_fab (s : State) (n : Nat) (v : Kit) : (s.setKitAt n v).fab = s.fab := rfl

@[simp] theorem State.setKitAt_dbg (s : State) (n : Nat) (v : Kit) : (s.setKitAt n v).dbg = s.dbg := rfl

@[simp] theorem State.setKitAt_pce (s : State) (n : Nat) (v : Kit) : (s.setKitAt n v).pce = s.pce := rfl

@[simp] theorem State.setKitAt_ser (s : State) (n : Nat) (v : Kit) : (s.setKitAt n v).ser = s.ser := rfl

@[simp] theorem State.setKitAt_speed (s : State) (n : Nat) (v : Kit) : (s.setKitAt n v).speed = s.speed := rfl

@[simp] theorem State.setKitAt_gradeE (s : State) (n : Nat) (v : Kit) : (s.setKitAt n v).gradeE = s.gradeE := rfl

@[simp] theorem State.setKitAt_cfg (s : State) (n : Nat) (v : Kit) : (s.setKitAt n v).cfg = s.cfg := rfl

@[simp] theorem State.setKitAt_ovl (s : State) (n : Nat) (v : Kit) : (s.setKitAt n v).ovl = s.ovl := rfl

@[simp] theorem State.setKitAt_sec (s : State) (n : Nat) (v : Kit) : (s.setKitAt n v).sec = s.sec := rfl

@[simp] theorem State.fpll_setFpll (s : State) (n : Nat) (v : Fpll) : (s.setFpll n v).fpll n = v := by
  simp [State.fpll, State.setFpll]

@[simp] theorem State.fpll_setFpll_ne (s : State) (n m : Nat) (v : Fpll) (h : m ≠ n) :
    (s.setFpll n v).fpll m = s.fpll m := by
  simp [State.fpll, State.setFpll, tget_tput_ne _ _ _ _ _ h]

@[simp] theorem State.setFpll_pending (s : State) (n : Nat) (v : Fpll) : (s.setFpll n v).pending = s.pending := rfl

@[simp] theorem State.setFpll_now (s : State) (n : Nat) (v : Fpll) : (s.setFpll n v).now = s.now := rfl

@[simp] theorem State.setFpll_freeCount (s : State) (n : Nat) (v : Fpll) : (s.setFpll n v).freeCount = s.freeCount := rfl

@[simp] theorem State.setFpll_readData (s : State) (n : Nat) (v : Fpll) : (s.setFpll n v).readData = s.readData := rfl

@[simp] theorem State.setFpll_variant (s : State) (n : Nat) (v : Fpll) : (s.setFpll n v).variant = s.variant := rfl

@[simp] theorem State.setFpll_man (s : State) (n : Nat) (v : Fpll) : (s.setFpll n v).man = s.man := rfl

@[simp] theorem State.setFpll_flt (s : State) (n : Nat) (v : Fpll) : (s.setFpll n v).flt = s.flt := rfl

@[simp] theorem State.setFpll_thm (s : State) (n : Nat) (v : Fpll) : (s.setFpll n v).thm = s.thm := rfl

@[simp] theorem State.setFpll_ckr (s : State) (n : Nat) (v : Fpll) : (s.setFpll n v).ckr = s.ckr := rfl

@[simp] theorem State.setFpll_mbx (s : State) (n : Nat) (v : Fpll) : (s.setFpll n v).mbx = s.mbx := rfl

@[simp] theorem State.setFpll_qcu (s : State) (n : Nat) (v : Fpll) : (s.setFpll n v).qcu = s.qcu := rfl

@[simp] theorem State.setFpll_tdu (s : State) (n : Nat) (v : Fpll) : (s.setFpll n v).tdu = s.tdu := rfl

@[simp] theorem State.setFpll_axu (s : State) (n : Nat) (v : Fpll) : (s.setFpll n v).axu = s.axu := rfl

@[simp] theorem State.setFpll_stk (s : State) (n : Nat) (v : Fpll) : (s.setFpll n v).stk = s.stk := rfl

@[simp] theorem State.setFpll_ptu (s : State) (n : Nat) (v : Fpll) : (s.setFpll n v).ptu = s.ptu := rfl

@[simp] theorem State.setFpll_noc (s : State) (n : Nat) (v : Fpll) : (s.setFpll n v).noc = s.noc := rfl

@[simp] theorem State.setFpll_vlt (s : State) (n : Nat) (v : Fpll) : (s.setFpll n v).vlt = s.vlt := rfl

@[simp] theorem State.setFpll_dram (s : State) (n : Nat) (v : Fpll) : (s.setFpll n v).dram = s.dram := rfl

@[simp] theorem State.setFpll_mxe (s : State) (n : Nat) (v : Fpll) : (s.setFpll n v).mxe = s.mxe := rfl

@[simp] theorem State.setFpll_eng (s : State) (n : Nat) (v : Fpll) : (s.setFpll n v).eng = s.eng := rfl

@[simp] theorem State.setFpll_kit (s : State) (n : Nat) (v : Fpll) : (s.setFpll n v).kit = s.kit := rfl

@[simp] theorem State.setFpll_dbg (s : State) (n : Nat) (v : Fpll) : (s.setFpll n v).dbg = s.dbg := rfl

@[simp] theorem State.setFpll_pce (s : State) (n : Nat) (v : Fpll) : (s.setFpll n v).pce = s.pce := rfl

@[simp] theorem State.setFpll_ser (s : State) (n : Nat) (v : Fpll) : (s.setFpll n v).ser = s.ser := rfl

@[simp] theorem State.setFpll_speed (s : State) (n : Nat) (v : Fpll) : (s.setFpll n v).speed = s.speed := rfl

@[simp] theorem State.setFpll_gradeE (s : State) (n : Nat) (v : Fpll) : (s.setFpll n v).gradeE = s.gradeE := rfl

@[simp] theorem State.setFpll_cfg (s : State) (n : Nat) (v : Fpll) : (s.setFpll n v).cfg = s.cfg := rfl

@[simp] theorem State.setFpll_ovl (s : State) (n : Nat) (v : Fpll) : (s.setFpll n v).ovl = s.ovl := rfl

@[simp] theorem State.setFpll_sec (s : State) (n : Nat) (v : Fpll) : (s.setFpll n v).sec = s.sec := rfl

@[simp] theorem State.sector_setSector (s : State) (n : Nat) (v : Sector) : (s.setSector n v).sector n = v := by
  simp [State.sector, State.setSector]

@[simp] theorem State.sector_setSector_ne (s : State) (n m : Nat) (v : Sector) (h : m ≠ n) :
    (s.setSector n v).sector m = s.sector m := by
  simp [State.sector, State.setSector, tget_tput_ne _ _ _ _ _ h]

@[simp] theorem State.setSector_pending (s : State) (n : Nat) (v : Sector) : (s.setSector n v).pending = s.pending := rfl

@[simp] theorem State.setSector_now (s : State) (n : Nat) (v : Sector) : (s.setSector n v).now = s.now := rfl

@[simp] theorem State.setSector_freeCount (s : State) (n : Nat) (v : Sector) : (s.setSector n v).freeCount = s.freeCount := rfl

@[simp] theorem State.setSector_readData (s : State) (n : Nat) (v : Sector) : (s.setSector n v).readData = s.readData := rfl

@[simp] theorem State.setSector_variant (s : State) (n : Nat) (v : Sector) : (s.setSector n v).variant = s.variant := rfl

@[simp] theorem State.setSector_man (s : State) (n : Nat) (v : Sector) : (s.setSector n v).man = s.man := rfl

@[simp] theorem State.setSector_flt (s : State) (n : Nat) (v : Sector) : (s.setSector n v).flt = s.flt := rfl

@[simp] theorem State.setSector_thm (s : State) (n : Nat) (v : Sector) : (s.setSector n v).thm = s.thm := rfl

@[simp] theorem State.setSector_ckr (s : State) (n : Nat) (v : Sector) : (s.setSector n v).ckr = s.ckr := rfl

@[simp] theorem State.setSector_mbx (s : State) (n : Nat) (v : Sector) : (s.setSector n v).mbx = s.mbx := rfl

@[simp] theorem State.setSector_qcu (s : State) (n : Nat) (v : Sector) : (s.setSector n v).qcu = s.qcu := rfl

@[simp] theorem State.setSector_tdu (s : State) (n : Nat) (v : Sector) : (s.setSector n v).tdu = s.tdu := rfl

@[simp] theorem State.setSector_axu (s : State) (n : Nat) (v : Sector) : (s.setSector n v).axu = s.axu := rfl

@[simp] theorem State.setSector_stk (s : State) (n : Nat) (v : Sector) : (s.setSector n v).stk = s.stk := rfl

@[simp] theorem State.setSector_ptu (s : State) (n : Nat) (v : Sector) : (s.setSector n v).ptu = s.ptu := rfl

@[simp] theorem State.setSector_noc (s : State) (n : Nat) (v : Sector) : (s.setSector n v).noc = s.noc := rfl

@[simp] theorem State.setSector_vlt (s : State) (n : Nat) (v : Sector) : (s.setSector n v).vlt = s.vlt := rfl

@[simp] theorem State.setSector_dram (s : State) (n : Nat) (v : Sector) : (s.setSector n v).dram = s.dram := rfl

@[simp] theorem State.setSector_mxe (s : State) (n : Nat) (v : Sector) : (s.setSector n v).mxe = s.mxe := rfl

@[simp] theorem State.setSector_eng (s : State) (n : Nat) (v : Sector) : (s.setSector n v).eng = s.eng := rfl

@[simp] theorem State.setSector_kit (s : State) (n : Nat) (v : Sector) : (s.setSector n v).kit = s.kit := rfl

@[simp] theorem State.setSector_dbg (s : State) (n : Nat) (v : Sector) : (s.setSector n v).dbg = s.dbg := rfl

@[simp] theorem State.setSector_pce (s : State) (n : Nat) (v : Sector) : (s.setSector n v).pce = s.pce := rfl

@[simp] theorem State.setSector_ser (s : State) (n : Nat) (v : Sector) : (s.setSector n v).ser = s.ser := rfl

@[simp] theorem State.setSector_speed (s : State) (n : Nat) (v : Sector) : (s.setSector n v).speed = s.speed := rfl

@[simp] theorem State.setSector_gradeE (s : State) (n : Nat) (v : Sector) : (s.setSector n v).gradeE = s.gradeE := rfl

@[simp] theorem State.setSector_cfg (s : State) (n : Nat) (v : Sector) : (s.setSector n v).cfg = s.cfg := rfl

@[simp] theorem State.setSector_ovl (s : State) (n : Nat) (v : Sector) : (s.setSector n v).ovl = s.ovl := rfl

@[simp] theorem State.setSector_sec (s : State) (n : Nat) (v : Sector) : (s.setSector n v).sec = s.sec := rfl

@[simp] theorem State.clkSrc_setClkSrc (s : State) (n : Nat) (v : ClkSrc) : (s.setClkSrc n v).clkSrc n = v := by
  simp [State.clkSrc, State.setClkSrc]

@[simp] theorem State.clkSrc_setClkSrc_ne (s : State) (n m : Nat) (v : ClkSrc) (h : m ≠ n) :
    (s.setClkSrc n v).clkSrc m = s.clkSrc m := by
  simp [State.clkSrc, State.setClkSrc, tget_tput_ne _ _ _ _ _ h]

@[simp] theorem State.setClkSrc_pending (s : State) (n : Nat) (v : ClkSrc) : (s.setClkSrc n v).pending = s.pending := rfl

@[simp] theorem State.setClkSrc_now (s : State) (n : Nat) (v : ClkSrc) : (s.setClkSrc n v).now = s.now := rfl

@[simp] theorem State.setClkSrc_freeCount (s : State) (n : Nat) (v : ClkSrc) : (s.setClkSrc n v).freeCount = s.freeCount := rfl

@[simp] theorem State.setClkSrc_readData (s : State) (n : Nat) (v : ClkSrc) : (s.setClkSrc n v).readData = s.readData := rfl

@[simp] theorem State.setClkSrc_variant (s : State) (n : Nat) (v : ClkSrc) : (s.setClkSrc n v).variant = s.variant := rfl

@[simp] theorem State.setClkSrc_man (s : State) (n : Nat) (v : ClkSrc) : (s.setClkSrc n v).man = s.man := rfl

@[simp] theorem State.setClkSrc_flt (s : State) (n : Nat) (v : ClkSrc) : (s.setClkSrc n v).flt = s.flt := rfl

@[simp] theorem State.setClkSrc_thm (s : State) (n : Nat) (v : ClkSrc) : (s.setClkSrc n v).thm = s.thm := rfl

@[simp] theorem State.setClkSrc_mbx (s : State) (n : Nat) (v : ClkSrc) : (s.setClkSrc n v).mbx = s.mbx := rfl

@[simp] theorem State.setClkSrc_qcu (s : State) (n : Nat) (v : ClkSrc) : (s.setClkSrc n v).qcu = s.qcu := rfl

@[simp] theorem State.setClkSrc_tdu (s : State) (n : Nat) (v : ClkSrc) : (s.setClkSrc n v).tdu = s.tdu := rfl

@[simp] theorem State.setClkSrc_axu (s : State) (n : Nat) (v : ClkSrc) : (s.setClkSrc n v).axu = s.axu := rfl

@[simp] theorem State.setClkSrc_stk (s : State) (n : Nat) (v : ClkSrc) : (s.setClkSrc n v).stk = s.stk := rfl

@[simp] theorem State.setClkSrc_ptu (s : State) (n : Nat) (v : ClkSrc) : (s.setClkSrc n v).ptu = s.ptu := rfl

@[simp] theorem State.setClkSrc_noc (s : State) (n : Nat) (v : ClkSrc) : (s.setClkSrc n v).noc = s.noc := rfl

@[simp] theorem State.setClkSrc_vlt (s : State) (n : Nat) (v : ClkSrc) : (s.setClkSrc n v).vlt = s.vlt := rfl

@[simp] theorem State.setClkSrc_dram (s : State) (n : Nat) (v : ClkSrc) : (s.setClkSrc n v).dram = s.dram := rfl

@[simp] theorem State.setClkSrc_mxe (s : State) (n : Nat) (v : ClkSrc) : (s.setClkSrc n v).mxe = s.mxe := rfl

@[simp] theorem State.setClkSrc_eng (s : State) (n : Nat) (v : ClkSrc) : (s.setClkSrc n v).eng = s.eng := rfl

@[simp] theorem State.setClkSrc_kit (s : State) (n : Nat) (v : ClkSrc) : (s.setClkSrc n v).kit = s.kit := rfl

@[simp] theorem State.setClkSrc_fab (s : State) (n : Nat) (v : ClkSrc) : (s.setClkSrc n v).fab = s.fab := rfl

@[simp] theorem State.setClkSrc_dbg (s : State) (n : Nat) (v : ClkSrc) : (s.setClkSrc n v).dbg = s.dbg := rfl

@[simp] theorem State.setClkSrc_pce (s : State) (n : Nat) (v : ClkSrc) : (s.setClkSrc n v).pce = s.pce := rfl

@[simp] theorem State.setClkSrc_ser (s : State) (n : Nat) (v : ClkSrc) : (s.setClkSrc n v).ser = s.ser := rfl

@[simp] theorem State.setClkSrc_speed (s : State) (n : Nat) (v : ClkSrc) : (s.setClkSrc n v).speed = s.speed := rfl

@[simp] theorem State.setClkSrc_gradeE (s : State) (n : Nat) (v : ClkSrc) : (s.setClkSrc n v).gradeE = s.gradeE := rfl

@[simp] theorem State.setClkSrc_cfg (s : State) (n : Nat) (v : ClkSrc) : (s.setClkSrc n v).cfg = s.cfg := rfl

@[simp] theorem State.setClkSrc_ovl (s : State) (n : Nat) (v : ClkSrc) : (s.setClkSrc n v).ovl = s.ovl := rfl

@[simp] theorem State.setClkSrc_sec (s : State) (n : Nat) (v : ClkSrc) : (s.setClkSrc n v).sec = s.sec := rfl

@[simp] theorem State.clkDom_setClkDom (s : State) (n : Nat) (v : ClkDom) : (s.setClkDom n v).clkDom n = v := by
  simp [State.clkDom, State.setClkDom]

@[simp] theorem State.clkDom_setClkDom_ne (s : State) (n m : Nat) (v : ClkDom) (h : m ≠ n) :
    (s.setClkDom n v).clkDom m = s.clkDom m := by
  simp [State.clkDom, State.setClkDom, tget_tput_ne _ _ _ _ _ h]

@[simp] theorem State.setClkDom_pending (s : State) (n : Nat) (v : ClkDom) : (s.setClkDom n v).pending = s.pending := rfl

@[simp] theorem State.setClkDom_now (s : State) (n : Nat) (v : ClkDom) : (s.setClkDom n v).now = s.now := rfl

@[simp] theorem State.setClkDom_freeCount (s : State) (n : Nat) (v : ClkDom) : (s.setClkDom n v).freeCount = s.freeCount := rfl

@[simp] theorem State.setClkDom_readData (s : State) (n : Nat) (v : ClkDom) : (s.setClkDom n v).readData = s.readData := rfl

@[simp] theorem State.setClkDom_variant (s : State) (n : Nat) (v : ClkDom) : (s.setClkDom n v).variant = s.variant := rfl

@[simp] theorem State.setClkDom_man (s : State) (n : Nat) (v : ClkDom) : (s.setClkDom n v).man = s.man := rfl

@[simp] theorem State.setClkDom_flt (s : State) (n : Nat) (v : ClkDom) : (s.setClkDom n v).flt = s.flt := rfl

@[simp] theorem State.setClkDom_thm (s : State) (n : Nat) (v : ClkDom) : (s.setClkDom n v).thm = s.thm := rfl

@[simp] theorem State.setClkDom_mbx (s : State) (n : Nat) (v : ClkDom) : (s.setClkDom n v).mbx = s.mbx := rfl

@[simp] theorem State.setClkDom_qcu (s : State) (n : Nat) (v : ClkDom) : (s.setClkDom n v).qcu = s.qcu := rfl

@[simp] theorem State.setClkDom_tdu (s : State) (n : Nat) (v : ClkDom) : (s.setClkDom n v).tdu = s.tdu := rfl

@[simp] theorem State.setClkDom_axu (s : State) (n : Nat) (v : ClkDom) : (s.setClkDom n v).axu = s.axu := rfl

@[simp] theorem State.setClkDom_stk (s : State) (n : Nat) (v : ClkDom) : (s.setClkDom n v).stk = s.stk := rfl

@[simp] theorem State.setClkDom_ptu (s : State) (n : Nat) (v : ClkDom) : (s.setClkDom n v).ptu = s.ptu := rfl

@[simp] theorem State.setClkDom_noc (s : State) (n : Nat) (v : ClkDom) : (s.setClkDom n v).noc = s.noc := rfl

@[simp] theorem State.setClkDom_vlt (s : State) (n : Nat) (v : ClkDom) : (s.setClkDom n v).vlt = s.vlt := rfl

@[simp] theorem State.setClkDom_dram (s : State) (n : Nat) (v : ClkDom) : (s.setClkDom n v).dram = s.dram := rfl

@[simp] theorem State.setClkDom_mxe (s : State) (n : Nat) (v : ClkDom) : (s.setClkDom n v).mxe = s.mxe := rfl

@[simp] theorem State.setClkDom_eng (s : State) (n : Nat) (v : ClkDom) : (s.setClkDom n v).eng = s.eng := rfl

@[simp] theorem State.setClkDom_kit (s : State) (n : Nat) (v : ClkDom) : (s.setClkDom n v).kit = s.kit := rfl

@[simp] theorem State.setClkDom_fab (s : State) (n : Nat) (v : ClkDom) : (s.setClkDom n v).fab = s.fab := rfl

@[simp] theorem State.setClkDom_dbg (s : State) (n : Nat) (v : ClkDom) : (s.setClkDom n v).dbg = s.dbg := rfl

@[simp] theorem State.setClkDom_pce (s : State) (n : Nat) (v : ClkDom) : (s.setClkDom n v).pce = s.pce := rfl

@[simp] theorem State.setClkDom_ser (s : State) (n : Nat) (v : ClkDom) : (s.setClkDom n v).ser = s.ser := rfl

@[simp] theorem State.setClkDom_speed (s : State) (n : Nat) (v : ClkDom) : (s.setClkDom n v).speed = s.speed := rfl

@[simp] theorem State.setClkDom_gradeE (s : State) (n : Nat) (v : ClkDom) : (s.setClkDom n v).gradeE = s.gradeE := rfl

@[simp] theorem State.setClkDom_cfg (s : State) (n : Nat) (v : ClkDom) : (s.setClkDom n v).cfg = s.cfg := rfl

@[simp] theorem State.setClkDom_ovl (s : State) (n : Nat) (v : ClkDom) : (s.setClkDom n v).ovl = s.ovl := rfl

@[simp] theorem State.setClkDom_sec (s : State) (n : Nat) (v : ClkDom) : (s.setClkDom n v).sec = s.sec := rfl

@[simp] theorem State.gclk_setGclk (s : State) (n : Nat) (v : Gclk) : (s.setGclk n v).gclk n = v := by
  simp [State.gclk, State.setGclk]

@[simp] theorem State.gclk_setGclk_ne (s : State) (n m : Nat) (v : Gclk) (h : m ≠ n) :
    (s.setGclk n v).gclk m = s.gclk m := by
  simp [State.gclk, State.setGclk, tget_tput_ne _ _ _ _ _ h]

@[simp] theorem State.setGclk_pending (s : State) (n : Nat) (v : Gclk) : (s.setGclk n v).pending = s.pending := rfl

@[simp] theorem State.setGclk_now (s : State) (n : Nat) (v : Gclk) : (s.setGclk n v).now = s.now := rfl

@[simp] theorem State.setGclk_freeCount (s : State) (n : Nat) (v : Gclk) : (s.setGclk n v).freeCount = s.freeCount := rfl

@[simp] theorem State.setGclk_readData (s : State) (n : Nat) (v : Gclk) : (s.setGclk n v).readData = s.readData := rfl

@[simp] theorem State.setGclk_variant (s : State) (n : Nat) (v : Gclk) : (s.setGclk n v).variant = s.variant := rfl

@[simp] theorem State.setGclk_man (s : State) (n : Nat) (v : Gclk) : (s.setGclk n v).man = s.man := rfl

@[simp] theorem State.setGclk_flt (s : State) (n : Nat) (v : Gclk) : (s.setGclk n v).flt = s.flt := rfl

@[simp] theorem State.setGclk_thm (s : State) (n : Nat) (v : Gclk) : (s.setGclk n v).thm = s.thm := rfl

@[simp] theorem State.setGclk_mbx (s : State) (n : Nat) (v : Gclk) : (s.setGclk n v).mbx = s.mbx := rfl

@[simp] theorem State.setGclk_qcu (s : State) (n : Nat) (v : Gclk) : (s.setGclk n v).qcu = s.qcu := rfl

@[simp] theorem State.setGclk_tdu (s : State) (n : Nat) (v : Gclk) : (s.setGclk n v).tdu = s.tdu := rfl

@[simp] theorem State.setGclk_axu (s : State) (n : Nat) (v : Gclk) : (s.setGclk n v).axu = s.axu := rfl

@[simp] theorem State.setGclk_stk (s : State) (n : Nat) (v : Gclk) : (s.setGclk n v).stk = s.stk := rfl

@[simp] theorem State.setGclk_ptu (s : State) (n : Nat) (v : Gclk) : (s.setGclk n v).ptu = s.ptu := rfl

@[simp] theorem State.setGclk_noc (s : State) (n : Nat) (v : Gclk) : (s.setGclk n v).noc = s.noc := rfl

@[simp] theorem State.setGclk_vlt (s : State) (n : Nat) (v : Gclk) : (s.setGclk n v).vlt = s.vlt := rfl

@[simp] theorem State.setGclk_dram (s : State) (n : Nat) (v : Gclk) : (s.setGclk n v).dram = s.dram := rfl

@[simp] theorem State.setGclk_mxe (s : State) (n : Nat) (v : Gclk) : (s.setGclk n v).mxe = s.mxe := rfl

@[simp] theorem State.setGclk_eng (s : State) (n : Nat) (v : Gclk) : (s.setGclk n v).eng = s.eng := rfl

@[simp] theorem State.setGclk_kit (s : State) (n : Nat) (v : Gclk) : (s.setGclk n v).kit = s.kit := rfl

@[simp] theorem State.setGclk_fab (s : State) (n : Nat) (v : Gclk) : (s.setGclk n v).fab = s.fab := rfl

@[simp] theorem State.setGclk_dbg (s : State) (n : Nat) (v : Gclk) : (s.setGclk n v).dbg = s.dbg := rfl

@[simp] theorem State.setGclk_pce (s : State) (n : Nat) (v : Gclk) : (s.setGclk n v).pce = s.pce := rfl

@[simp] theorem State.setGclk_ser (s : State) (n : Nat) (v : Gclk) : (s.setGclk n v).ser = s.ser := rfl

@[simp] theorem State.setGclk_speed (s : State) (n : Nat) (v : Gclk) : (s.setGclk n v).speed = s.speed := rfl

@[simp] theorem State.setGclk_gradeE (s : State) (n : Nat) (v : Gclk) : (s.setGclk n v).gradeE = s.gradeE := rfl

@[simp] theorem State.setGclk_cfg (s : State) (n : Nat) (v : Gclk) : (s.setGclk n v).cfg = s.cfg := rfl

@[simp] theorem State.setGclk_ovl (s : State) (n : Nat) (v : Gclk) : (s.setGclk n v).ovl = s.ovl := rfl

@[simp] theorem State.setGclk_sec (s : State) (n : Nat) (v : Gclk) : (s.setGclk n v).sec = s.sec := rfl

@[simp] theorem State.sensor_setSensor (s : State) (n : Nat) (v : Sensor) : (s.setSensor n v).sensor n = v := by
  simp [State.sensor, State.setSensor]

@[simp] theorem State.sensor_setSensor_ne (s : State) (n m : Nat) (v : Sensor) (h : m ≠ n) :
    (s.setSensor n v).sensor m = s.sensor m := by
  simp [State.sensor, State.setSensor, tget_tput_ne _ _ _ _ _ h]

@[simp] theorem State.setSensor_pending (s : State) (n : Nat) (v : Sensor) : (s.setSensor n v).pending = s.pending := rfl

@[simp] theorem State.setSensor_now (s : State) (n : Nat) (v : Sensor) : (s.setSensor n v).now = s.now := rfl

@[simp] theorem State.setSensor_freeCount (s : State) (n : Nat) (v : Sensor) : (s.setSensor n v).freeCount = s.freeCount := rfl

@[simp] theorem State.setSensor_readData (s : State) (n : Nat) (v : Sensor) : (s.setSensor n v).readData = s.readData := rfl

@[simp] theorem State.setSensor_variant (s : State) (n : Nat) (v : Sensor) : (s.setSensor n v).variant = s.variant := rfl

@[simp] theorem State.setSensor_man (s : State) (n : Nat) (v : Sensor) : (s.setSensor n v).man = s.man := rfl

@[simp] theorem State.setSensor_flt (s : State) (n : Nat) (v : Sensor) : (s.setSensor n v).flt = s.flt := rfl

@[simp] theorem State.setSensor_ckr (s : State) (n : Nat) (v : Sensor) : (s.setSensor n v).ckr = s.ckr := rfl

@[simp] theorem State.setSensor_mbx (s : State) (n : Nat) (v : Sensor) : (s.setSensor n v).mbx = s.mbx := rfl

@[simp] theorem State.setSensor_qcu (s : State) (n : Nat) (v : Sensor) : (s.setSensor n v).qcu = s.qcu := rfl

@[simp] theorem State.setSensor_tdu (s : State) (n : Nat) (v : Sensor) : (s.setSensor n v).tdu = s.tdu := rfl

@[simp] theorem State.setSensor_axu (s : State) (n : Nat) (v : Sensor) : (s.setSensor n v).axu = s.axu := rfl

@[simp] theorem State.setSensor_stk (s : State) (n : Nat) (v : Sensor) : (s.setSensor n v).stk = s.stk := rfl

@[simp] theorem State.setSensor_ptu (s : State) (n : Nat) (v : Sensor) : (s.setSensor n v).ptu = s.ptu := rfl

@[simp] theorem State.setSensor_noc (s : State) (n : Nat) (v : Sensor) : (s.setSensor n v).noc = s.noc := rfl

@[simp] theorem State.setSensor_vlt (s : State) (n : Nat) (v : Sensor) : (s.setSensor n v).vlt = s.vlt := rfl

@[simp] theorem State.setSensor_dram (s : State) (n : Nat) (v : Sensor) : (s.setSensor n v).dram = s.dram := rfl

@[simp] theorem State.setSensor_mxe (s : State) (n : Nat) (v : Sensor) : (s.setSensor n v).mxe = s.mxe := rfl

@[simp] theorem State.setSensor_eng (s : State) (n : Nat) (v : Sensor) : (s.setSensor n v).eng = s.eng := rfl

@[simp] theorem State.setSensor_kit (s : State) (n : Nat) (v : Sensor) : (s.setSensor n v).kit = s.kit := rfl

@[simp] theorem State.setSensor_fab (s : State) (n : Nat) (v : Sensor) : (s.setSensor n v).fab = s.fab := rfl

@[simp] theorem State.setSensor_dbg (s : State) (n : Nat) (v : Sensor) : (s.setSensor n v).dbg = s.dbg := rfl

@[simp] theorem State.setSensor_pce (s : State) (n : Nat) (v : Sensor) : (s.setSensor n v).pce = s.pce := rfl

@[simp] theorem State.setSensor_ser (s : State) (n : Nat) (v : Sensor) : (s.setSensor n v).ser = s.ser := rfl

@[simp] theorem State.setSensor_speed (s : State) (n : Nat) (v : Sensor) : (s.setSensor n v).speed = s.speed := rfl

@[simp] theorem State.setSensor_gradeE (s : State) (n : Nat) (v : Sensor) : (s.setSensor n v).gradeE = s.gradeE := rfl

@[simp] theorem State.setSensor_cfg (s : State) (n : Nat) (v : Sensor) : (s.setSensor n v).cfg = s.cfg := rfl

@[simp] theorem State.setSensor_ovl (s : State) (n : Nat) (v : Sensor) : (s.setSensor n v).ovl = s.ovl := rfl

@[simp] theorem State.setSensor_sec (s : State) (n : Nat) (v : Sensor) : (s.setSensor n v).sec = s.sec := rfl

@[simp] theorem State.ownerFlt_setOwnerFlt (s : State) (n : Nat) (v : OwnerFlt) : (s.setOwnerFlt n v).ownerFlt n = v := by
  simp [State.ownerFlt, State.setOwnerFlt]

@[simp] theorem State.ownerFlt_setOwnerFlt_ne (s : State) (n m : Nat) (v : OwnerFlt) (h : m ≠ n) :
    (s.setOwnerFlt n v).ownerFlt m = s.ownerFlt m := by
  simp [State.ownerFlt, State.setOwnerFlt, tget_tput_ne _ _ _ _ _ h]

@[simp] theorem State.setOwnerFlt_pending (s : State) (n : Nat) (v : OwnerFlt) : (s.setOwnerFlt n v).pending = s.pending := rfl

@[simp] theorem State.setOwnerFlt_now (s : State) (n : Nat) (v : OwnerFlt) : (s.setOwnerFlt n v).now = s.now := rfl

@[simp] theorem State.setOwnerFlt_freeCount (s : State) (n : Nat) (v : OwnerFlt) : (s.setOwnerFlt n v).freeCount = s.freeCount := rfl

@[simp] theorem State.setOwnerFlt_readData (s : State) (n : Nat) (v : OwnerFlt) : (s.setOwnerFlt n v).readData = s.readData := rfl

@[simp] theorem State.setOwnerFlt_variant (s : State) (n : Nat) (v : OwnerFlt) : (s.setOwnerFlt n v).variant = s.variant := rfl

@[simp] theorem State.setOwnerFlt_man (s : State) (n : Nat) (v : OwnerFlt) : (s.setOwnerFlt n v).man = s.man := rfl

@[simp] theorem State.setOwnerFlt_thm (s : State) (n : Nat) (v : OwnerFlt) : (s.setOwnerFlt n v).thm = s.thm := rfl

@[simp] theorem State.setOwnerFlt_ckr (s : State) (n : Nat) (v : OwnerFlt) : (s.setOwnerFlt n v).ckr = s.ckr := rfl

@[simp] theorem State.setOwnerFlt_mbx (s : State) (n : Nat) (v : OwnerFlt) : (s.setOwnerFlt n v).mbx = s.mbx := rfl

@[simp] theorem State.setOwnerFlt_qcu (s : State) (n : Nat) (v : OwnerFlt) : (s.setOwnerFlt n v).qcu = s.qcu := rfl

@[simp] theorem State.setOwnerFlt_tdu (s : State) (n : Nat) (v : OwnerFlt) : (s.setOwnerFlt n v).tdu = s.tdu := rfl

@[simp] theorem State.setOwnerFlt_axu (s : State) (n : Nat) (v : OwnerFlt) : (s.setOwnerFlt n v).axu = s.axu := rfl

@[simp] theorem State.setOwnerFlt_stk (s : State) (n : Nat) (v : OwnerFlt) : (s.setOwnerFlt n v).stk = s.stk := rfl

@[simp] theorem State.setOwnerFlt_ptu (s : State) (n : Nat) (v : OwnerFlt) : (s.setOwnerFlt n v).ptu = s.ptu := rfl

@[simp] theorem State.setOwnerFlt_noc (s : State) (n : Nat) (v : OwnerFlt) : (s.setOwnerFlt n v).noc = s.noc := rfl

@[simp] theorem State.setOwnerFlt_vlt (s : State) (n : Nat) (v : OwnerFlt) : (s.setOwnerFlt n v).vlt = s.vlt := rfl

@[simp] theorem State.setOwnerFlt_dram (s : State) (n : Nat) (v : OwnerFlt) : (s.setOwnerFlt n v).dram = s.dram := rfl

@[simp] theorem State.setOwnerFlt_mxe (s : State) (n : Nat) (v : OwnerFlt) : (s.setOwnerFlt n v).mxe = s.mxe := rfl

@[simp] theorem State.setOwnerFlt_eng (s : State) (n : Nat) (v : OwnerFlt) : (s.setOwnerFlt n v).eng = s.eng := rfl

@[simp] theorem State.setOwnerFlt_kit (s : State) (n : Nat) (v : OwnerFlt) : (s.setOwnerFlt n v).kit = s.kit := rfl

@[simp] theorem State.setOwnerFlt_fab (s : State) (n : Nat) (v : OwnerFlt) : (s.setOwnerFlt n v).fab = s.fab := rfl

@[simp] theorem State.setOwnerFlt_dbg (s : State) (n : Nat) (v : OwnerFlt) : (s.setOwnerFlt n v).dbg = s.dbg := rfl

@[simp] theorem State.setOwnerFlt_pce (s : State) (n : Nat) (v : OwnerFlt) : (s.setOwnerFlt n v).pce = s.pce := rfl

@[simp] theorem State.setOwnerFlt_ser (s : State) (n : Nat) (v : OwnerFlt) : (s.setOwnerFlt n v).ser = s.ser := rfl

@[simp] theorem State.setOwnerFlt_speed (s : State) (n : Nat) (v : OwnerFlt) : (s.setOwnerFlt n v).speed = s.speed := rfl

@[simp] theorem State.setOwnerFlt_gradeE (s : State) (n : Nat) (v : OwnerFlt) : (s.setOwnerFlt n v).gradeE = s.gradeE := rfl

@[simp] theorem State.setOwnerFlt_cfg (s : State) (n : Nat) (v : OwnerFlt) : (s.setOwnerFlt n v).cfg = s.cfg := rfl

@[simp] theorem State.setOwnerFlt_ovl (s : State) (n : Nat) (v : OwnerFlt) : (s.setOwnerFlt n v).ovl = s.ovl := rfl

@[simp] theorem State.setOwnerFlt_sec (s : State) (n : Nat) (v : OwnerFlt) : (s.setOwnerFlt n v).sec = s.sec := rfl

@[simp] theorem State.sess_setSess (s : State) (n : Nat) (v : Session) : (s.setSess n v).sess n = v := by
  simp [State.sess, State.setSess]

@[simp] theorem State.sess_setSess_ne (s : State) (n m : Nat) (v : Session) (h : m ≠ n) :
    (s.setSess n v).sess m = s.sess m := by
  simp [State.sess, State.setSess, tget_tput_ne _ _ _ _ _ h]

@[simp] theorem State.setSess_pending (s : State) (n : Nat) (v : Session) : (s.setSess n v).pending = s.pending := rfl

@[simp] theorem State.setSess_now (s : State) (n : Nat) (v : Session) : (s.setSess n v).now = s.now := rfl

@[simp] theorem State.setSess_freeCount (s : State) (n : Nat) (v : Session) : (s.setSess n v).freeCount = s.freeCount := rfl

@[simp] theorem State.setSess_readData (s : State) (n : Nat) (v : Session) : (s.setSess n v).readData = s.readData := rfl

@[simp] theorem State.setSess_variant (s : State) (n : Nat) (v : Session) : (s.setSess n v).variant = s.variant := rfl

@[simp] theorem State.setSess_man (s : State) (n : Nat) (v : Session) : (s.setSess n v).man = s.man := rfl

@[simp] theorem State.setSess_flt (s : State) (n : Nat) (v : Session) : (s.setSess n v).flt = s.flt := rfl

@[simp] theorem State.setSess_thm (s : State) (n : Nat) (v : Session) : (s.setSess n v).thm = s.thm := rfl

@[simp] theorem State.setSess_ckr (s : State) (n : Nat) (v : Session) : (s.setSess n v).ckr = s.ckr := rfl

@[simp] theorem State.setSess_mbx (s : State) (n : Nat) (v : Session) : (s.setSess n v).mbx = s.mbx := rfl

@[simp] theorem State.setSess_qcu (s : State) (n : Nat) (v : Session) : (s.setSess n v).qcu = s.qcu := rfl

@[simp] theorem State.setSess_tdu (s : State) (n : Nat) (v : Session) : (s.setSess n v).tdu = s.tdu := rfl

@[simp] theorem State.setSess_axu (s : State) (n : Nat) (v : Session) : (s.setSess n v).axu = s.axu := rfl

@[simp] theorem State.setSess_stk (s : State) (n : Nat) (v : Session) : (s.setSess n v).stk = s.stk := rfl

@[simp] theorem State.setSess_ptu (s : State) (n : Nat) (v : Session) : (s.setSess n v).ptu = s.ptu := rfl

@[simp] theorem State.setSess_noc (s : State) (n : Nat) (v : Session) : (s.setSess n v).noc = s.noc := rfl

@[simp] theorem State.setSess_vlt (s : State) (n : Nat) (v : Session) : (s.setSess n v).vlt = s.vlt := rfl

@[simp] theorem State.setSess_dram (s : State) (n : Nat) (v : Session) : (s.setSess n v).dram = s.dram := rfl

@[simp] theorem State.setSess_mxe (s : State) (n : Nat) (v : Session) : (s.setSess n v).mxe = s.mxe := rfl

@[simp] theorem State.setSess_eng (s : State) (n : Nat) (v : Session) : (s.setSess n v).eng = s.eng := rfl

@[simp] theorem State.setSess_kit (s : State) (n : Nat) (v : Session) : (s.setSess n v).kit = s.kit := rfl

@[simp] theorem State.setSess_fab (s : State) (n : Nat) (v : Session) : (s.setSess n v).fab = s.fab := rfl

@[simp] theorem State.setSess_pce (s : State) (n : Nat) (v : Session) : (s.setSess n v).pce = s.pce := rfl

@[simp] theorem State.setSess_ser (s : State) (n : Nat) (v : Session) : (s.setSess n v).ser = s.ser := rfl

@[simp] theorem State.setSess_speed (s : State) (n : Nat) (v : Session) : (s.setSess n v).speed = s.speed := rfl

@[simp] theorem State.setSess_gradeE (s : State) (n : Nat) (v : Session) : (s.setSess n v).gradeE = s.gradeE := rfl

@[simp] theorem State.setSess_cfg (s : State) (n : Nat) (v : Session) : (s.setSess n v).cfg = s.cfg := rfl

@[simp] theorem State.setSess_ovl (s : State) (n : Nat) (v : Session) : (s.setSess n v).ovl = s.ovl := rfl

@[simp] theorem State.setSess_sec (s : State) (n : Nat) (v : Session) : (s.setSess n v).sec = s.sec := rfl

@[simp] theorem State.lane_setLane (s : State) (n : Nat) (v : Lane) : (s.setLane n v).lane n = v := by
  simp [State.lane, State.setLane]

@[simp] theorem State.lane_setLane_ne (s : State) (n m : Nat) (v : Lane) (h : m ≠ n) :
    (s.setLane n v).lane m = s.lane m := by
  simp [State.lane, State.setLane, tget_tput_ne _ _ _ _ _ h]

@[simp] theorem State.setLane_pending (s : State) (n : Nat) (v : Lane) : (s.setLane n v).pending = s.pending := rfl

@[simp] theorem State.setLane_now (s : State) (n : Nat) (v : Lane) : (s.setLane n v).now = s.now := rfl

@[simp] theorem State.setLane_freeCount (s : State) (n : Nat) (v : Lane) : (s.setLane n v).freeCount = s.freeCount := rfl

@[simp] theorem State.setLane_readData (s : State) (n : Nat) (v : Lane) : (s.setLane n v).readData = s.readData := rfl

@[simp] theorem State.setLane_variant (s : State) (n : Nat) (v : Lane) : (s.setLane n v).variant = s.variant := rfl

@[simp] theorem State.setLane_man (s : State) (n : Nat) (v : Lane) : (s.setLane n v).man = s.man := rfl

@[simp] theorem State.setLane_flt (s : State) (n : Nat) (v : Lane) : (s.setLane n v).flt = s.flt := rfl

@[simp] theorem State.setLane_thm (s : State) (n : Nat) (v : Lane) : (s.setLane n v).thm = s.thm := rfl

@[simp] theorem State.setLane_ckr (s : State) (n : Nat) (v : Lane) : (s.setLane n v).ckr = s.ckr := rfl

@[simp] theorem State.setLane_mbx (s : State) (n : Nat) (v : Lane) : (s.setLane n v).mbx = s.mbx := rfl

@[simp] theorem State.setLane_qcu (s : State) (n : Nat) (v : Lane) : (s.setLane n v).qcu = s.qcu := rfl

@[simp] theorem State.setLane_tdu (s : State) (n : Nat) (v : Lane) : (s.setLane n v).tdu = s.tdu := rfl

@[simp] theorem State.setLane_axu (s : State) (n : Nat) (v : Lane) : (s.setLane n v).axu = s.axu := rfl

@[simp] theorem State.setLane_stk (s : State) (n : Nat) (v : Lane) : (s.setLane n v).stk = s.stk := rfl

@[simp] theorem State.setLane_ptu (s : State) (n : Nat) (v : Lane) : (s.setLane n v).ptu = s.ptu := rfl

@[simp] theorem State.setLane_noc (s : State) (n : Nat) (v : Lane) : (s.setLane n v).noc = s.noc := rfl

@[simp] theorem State.setLane_vlt (s : State) (n : Nat) (v : Lane) : (s.setLane n v).vlt = s.vlt := rfl

@[simp] theorem State.setLane_dram (s : State) (n : Nat) (v : Lane) : (s.setLane n v).dram = s.dram := rfl

@[simp] theorem State.setLane_mxe (s : State) (n : Nat) (v : Lane) : (s.setLane n v).mxe = s.mxe := rfl

@[simp] theorem State.setLane_eng (s : State) (n : Nat) (v : Lane) : (s.setLane n v).eng = s.eng := rfl

@[simp] theorem State.setLane_kit (s : State) (n : Nat) (v : Lane) : (s.setLane n v).kit = s.kit := rfl

@[simp] theorem State.setLane_fab (s : State) (n : Nat) (v : Lane) : (s.setLane n v).fab = s.fab := rfl

@[simp] theorem State.setLane_dbg (s : State) (n : Nat) (v : Lane) : (s.setLane n v).dbg = s.dbg := rfl

@[simp] theorem State.setLane_pce (s : State) (n : Nat) (v : Lane) : (s.setLane n v).pce = s.pce := rfl

@[simp] theorem State.setLane_speed (s : State) (n : Nat) (v : Lane) : (s.setLane n v).speed = s.speed := rfl

@[simp] theorem State.setLane_gradeE (s : State) (n : Nat) (v : Lane) : (s.setLane n v).gradeE = s.gradeE := rfl

@[simp] theorem State.setLane_cfg (s : State) (n : Nat) (v : Lane) : (s.setLane n v).cfg = s.cfg := rfl

@[simp] theorem State.setLane_ovl (s : State) (n : Nat) (v : Lane) : (s.setLane n v).ovl = s.ovl := rfl

@[simp] theorem State.setLane_sec (s : State) (n : Nat) (v : Lane) : (s.setLane n v).sec = s.sec := rfl

@[simp] theorem State.laneGroup_setLaneGroup (s : State) (n : Nat) (v : LaneGroup) : (s.setLaneGroup n v).laneGroup n = v := by
  simp [State.laneGroup, State.setLaneGroup]

@[simp] theorem State.laneGroup_setLaneGroup_ne (s : State) (n m : Nat) (v : LaneGroup) (h : m ≠ n) :
    (s.setLaneGroup n v).laneGroup m = s.laneGroup m := by
  simp [State.laneGroup, State.setLaneGroup, tget_tput_ne _ _ _ _ _ h]

@[simp] theorem State.setLaneGroup_pending (s : State) (n : Nat) (v : LaneGroup) : (s.setLaneGroup n v).pending = s.pending := rfl

@[simp] theorem State.setLaneGroup_now (s : State) (n : Nat) (v : LaneGroup) : (s.setLaneGroup n v).now = s.now := rfl

@[simp] theorem State.setLaneGroup_freeCount (s : State) (n : Nat) (v : LaneGroup) : (s.setLaneGroup n v).freeCount = s.freeCount := rfl

@[simp] theorem State.setLaneGroup_readData (s : State) (n : Nat) (v : LaneGroup) : (s.setLaneGroup n v).readData = s.readData := rfl

@[simp] theorem State.setLaneGroup_variant (s : State) (n : Nat) (v : LaneGroup) : (s.setLaneGroup n v).variant = s.variant := rfl

@[simp] theorem State.setLaneGroup_man (s : State) (n : Nat) (v : LaneGroup) : (s.setLaneGroup n v).man = s.man := rfl

@[simp] theorem State.setLaneGroup_flt (s : State) (n : Nat) (v : LaneGroup) : (s.setLaneGroup n v).flt = s.flt := rfl

@[simp] theorem State.setLaneGroup_thm (s : State) (n : Nat) (v : LaneGroup) : (s.setLaneGroup n v).thm = s.thm := rfl

@[simp] theorem State.setLaneGroup_ckr (s : State) (n : Nat) (v : LaneGroup) : (s.setLaneGroup n v).ckr = s.ckr := rfl

@[simp] theorem State.setLaneGroup_mbx (s : State) (n : Nat) (v : LaneGroup) : (s.setLaneGroup n v).mbx = s.mbx := rfl

@[simp] theorem State.setLaneGroup_qcu (s : State) (n : Nat) (v : LaneGroup) : (s.setLaneGroup n v).qcu = s.qcu := rfl

@[simp] theorem State.setLaneGroup_tdu (s : State) (n : Nat) (v : LaneGroup) : (s.setLaneGroup n v).tdu = s.tdu := rfl

@[simp] theorem State.setLaneGroup_axu (s : State) (n : Nat) (v : LaneGroup) : (s.setLaneGroup n v).axu = s.axu := rfl

@[simp] theorem State.setLaneGroup_stk (s : State) (n : Nat) (v : LaneGroup) : (s.setLaneGroup n v).stk = s.stk := rfl

@[simp] theorem State.setLaneGroup_ptu (s : State) (n : Nat) (v : LaneGroup) : (s.setLaneGroup n v).ptu = s.ptu := rfl

@[simp] theorem State.setLaneGroup_noc (s : State) (n : Nat) (v : LaneGroup) : (s.setLaneGroup n v).noc = s.noc := rfl

@[simp] theorem State.setLaneGroup_vlt (s : State) (n : Nat) (v : LaneGroup) : (s.setLaneGroup n v).vlt = s.vlt := rfl

@[simp] theorem State.setLaneGroup_dram (s : State) (n : Nat) (v : LaneGroup) : (s.setLaneGroup n v).dram = s.dram := rfl

@[simp] theorem State.setLaneGroup_mxe (s : State) (n : Nat) (v : LaneGroup) : (s.setLaneGroup n v).mxe = s.mxe := rfl

@[simp] theorem State.setLaneGroup_eng (s : State) (n : Nat) (v : LaneGroup) : (s.setLaneGroup n v).eng = s.eng := rfl

@[simp] theorem State.setLaneGroup_kit (s : State) (n : Nat) (v : LaneGroup) : (s.setLaneGroup n v).kit = s.kit := rfl

@[simp] theorem State.setLaneGroup_fab (s : State) (n : Nat) (v : LaneGroup) : (s.setLaneGroup n v).fab = s.fab := rfl

@[simp] theorem State.setLaneGroup_dbg (s : State) (n : Nat) (v : LaneGroup) : (s.setLaneGroup n v).dbg = s.dbg := rfl

@[simp] theorem State.setLaneGroup_pce (s : State) (n : Nat) (v : LaneGroup) : (s.setLaneGroup n v).pce = s.pce := rfl

@[simp] theorem State.setLaneGroup_speed (s : State) (n : Nat) (v : LaneGroup) : (s.setLaneGroup n v).speed = s.speed := rfl

@[simp] theorem State.setLaneGroup_gradeE (s : State) (n : Nat) (v : LaneGroup) : (s.setLaneGroup n v).gradeE = s.gradeE := rfl

@[simp] theorem State.setLaneGroup_cfg (s : State) (n : Nat) (v : LaneGroup) : (s.setLaneGroup n v).cfg = s.cfg := rfl

@[simp] theorem State.setLaneGroup_ovl (s : State) (n : Nat) (v : LaneGroup) : (s.setLaneGroup n v).ovl = s.ovl := rfl

@[simp] theorem State.setLaneGroup_sec (s : State) (n : Nat) (v : LaneGroup) : (s.setLaneGroup n v).sec = s.sec := rfl

@[simp] theorem State.jesd_setJesd (s : State) (n : Nat) (v : Jesd) : (s.setJesd n v).jesd n = v := by
  simp [State.jesd, State.setJesd]

@[simp] theorem State.jesd_setJesd_ne (s : State) (n m : Nat) (v : Jesd) (h : m ≠ n) :
    (s.setJesd n v).jesd m = s.jesd m := by
  simp [State.jesd, State.setJesd, tget_tput_ne _ _ _ _ _ h]

@[simp] theorem State.setJesd_pending (s : State) (n : Nat) (v : Jesd) : (s.setJesd n v).pending = s.pending := rfl

@[simp] theorem State.setJesd_now (s : State) (n : Nat) (v : Jesd) : (s.setJesd n v).now = s.now := rfl

@[simp] theorem State.setJesd_freeCount (s : State) (n : Nat) (v : Jesd) : (s.setJesd n v).freeCount = s.freeCount := rfl

@[simp] theorem State.setJesd_readData (s : State) (n : Nat) (v : Jesd) : (s.setJesd n v).readData = s.readData := rfl

@[simp] theorem State.setJesd_variant (s : State) (n : Nat) (v : Jesd) : (s.setJesd n v).variant = s.variant := rfl

@[simp] theorem State.setJesd_man (s : State) (n : Nat) (v : Jesd) : (s.setJesd n v).man = s.man := rfl

@[simp] theorem State.setJesd_flt (s : State) (n : Nat) (v : Jesd) : (s.setJesd n v).flt = s.flt := rfl

@[simp] theorem State.setJesd_thm (s : State) (n : Nat) (v : Jesd) : (s.setJesd n v).thm = s.thm := rfl

@[simp] theorem State.setJesd_ckr (s : State) (n : Nat) (v : Jesd) : (s.setJesd n v).ckr = s.ckr := rfl

@[simp] theorem State.setJesd_mbx (s : State) (n : Nat) (v : Jesd) : (s.setJesd n v).mbx = s.mbx := rfl

@[simp] theorem State.setJesd_qcu (s : State) (n : Nat) (v : Jesd) : (s.setJesd n v).qcu = s.qcu := rfl

@[simp] theorem State.setJesd_tdu (s : State) (n : Nat) (v : Jesd) : (s.setJesd n v).tdu = s.tdu := rfl

@[simp] theorem State.setJesd_axu (s : State) (n : Nat) (v : Jesd) : (s.setJesd n v).axu = s.axu := rfl

@[simp] theorem State.setJesd_stk (s : State) (n : Nat) (v : Jesd) : (s.setJesd n v).stk = s.stk := rfl

@[simp] theorem State.setJesd_ptu (s : State) (n : Nat) (v : Jesd) : (s.setJesd n v).ptu = s.ptu := rfl

@[simp] theorem State.setJesd_noc (s : State) (n : Nat) (v : Jesd) : (s.setJesd n v).noc = s.noc := rfl

@[simp] theorem State.setJesd_vlt (s : State) (n : Nat) (v : Jesd) : (s.setJesd n v).vlt = s.vlt := rfl

@[simp] theorem State.setJesd_dram (s : State) (n : Nat) (v : Jesd) : (s.setJesd n v).dram = s.dram := rfl

@[simp] theorem State.setJesd_mxe (s : State) (n : Nat) (v : Jesd) : (s.setJesd n v).mxe = s.mxe := rfl

@[simp] theorem State.setJesd_eng (s : State) (n : Nat) (v : Jesd) : (s.setJesd n v).eng = s.eng := rfl

@[simp] theorem State.setJesd_kit (s : State) (n : Nat) (v : Jesd) : (s.setJesd n v).kit = s.kit := rfl

@[simp] theorem State.setJesd_fab (s : State) (n : Nat) (v : Jesd) : (s.setJesd n v).fab = s.fab := rfl

@[simp] theorem State.setJesd_dbg (s : State) (n : Nat) (v : Jesd) : (s.setJesd n v).dbg = s.dbg := rfl

@[simp] theorem State.setJesd_pce (s : State) (n : Nat) (v : Jesd) : (s.setJesd n v).pce = s.pce := rfl

@[simp] theorem State.setJesd_speed (s : State) (n : Nat) (v : Jesd) : (s.setJesd n v).speed = s.speed := rfl

@[simp] theorem State.setJesd_gradeE (s : State) (n : Nat) (v : Jesd) : (s.setJesd n v).gradeE = s.gradeE := rfl

@[simp] theorem State.setJesd_cfg (s : State) (n : Nat) (v : Jesd) : (s.setJesd n v).cfg = s.cfg := rfl

@[simp] theorem State.setJesd_ovl (s : State) (n : Nat) (v : Jesd) : (s.setJesd n v).ovl = s.ovl := rfl

@[simp] theorem State.setJesd_sec (s : State) (n : Nat) (v : Jesd) : (s.setJesd n v).sec = s.sec := rfl

@[simp] theorem State.mac_setMac (s : State) (n : Nat) (v : Mac) : (s.setMac n v).mac n = v := by
  simp [State.mac, State.setMac]

@[simp] theorem State.mac_setMac_ne (s : State) (n m : Nat) (v : Mac) (h : m ≠ n) :
    (s.setMac n v).mac m = s.mac m := by
  simp [State.mac, State.setMac, tget_tput_ne _ _ _ _ _ h]

@[simp] theorem State.setMac_pending (s : State) (n : Nat) (v : Mac) : (s.setMac n v).pending = s.pending := rfl

@[simp] theorem State.setMac_now (s : State) (n : Nat) (v : Mac) : (s.setMac n v).now = s.now := rfl

@[simp] theorem State.setMac_freeCount (s : State) (n : Nat) (v : Mac) : (s.setMac n v).freeCount = s.freeCount := rfl

@[simp] theorem State.setMac_readData (s : State) (n : Nat) (v : Mac) : (s.setMac n v).readData = s.readData := rfl

@[simp] theorem State.setMac_variant (s : State) (n : Nat) (v : Mac) : (s.setMac n v).variant = s.variant := rfl

@[simp] theorem State.setMac_man (s : State) (n : Nat) (v : Mac) : (s.setMac n v).man = s.man := rfl

@[simp] theorem State.setMac_flt (s : State) (n : Nat) (v : Mac) : (s.setMac n v).flt = s.flt := rfl

@[simp] theorem State.setMac_thm (s : State) (n : Nat) (v : Mac) : (s.setMac n v).thm = s.thm := rfl

@[simp] theorem State.setMac_ckr (s : State) (n : Nat) (v : Mac) : (s.setMac n v).ckr = s.ckr := rfl

@[simp] theorem State.setMac_mbx (s : State) (n : Nat) (v : Mac) : (s.setMac n v).mbx = s.mbx := rfl

@[simp] theorem State.setMac_qcu (s : State) (n : Nat) (v : Mac) : (s.setMac n v).qcu = s.qcu := rfl

@[simp] theorem State.setMac_tdu (s : State) (n : Nat) (v : Mac) : (s.setMac n v).tdu = s.tdu := rfl

@[simp] theorem State.setMac_axu (s : State) (n : Nat) (v : Mac) : (s.setMac n v).axu = s.axu := rfl

@[simp] theorem State.setMac_stk (s : State) (n : Nat) (v : Mac) : (s.setMac n v).stk = s.stk := rfl

@[simp] theorem State.setMac_ptu (s : State) (n : Nat) (v : Mac) : (s.setMac n v).ptu = s.ptu := rfl

@[simp] theorem State.setMac_noc (s : State) (n : Nat) (v : Mac) : (s.setMac n v).noc = s.noc := rfl

@[simp] theorem State.setMac_vlt (s : State) (n : Nat) (v : Mac) : (s.setMac n v).vlt = s.vlt := rfl

@[simp] theorem State.setMac_dram (s : State) (n : Nat) (v : Mac) : (s.setMac n v).dram = s.dram := rfl

@[simp] theorem State.setMac_mxe (s : State) (n : Nat) (v : Mac) : (s.setMac n v).mxe = s.mxe := rfl

@[simp] theorem State.setMac_eng (s : State) (n : Nat) (v : Mac) : (s.setMac n v).eng = s.eng := rfl

@[simp] theorem State.setMac_kit (s : State) (n : Nat) (v : Mac) : (s.setMac n v).kit = s.kit := rfl

@[simp] theorem State.setMac_fab (s : State) (n : Nat) (v : Mac) : (s.setMac n v).fab = s.fab := rfl

@[simp] theorem State.setMac_dbg (s : State) (n : Nat) (v : Mac) : (s.setMac n v).dbg = s.dbg := rfl

@[simp] theorem State.setMac_pce (s : State) (n : Nat) (v : Mac) : (s.setMac n v).pce = s.pce := rfl

@[simp] theorem State.setMac_speed (s : State) (n : Nat) (v : Mac) : (s.setMac n v).speed = s.speed := rfl

@[simp] theorem State.setMac_gradeE (s : State) (n : Nat) (v : Mac) : (s.setMac n v).gradeE = s.gradeE := rfl

@[simp] theorem State.setMac_cfg (s : State) (n : Nat) (v : Mac) : (s.setMac n v).cfg = s.cfg := rfl

@[simp] theorem State.setMac_ovl (s : State) (n : Nat) (v : Mac) : (s.setMac n v).ovl = s.ovl := rfl

@[simp] theorem State.setMac_sec (s : State) (n : Nat) (v : Mac) : (s.setMac n v).sec = s.sec := rfl

@[simp] theorem State.ring_setRing (s : State) (n : Nat) (v : RingPort) : (s.setRing n v).ring n = v := by
  simp [State.ring, State.setRing]

@[simp] theorem State.ring_setRing_ne (s : State) (n m : Nat) (v : RingPort) (h : m ≠ n) :
    (s.setRing n v).ring m = s.ring m := by
  simp [State.ring, State.setRing, tget_tput_ne _ _ _ _ _ h]

@[simp] theorem State.setRing_pending (s : State) (n : Nat) (v : RingPort) : (s.setRing n v).pending = s.pending := rfl

@[simp] theorem State.setRing_now (s : State) (n : Nat) (v : RingPort) : (s.setRing n v).now = s.now := rfl

@[simp] theorem State.setRing_freeCount (s : State) (n : Nat) (v : RingPort) : (s.setRing n v).freeCount = s.freeCount := rfl

@[simp] theorem State.setRing_readData (s : State) (n : Nat) (v : RingPort) : (s.setRing n v).readData = s.readData := rfl

@[simp] theorem State.setRing_variant (s : State) (n : Nat) (v : RingPort) : (s.setRing n v).variant = s.variant := rfl

@[simp] theorem State.setRing_man (s : State) (n : Nat) (v : RingPort) : (s.setRing n v).man = s.man := rfl

@[simp] theorem State.setRing_flt (s : State) (n : Nat) (v : RingPort) : (s.setRing n v).flt = s.flt := rfl

@[simp] theorem State.setRing_thm (s : State) (n : Nat) (v : RingPort) : (s.setRing n v).thm = s.thm := rfl

@[simp] theorem State.setRing_ckr (s : State) (n : Nat) (v : RingPort) : (s.setRing n v).ckr = s.ckr := rfl

@[simp] theorem State.setRing_mbx (s : State) (n : Nat) (v : RingPort) : (s.setRing n v).mbx = s.mbx := rfl

@[simp] theorem State.setRing_qcu (s : State) (n : Nat) (v : RingPort) : (s.setRing n v).qcu = s.qcu := rfl

@[simp] theorem State.setRing_tdu (s : State) (n : Nat) (v : RingPort) : (s.setRing n v).tdu = s.tdu := rfl

@[simp] theorem State.setRing_axu (s : State) (n : Nat) (v : RingPort) : (s.setRing n v).axu = s.axu := rfl

@[simp] theorem State.setRing_stk (s : State) (n : Nat) (v : RingPort) : (s.setRing n v).stk = s.stk := rfl

@[simp] theorem State.setRing_ptu (s : State) (n : Nat) (v : RingPort) : (s.setRing n v).ptu = s.ptu := rfl

@[simp] theorem State.setRing_noc (s : State) (n : Nat) (v : RingPort) : (s.setRing n v).noc = s.noc := rfl

@[simp] theorem State.setRing_vlt (s : State) (n : Nat) (v : RingPort) : (s.setRing n v).vlt = s.vlt := rfl

@[simp] theorem State.setRing_dram (s : State) (n : Nat) (v : RingPort) : (s.setRing n v).dram = s.dram := rfl

@[simp] theorem State.setRing_mxe (s : State) (n : Nat) (v : RingPort) : (s.setRing n v).mxe = s.mxe := rfl

@[simp] theorem State.setRing_eng (s : State) (n : Nat) (v : RingPort) : (s.setRing n v).eng = s.eng := rfl

@[simp] theorem State.setRing_kit (s : State) (n : Nat) (v : RingPort) : (s.setRing n v).kit = s.kit := rfl

@[simp] theorem State.setRing_fab (s : State) (n : Nat) (v : RingPort) : (s.setRing n v).fab = s.fab := rfl

@[simp] theorem State.setRing_dbg (s : State) (n : Nat) (v : RingPort) : (s.setRing n v).dbg = s.dbg := rfl

@[simp] theorem State.setRing_pce (s : State) (n : Nat) (v : RingPort) : (s.setRing n v).pce = s.pce := rfl

@[simp] theorem State.setRing_speed (s : State) (n : Nat) (v : RingPort) : (s.setRing n v).speed = s.speed := rfl

@[simp] theorem State.setRing_gradeE (s : State) (n : Nat) (v : RingPort) : (s.setRing n v).gradeE = s.gradeE := rfl

@[simp] theorem State.setRing_cfg (s : State) (n : Nat) (v : RingPort) : (s.setRing n v).cfg = s.cfg := rfl

@[simp] theorem State.setRing_ovl (s : State) (n : Nat) (v : RingPort) : (s.setRing n v).ovl = s.ovl := rfl

@[simp] theorem State.setRing_sec (s : State) (n : Nat) (v : RingPort) : (s.setRing n v).sec = s.sec := rfl

@[simp] theorem State.outWin_setOutWin (s : State) (n : Nat) (v : OutWin) : (s.setOutWin n v).outWin n = v := by
  simp [State.outWin, State.setOutWin]

@[simp] theorem State.outWin_setOutWin_ne (s : State) (n m : Nat) (v : OutWin) (h : m ≠ n) :
    (s.setOutWin n v).outWin m = s.outWin m := by
  simp [State.outWin, State.setOutWin, tget_tput_ne _ _ _ _ _ h]

@[simp] theorem State.setOutWin_pending (s : State) (n : Nat) (v : OutWin) : (s.setOutWin n v).pending = s.pending := rfl

@[simp] theorem State.setOutWin_now (s : State) (n : Nat) (v : OutWin) : (s.setOutWin n v).now = s.now := rfl

@[simp] theorem State.setOutWin_freeCount (s : State) (n : Nat) (v : OutWin) : (s.setOutWin n v).freeCount = s.freeCount := rfl

@[simp] theorem State.setOutWin_readData (s : State) (n : Nat) (v : OutWin) : (s.setOutWin n v).readData = s.readData := rfl

@[simp] theorem State.setOutWin_variant (s : State) (n : Nat) (v : OutWin) : (s.setOutWin n v).variant = s.variant := rfl

@[simp] theorem State.setOutWin_man (s : State) (n : Nat) (v : OutWin) : (s.setOutWin n v).man = s.man := rfl

@[simp] theorem State.setOutWin_flt (s : State) (n : Nat) (v : OutWin) : (s.setOutWin n v).flt = s.flt := rfl

@[simp] theorem State.setOutWin_thm (s : State) (n : Nat) (v : OutWin) : (s.setOutWin n v).thm = s.thm := rfl

@[simp] theorem State.setOutWin_ckr (s : State) (n : Nat) (v : OutWin) : (s.setOutWin n v).ckr = s.ckr := rfl

@[simp] theorem State.setOutWin_mbx (s : State) (n : Nat) (v : OutWin) : (s.setOutWin n v).mbx = s.mbx := rfl

@[simp] theorem State.setOutWin_qcu (s : State) (n : Nat) (v : OutWin) : (s.setOutWin n v).qcu = s.qcu := rfl

@[simp] theorem State.setOutWin_tdu (s : State) (n : Nat) (v : OutWin) : (s.setOutWin n v).tdu = s.tdu := rfl

@[simp] theorem State.setOutWin_axu (s : State) (n : Nat) (v : OutWin) : (s.setOutWin n v).axu = s.axu := rfl

@[simp] theorem State.setOutWin_stk (s : State) (n : Nat) (v : OutWin) : (s.setOutWin n v).stk = s.stk := rfl

@[simp] theorem State.setOutWin_ptu (s : State) (n : Nat) (v : OutWin) : (s.setOutWin n v).ptu = s.ptu := rfl

@[simp] theorem State.setOutWin_noc (s : State) (n : Nat) (v : OutWin) : (s.setOutWin n v).noc = s.noc := rfl

@[simp] theorem State.setOutWin_vlt (s : State) (n : Nat) (v : OutWin) : (s.setOutWin n v).vlt = s.vlt := rfl

@[simp] theorem State.setOutWin_dram (s : State) (n : Nat) (v : OutWin) : (s.setOutWin n v).dram = s.dram := rfl

@[simp] theorem State.setOutWin_mxe (s : State) (n : Nat) (v : OutWin) : (s.setOutWin n v).mxe = s.mxe := rfl

@[simp] theorem State.setOutWin_eng (s : State) (n : Nat) (v : OutWin) : (s.setOutWin n v).eng = s.eng := rfl

@[simp] theorem State.setOutWin_kit (s : State) (n : Nat) (v : OutWin) : (s.setOutWin n v).kit = s.kit := rfl

@[simp] theorem State.setOutWin_fab (s : State) (n : Nat) (v : OutWin) : (s.setOutWin n v).fab = s.fab := rfl

@[simp] theorem State.setOutWin_dbg (s : State) (n : Nat) (v : OutWin) : (s.setOutWin n v).dbg = s.dbg := rfl

@[simp] theorem State.setOutWin_ser (s : State) (n : Nat) (v : OutWin) : (s.setOutWin n v).ser = s.ser := rfl

@[simp] theorem State.setOutWin_speed (s : State) (n : Nat) (v : OutWin) : (s.setOutWin n v).speed = s.speed := rfl

@[simp] theorem State.setOutWin_gradeE (s : State) (n : Nat) (v : OutWin) : (s.setOutWin n v).gradeE = s.gradeE := rfl

@[simp] theorem State.setOutWin_cfg (s : State) (n : Nat) (v : OutWin) : (s.setOutWin n v).cfg = s.cfg := rfl

@[simp] theorem State.setOutWin_ovl (s : State) (n : Nat) (v : OutWin) : (s.setOutWin n v).ovl = s.ovl := rfl

@[simp] theorem State.setOutWin_sec (s : State) (n : Nat) (v : OutWin) : (s.setOutWin n v).sec = s.sec := rfl

@[simp] theorem State.frame_setFrame (s : State) (n : Nat) (v : Frame) : (s.setFrame n v).frame n = v := by
  simp [State.frame, State.setFrame]

@[simp] theorem State.frame_setFrame_ne (s : State) (n m : Nat) (v : Frame) (h : m ≠ n) :
    (s.setFrame n v).frame m = s.frame m := by
  simp [State.frame, State.setFrame, tget_tput_ne _ _ _ _ _ h]

@[simp] theorem State.setFrame_pending (s : State) (n : Nat) (v : Frame) : (s.setFrame n v).pending = s.pending := rfl

@[simp] theorem State.setFrame_now (s : State) (n : Nat) (v : Frame) : (s.setFrame n v).now = s.now := rfl

@[simp] theorem State.setFrame_freeCount (s : State) (n : Nat) (v : Frame) : (s.setFrame n v).freeCount = s.freeCount := rfl

@[simp] theorem State.setFrame_readData (s : State) (n : Nat) (v : Frame) : (s.setFrame n v).readData = s.readData := rfl

@[simp] theorem State.setFrame_variant (s : State) (n : Nat) (v : Frame) : (s.setFrame n v).variant = s.variant := rfl

@[simp] theorem State.setFrame_man (s : State) (n : Nat) (v : Frame) : (s.setFrame n v).man = s.man := rfl

@[simp] theorem State.setFrame_flt (s : State) (n : Nat) (v : Frame) : (s.setFrame n v).flt = s.flt := rfl

@[simp] theorem State.setFrame_thm (s : State) (n : Nat) (v : Frame) : (s.setFrame n v).thm = s.thm := rfl

@[simp] theorem State.setFrame_ckr (s : State) (n : Nat) (v : Frame) : (s.setFrame n v).ckr = s.ckr := rfl

@[simp] theorem State.setFrame_mbx (s : State) (n : Nat) (v : Frame) : (s.setFrame n v).mbx = s.mbx := rfl

@[simp] theorem State.setFrame_qcu (s : State) (n : Nat) (v : Frame) : (s.setFrame n v).qcu = s.qcu := rfl

@[simp] theorem State.setFrame_tdu (s : State) (n : Nat) (v : Frame) : (s.setFrame n v).tdu = s.tdu := rfl

@[simp] theorem State.setFrame_axu (s : State) (n : Nat) (v : Frame) : (s.setFrame n v).axu = s.axu := rfl

@[simp] theorem State.setFrame_stk (s : State) (n : Nat) (v : Frame) : (s.setFrame n v).stk = s.stk := rfl

@[simp] theorem State.setFrame_ptu (s : State) (n : Nat) (v : Frame) : (s.setFrame n v).ptu = s.ptu := rfl

@[simp] theorem State.setFrame_noc (s : State) (n : Nat) (v : Frame) : (s.setFrame n v).noc = s.noc := rfl

@[simp] theorem State.setFrame_vlt (s : State) (n : Nat) (v : Frame) : (s.setFrame n v).vlt = s.vlt := rfl

@[simp] theorem State.setFrame_dram (s : State) (n : Nat) (v : Frame) : (s.setFrame n v).dram = s.dram := rfl

@[simp] theorem State.setFrame_mxe (s : State) (n : Nat) (v : Frame) : (s.setFrame n v).mxe = s.mxe := rfl

@[simp] theorem State.setFrame_eng (s : State) (n : Nat) (v : Frame) : (s.setFrame n v).eng = s.eng := rfl

@[simp] theorem State.setFrame_kit (s : State) (n : Nat) (v : Frame) : (s.setFrame n v).kit = s.kit := rfl

@[simp] theorem State.setFrame_fab (s : State) (n : Nat) (v : Frame) : (s.setFrame n v).fab = s.fab := rfl

@[simp] theorem State.setFrame_dbg (s : State) (n : Nat) (v : Frame) : (s.setFrame n v).dbg = s.dbg := rfl

@[simp] theorem State.setFrame_pce (s : State) (n : Nat) (v : Frame) : (s.setFrame n v).pce = s.pce := rfl

@[simp] theorem State.setFrame_ser (s : State) (n : Nat) (v : Frame) : (s.setFrame n v).ser = s.ser := rfl

@[simp] theorem State.setFrame_speed (s : State) (n : Nat) (v : Frame) : (s.setFrame n v).speed = s.speed := rfl

@[simp] theorem State.setFrame_gradeE (s : State) (n : Nat) (v : Frame) : (s.setFrame n v).gradeE = s.gradeE := rfl

@[simp] theorem State.setFrame_ovl (s : State) (n : Nat) (v : Frame) : (s.setFrame n v).ovl = s.ovl := rfl

@[simp] theorem State.setFrame_sec (s : State) (n : Nat) (v : Frame) : (s.setFrame n v).sec = s.sec := rfl

@[simp] theorem State.ovlRegion_setOvlRegion (s : State) (n : Nat) (v : OvlRegion) : (s.setOvlRegion n v).ovlRegion n = v := by
  simp [State.ovlRegion, State.setOvlRegion]

@[simp] theorem State.ovlRegion_setOvlRegion_ne (s : State) (n m : Nat) (v : OvlRegion) (h : m ≠ n) :
    (s.setOvlRegion n v).ovlRegion m = s.ovlRegion m := by
  simp [State.ovlRegion, State.setOvlRegion, tget_tput_ne _ _ _ _ _ h]

@[simp] theorem State.setOvlRegion_pending (s : State) (n : Nat) (v : OvlRegion) : (s.setOvlRegion n v).pending = s.pending := rfl

@[simp] theorem State.setOvlRegion_now (s : State) (n : Nat) (v : OvlRegion) : (s.setOvlRegion n v).now = s.now := rfl

@[simp] theorem State.setOvlRegion_freeCount (s : State) (n : Nat) (v : OvlRegion) : (s.setOvlRegion n v).freeCount = s.freeCount := rfl

@[simp] theorem State.setOvlRegion_readData (s : State) (n : Nat) (v : OvlRegion) : (s.setOvlRegion n v).readData = s.readData := rfl

@[simp] theorem State.setOvlRegion_variant (s : State) (n : Nat) (v : OvlRegion) : (s.setOvlRegion n v).variant = s.variant := rfl

@[simp] theorem State.setOvlRegion_man (s : State) (n : Nat) (v : OvlRegion) : (s.setOvlRegion n v).man = s.man := rfl

@[simp] theorem State.setOvlRegion_flt (s : State) (n : Nat) (v : OvlRegion) : (s.setOvlRegion n v).flt = s.flt := rfl

@[simp] theorem State.setOvlRegion_thm (s : State) (n : Nat) (v : OvlRegion) : (s.setOvlRegion n v).thm = s.thm := rfl

@[simp] theorem State.setOvlRegion_ckr (s : State) (n : Nat) (v : OvlRegion) : (s.setOvlRegion n v).ckr = s.ckr := rfl

@[simp] theorem State.setOvlRegion_mbx (s : State) (n : Nat) (v : OvlRegion) : (s.setOvlRegion n v).mbx = s.mbx := rfl

@[simp] theorem State.setOvlRegion_qcu (s : State) (n : Nat) (v : OvlRegion) : (s.setOvlRegion n v).qcu = s.qcu := rfl

@[simp] theorem State.setOvlRegion_tdu (s : State) (n : Nat) (v : OvlRegion) : (s.setOvlRegion n v).tdu = s.tdu := rfl

@[simp] theorem State.setOvlRegion_axu (s : State) (n : Nat) (v : OvlRegion) : (s.setOvlRegion n v).axu = s.axu := rfl

@[simp] theorem State.setOvlRegion_stk (s : State) (n : Nat) (v : OvlRegion) : (s.setOvlRegion n v).stk = s.stk := rfl

@[simp] theorem State.setOvlRegion_ptu (s : State) (n : Nat) (v : OvlRegion) : (s.setOvlRegion n v).ptu = s.ptu := rfl

@[simp] theorem State.setOvlRegion_noc (s : State) (n : Nat) (v : OvlRegion) : (s.setOvlRegion n v).noc = s.noc := rfl

@[simp] theorem State.setOvlRegion_vlt (s : State) (n : Nat) (v : OvlRegion) : (s.setOvlRegion n v).vlt = s.vlt := rfl

@[simp] theorem State.setOvlRegion_dram (s : State) (n : Nat) (v : OvlRegion) : (s.setOvlRegion n v).dram = s.dram := rfl

@[simp] theorem State.setOvlRegion_mxe (s : State) (n : Nat) (v : OvlRegion) : (s.setOvlRegion n v).mxe = s.mxe := rfl

@[simp] theorem State.setOvlRegion_eng (s : State) (n : Nat) (v : OvlRegion) : (s.setOvlRegion n v).eng = s.eng := rfl

@[simp] theorem State.setOvlRegion_kit (s : State) (n : Nat) (v : OvlRegion) : (s.setOvlRegion n v).kit = s.kit := rfl

@[simp] theorem State.setOvlRegion_fab (s : State) (n : Nat) (v : OvlRegion) : (s.setOvlRegion n v).fab = s.fab := rfl

@[simp] theorem State.setOvlRegion_dbg (s : State) (n : Nat) (v : OvlRegion) : (s.setOvlRegion n v).dbg = s.dbg := rfl

@[simp] theorem State.setOvlRegion_pce (s : State) (n : Nat) (v : OvlRegion) : (s.setOvlRegion n v).pce = s.pce := rfl

@[simp] theorem State.setOvlRegion_ser (s : State) (n : Nat) (v : OvlRegion) : (s.setOvlRegion n v).ser = s.ser := rfl

@[simp] theorem State.setOvlRegion_speed (s : State) (n : Nat) (v : OvlRegion) : (s.setOvlRegion n v).speed = s.speed := rfl

@[simp] theorem State.setOvlRegion_gradeE (s : State) (n : Nat) (v : OvlRegion) : (s.setOvlRegion n v).gradeE = s.gradeE := rfl

@[simp] theorem State.setOvlRegion_cfg (s : State) (n : Nat) (v : OvlRegion) : (s.setOvlRegion n v).cfg = s.cfg := rfl

@[simp] theorem State.setOvlRegion_sec (s : State) (n : Nat) (v : OvlRegion) : (s.setOvlRegion n v).sec = s.sec := rfl

@[simp] theorem State.bport_setBport (s : State) (n : Nat) (v : BPort) : (s.setBport n v).bport n = v := by
  simp [State.bport, State.setBport]

@[simp] theorem State.bport_setBport_ne (s : State) (n m : Nat) (v : BPort) (h : m ≠ n) :
    (s.setBport n v).bport m = s.bport m := by
  simp [State.bport, State.setBport, tget_tput_ne _ _ _ _ _ h]

@[simp] theorem State.setBport_pending (s : State) (n : Nat) (v : BPort) : (s.setBport n v).pending = s.pending := rfl

@[simp] theorem State.setBport_now (s : State) (n : Nat) (v : BPort) : (s.setBport n v).now = s.now := rfl

@[simp] theorem State.setBport_freeCount (s : State) (n : Nat) (v : BPort) : (s.setBport n v).freeCount = s.freeCount := rfl

@[simp] theorem State.setBport_readData (s : State) (n : Nat) (v : BPort) : (s.setBport n v).readData = s.readData := rfl

@[simp] theorem State.setBport_variant (s : State) (n : Nat) (v : BPort) : (s.setBport n v).variant = s.variant := rfl

@[simp] theorem State.setBport_man (s : State) (n : Nat) (v : BPort) : (s.setBport n v).man = s.man := rfl

@[simp] theorem State.setBport_flt (s : State) (n : Nat) (v : BPort) : (s.setBport n v).flt = s.flt := rfl

@[simp] theorem State.setBport_thm (s : State) (n : Nat) (v : BPort) : (s.setBport n v).thm = s.thm := rfl

@[simp] theorem State.setBport_ckr (s : State) (n : Nat) (v : BPort) : (s.setBport n v).ckr = s.ckr := rfl

@[simp] theorem State.setBport_mbx (s : State) (n : Nat) (v : BPort) : (s.setBport n v).mbx = s.mbx := rfl

@[simp] theorem State.setBport_qcu (s : State) (n : Nat) (v : BPort) : (s.setBport n v).qcu = s.qcu := rfl

@[simp] theorem State.setBport_tdu (s : State) (n : Nat) (v : BPort) : (s.setBport n v).tdu = s.tdu := rfl

@[simp] theorem State.setBport_axu (s : State) (n : Nat) (v : BPort) : (s.setBport n v).axu = s.axu := rfl

@[simp] theorem State.setBport_stk (s : State) (n : Nat) (v : BPort) : (s.setBport n v).stk = s.stk := rfl

@[simp] theorem State.setBport_ptu (s : State) (n : Nat) (v : BPort) : (s.setBport n v).ptu = s.ptu := rfl

@[simp] theorem State.setBport_noc (s : State) (n : Nat) (v : BPort) : (s.setBport n v).noc = s.noc := rfl

@[simp] theorem State.setBport_vlt (s : State) (n : Nat) (v : BPort) : (s.setBport n v).vlt = s.vlt := rfl

@[simp] theorem State.setBport_dram (s : State) (n : Nat) (v : BPort) : (s.setBport n v).dram = s.dram := rfl

@[simp] theorem State.setBport_mxe (s : State) (n : Nat) (v : BPort) : (s.setBport n v).mxe = s.mxe := rfl

@[simp] theorem State.setBport_eng (s : State) (n : Nat) (v : BPort) : (s.setBport n v).eng = s.eng := rfl

@[simp] theorem State.setBport_kit (s : State) (n : Nat) (v : BPort) : (s.setBport n v).kit = s.kit := rfl

@[simp] theorem State.setBport_dbg (s : State) (n : Nat) (v : BPort) : (s.setBport n v).dbg = s.dbg := rfl

@[simp] theorem State.setBport_pce (s : State) (n : Nat) (v : BPort) : (s.setBport n v).pce = s.pce := rfl

@[simp] theorem State.setBport_ser (s : State) (n : Nat) (v : BPort) : (s.setBport n v).ser = s.ser := rfl

@[simp] theorem State.setBport_speed (s : State) (n : Nat) (v : BPort) : (s.setBport n v).speed = s.speed := rfl

@[simp] theorem State.setBport_gradeE (s : State) (n : Nat) (v : BPort) : (s.setBport n v).gradeE = s.gradeE := rfl

@[simp] theorem State.setBport_cfg (s : State) (n : Nat) (v : BPort) : (s.setBport n v).cfg = s.cfg := rfl

@[simp] theorem State.setBport_ovl (s : State) (n : Nat) (v : BPort) : (s.setBport n v).ovl = s.ovl := rfl

@[simp] theorem State.setBport_sec (s : State) (n : Nat) (v : BPort) : (s.setBport n v).sec = s.sec := rfl

@[simp] theorem State.sliceAt_setSliceAt (s : State) (n : Nat) (v : Slice) : (s.setSliceAt n v).sliceAt n = v := by
  simp [State.sliceAt, State.setSliceAt]

@[simp] theorem State.sliceAt_setSliceAt_ne (s : State) (n m : Nat) (v : Slice) (h : m ≠ n) :
    (s.setSliceAt n v).sliceAt m = s.sliceAt m := by
  simp [State.sliceAt, State.setSliceAt, tget_tput_ne _ _ _ _ _ h]

@[simp] theorem State.setSliceAt_pending (s : State) (n : Nat) (v : Slice) : (s.setSliceAt n v).pending = s.pending := rfl

@[simp] theorem State.setSliceAt_now (s : State) (n : Nat) (v : Slice) : (s.setSliceAt n v).now = s.now := rfl

@[simp] theorem State.setSliceAt_freeCount (s : State) (n : Nat) (v : Slice) : (s.setSliceAt n v).freeCount = s.freeCount := rfl

@[simp] theorem State.setSliceAt_readData (s : State) (n : Nat) (v : Slice) : (s.setSliceAt n v).readData = s.readData := rfl

@[simp] theorem State.setSliceAt_variant (s : State) (n : Nat) (v : Slice) : (s.setSliceAt n v).variant = s.variant := rfl

@[simp] theorem State.setSliceAt_man (s : State) (n : Nat) (v : Slice) : (s.setSliceAt n v).man = s.man := rfl

@[simp] theorem State.setSliceAt_flt (s : State) (n : Nat) (v : Slice) : (s.setSliceAt n v).flt = s.flt := rfl

@[simp] theorem State.setSliceAt_thm (s : State) (n : Nat) (v : Slice) : (s.setSliceAt n v).thm = s.thm := rfl

@[simp] theorem State.setSliceAt_ckr (s : State) (n : Nat) (v : Slice) : (s.setSliceAt n v).ckr = s.ckr := rfl

@[simp] theorem State.setSliceAt_mbx (s : State) (n : Nat) (v : Slice) : (s.setSliceAt n v).mbx = s.mbx := rfl

@[simp] theorem State.setSliceAt_qcu (s : State) (n : Nat) (v : Slice) : (s.setSliceAt n v).qcu = s.qcu := rfl

@[simp] theorem State.setSliceAt_tdu (s : State) (n : Nat) (v : Slice) : (s.setSliceAt n v).tdu = s.tdu := rfl

@[simp] theorem State.setSliceAt_axu (s : State) (n : Nat) (v : Slice) : (s.setSliceAt n v).axu = s.axu := rfl

@[simp] theorem State.setSliceAt_stk (s : State) (n : Nat) (v : Slice) : (s.setSliceAt n v).stk = s.stk := rfl

@[simp] theorem State.setSliceAt_ptu (s : State) (n : Nat) (v : Slice) : (s.setSliceAt n v).ptu = s.ptu := rfl

@[simp] theorem State.setSliceAt_noc (s : State) (n : Nat) (v : Slice) : (s.setSliceAt n v).noc = s.noc := rfl

@[simp] theorem State.setSliceAt_vlt (s : State) (n : Nat) (v : Slice) : (s.setSliceAt n v).vlt = s.vlt := rfl

@[simp] theorem State.setSliceAt_dram (s : State) (n : Nat) (v : Slice) : (s.setSliceAt n v).dram = s.dram := rfl

@[simp] theorem State.setSliceAt_mxe (s : State) (n : Nat) (v : Slice) : (s.setSliceAt n v).mxe = s.mxe := rfl

@[simp] theorem State.setSliceAt_eng (s : State) (n : Nat) (v : Slice) : (s.setSliceAt n v).eng = s.eng := rfl

@[simp] theorem State.setSliceAt_kit (s : State) (n : Nat) (v : Slice) : (s.setSliceAt n v).kit = s.kit := rfl

@[simp] theorem State.setSliceAt_dbg (s : State) (n : Nat) (v : Slice) : (s.setSliceAt n v).dbg = s.dbg := rfl

@[simp] theorem State.setSliceAt_pce (s : State) (n : Nat) (v : Slice) : (s.setSliceAt n v).pce = s.pce := rfl

@[simp] theorem State.setSliceAt_ser (s : State) (n : Nat) (v : Slice) : (s.setSliceAt n v).ser = s.ser := rfl

@[simp] theorem State.setSliceAt_speed (s : State) (n : Nat) (v : Slice) : (s.setSliceAt n v).speed = s.speed := rfl

@[simp] theorem State.setSliceAt_gradeE (s : State) (n : Nat) (v : Slice) : (s.setSliceAt n v).gradeE = s.gradeE := rfl

@[simp] theorem State.setSliceAt_cfg (s : State) (n : Nat) (v : Slice) : (s.setSliceAt n v).cfg = s.cfg := rfl

@[simp] theorem State.setSliceAt_ovl (s : State) (n : Nat) (v : Slice) : (s.setSliceAt n v).ovl = s.ovl := rfl

@[simp] theorem State.setSliceAt_sec (s : State) (n : Nat) (v : Slice) : (s.setSliceAt n v).sec = s.sec := rfl

end Sys2Proof.Machine
end

