-- ==== Sys2Proof/Laws/Engine.lean ====
section
/-!
SUPPORT. Laws/Engine.lean: what a plain engine instruction comes to: `engRun` hands over to the effect, `engRetire` only retires.
-/
namespace Sys2Proof.Machine

theorem State.setEngAt_eng (s : State) (n : Nat) (v : Eng) : { s.setEngAt n v with eng := s.eng } = s := rfl

theorem EngDbg.ctlAt_bit0 (b : EngDbg) (h : ∀ k ∈ b.ctl.toList, k.getLsbD 0 = false) (c : Nat) : bitOf (b.ctlAt c) 0 = false := by
  have hk : b.ctl[c % 8] ∈ b.ctl.toList := by simp
  have := h _ hk
  simp only [BitVec.getLsbD, Nat.testBit_zero, decide_eq_false_iff_not] at this
  simp only [EngDbg.ctlAt, bitOf, bitsOf, Nat.pow_zero, Nat.div_one, Nat.pow_one, decide_eq_false_iff_not]
  omega

/-- Without an enabled comparator none fires. -/
theorem Eng.fired_none (e : Eng) (h : ∀ k ∈ e.dbg.ctl.toList, k.getLsbD 0 = false) (accs : List Acc) (p : Nat → Bool) :
    e.fired accs p = [] := by
  have (n c : Nat) : e.fires accs n c = false := by
    cases n with
    | zero => rfl
    | succ n => simp [Eng.fires, Eng.ownMatch, EngDbg.ctlAt_bit0 _ h]
  simp [Eng.fired, this]

/-- A plain instruction runs its effect on the state as it stands. -/
theorem State.engRun_plain (s : State) (g : EngineId) (op : EOp) (f : Eng → State → State) (h : s.plain g op = true) :
    s.engRun g op f = f (s.engAt g) s := by
  simp only [State.plain, Bool.and_eq_true, decide_eq_true_eq, Bool.not_eq_true', List.all_eq_true] at h
  obtain ⟨⟨⟨⟨⟨h1, h2⟩, h3⟩, h4⟩, h5⟩, h6⟩ := h
  unfold State.engRun
  simp only [h1, h2, not_true_eq_false, ne_eq, or_self, if_false, h3, h4, Bool.false_eq_true]
  generalize tget (s.engAt g).marks CellState.clean (s.engAt g).pc.toNat = m at h5
  rw [Eng.fired_none _ h6]
  cases m <;> simp_all

/-- Without an enabled comparator, retiring an instruction is all that its end does. -/
theorem State.engRetire_plain (s : State) (g : Nat) (e0 : Eng) (r : Ret) (h : ∀ k ∈ e0.dbg.ctl.toList, k.getLsbD 0 = false) :
    s.engRetire g e0 r = s.modEngAt g fun e => (e0.retire e r).charge (s.engLag g) := by
  have : (e0.dbg.ctl.toList.all fun k => !k.getLsbD 0) = true :=
    List.all_eq_true.2 fun k hk => by rw [h k hk]; rfl
  simp only [State.engRetire, this, if_true, State.engFire]

theorem State.plain_dbg (s : State) (g : EngineId) (op : EOp) (h : s.plain g op = true) :
    ∀ k ∈ (s.engAt g).dbg.ctl.toList, k.getLsbD 0 = false := by
  simp only [State.plain, Bool.and_eq_true, List.all_eq_true] at h
  intro k hk
  have := h.2 k hk
  cases hb : k.getLsbD 0 <;> simp_all

/-- The cycles that the watchdog has not counted yet depend on the engine's halt and its last count alone. -/
theorem State.engLag_setEngAt (s : State) (g : Nat) (e' : Eng) (hl : e'.halted = (s.engAt g).halted)
    (ha : e'.wdogAt = (s.engAt g).wdogAt) : (s.setEngAt g e').engLag g = s.engLag g := by
  simp [State.engLag, hl, ha]

/-- Writes of an engine leave everything but the engines. -/
theorem State.modEngAt_setEngAt_back (s : State) (n : Nat) (v : Eng) (f : Eng → Eng) :
    { (s.setEngAt n v).modEngAt n f with eng := s.eng } = s := rfl

/-- An effect on the engine alone, then its retirement. -/
theorem State.engBecomes_of (s : State) (g : EngineId) (op : EOp) (f : Eng → State → State) (e' : Eng) (r : Ret) (h : s.plain g op = true)
    (hl : e'.halted = (s.engAt g).halted) (ha : e'.wdogAt = (s.engAt g).wdogAt)
    (hf : f (s.engAt g) s = (s.setEngAt g e').engRetire g (s.engAt g) r) :
    s.engBecomes g (.next (s.engRun g op f)) ((s.engAt g).retire e' r) := by
  rw [State.engRun_plain _ _ _ _ h, hf, State.engRetire_plain _ _ _ _ (State.plain_dbg s g op h)]
  refine ⟨_, rfl, ?_, ?_, ?_⟩
  · simp [State.modEngAt, State.engLag_setEngAt _ _ _ hl ha]
  · intro j hj
    simp [State.modEngAt, State.engAt_setEngAt_ne _ _ _ _ hj]
  · exact State.modEngAt_setEngAt_back s g e' _

end Sys2Proof.Machine
end

