-- ==== Sys2Proof/Laws/Quiet.lean ====
section
/-!
SUPPORT. Laws/Quiet.lean: everything that storing data, pushing and popping queue entries, sending messages, raising faults and
responding can do: each leaves the units of `Quiet` as they are.
-/
namespace Sys2Proof.Machine

@[simp] theorem State.quiet_mk (s : State) (a b c d e f g h i) :
    State.quiet ⟨s.pending, s.now, a, s.readData, s.variant, s.speed, s.gradeE, s.man, b, s.thm, s.ckr, s.mbx, c, d, s.axu, s.stk,
      s.ptu, e, f, g, h, s.eng, s.kit, s.fab, s.dbg, i, s.ser, s.cfg, s.ovl, s.sec⟩ = s.quiet := rfl

@[simp] theorem State.foldl_quiet {α : Type} (f : State → α → State) (l : List α) (s : State) (h : ∀ s x, (f s x).quiet = s.quiet) :
    (l.foldl f s).quiet = s.quiet := by
  induction l generalizing s with
  | nil => rfl
  | cons x l ih => simp [ih, h]

@[simp] theorem State.fresh_quiet (s : State) (w) : (s.fresh w).2.quiet = s.quiet := by simp [State.fresh]
@[simp] theorem State.freshBytes_quiet (s : State) (w) : (s.freshBytes w).2.quiet = s.quiet := by simp [State.freshBytes]
@[simp] theorem State.msix_quiet (s : State) (f v) : (s.msix f v).quiet = s.quiet := by
  simp [State.msix]; repeat' (first | split | simp)
@[simp] theorem State.raiseC_quiet (s : State) (a b c d e) : (s.raiseC a b c d e).quiet = s.quiet := by simp [State.raiseC]
@[simp] theorem State.raise_quiet (s : State) (a b c) : (s.raise a b c).quiet = s.quiet := by simp [State.raise]
@[simp] theorem State.raiseBy_quiet (s : State) (a b c d) : (s.raiseBy a b c d).quiet = s.quiet := by simp [State.raiseBy]
@[simp] theorem State.setWordState_quiet (s : State) (a b) : (s.setWordState a b).quiet = s.quiet := by simp [State.setWordState]
@[simp] theorem State.vaultLast_quiet (s : State) (a b) : (s.vaultLast a b).quiet = s.quiet := by simp [State.vaultLast]
@[simp] theorem State.vaultReadWord_quiet (s : State) (a b c) : (s.vaultReadWord a b c).2.2.quiet = s.quiet := by
  simp only [State.vaultReadWord]; repeat' (first | split | simp)
@[simp] theorem State.vaultReadWords_quiet (s : State) (a b l) : (s.vaultReadWords a b l).2.2.quiet = s.quiet := by
  induction l generalizing s with
  | nil => rfl
  | cons x l ih => simp [State.vaultReadWords, ih]
@[simp] theorem State.vaultWriteWord_quiet (s : State) (a b c d e) : (s.vaultWriteWord a b c d e).2.quiet = s.quiet := by
  unfold State.vaultWriteWord; repeat' (first | split | simp)
@[simp] theorem State.vaultWriteWords_quiet (s : State) (a b c l bs) : (s.vaultWriteWords a b c l bs).2.quiet = s.quiet := by
  induction l generalizing s c bs with
  | nil => rfl
  | cons x l ih => simp [State.vaultWriteWords, ih]
@[simp] theorem State.vaultRead_quiet (s : State) (a b c d) : (s.vaultRead a b c d).2.2.quiet = s.quiet := by
  unfold State.vaultRead; repeat' (first | split | simp)
@[simp] theorem State.vaultWrite_quiet (s : State) (a b c d) : (s.vaultWrite a b c d).2.quiet = s.quiet := by
  unfold State.vaultWrite; repeat' (first | split | simp)
@[simp] theorem State.setDport_quiet (s : State) (a b) : (s.setDport a b).quiet = s.quiet := by simp [State.setDport]
@[simp] theorem State.modDport_quiet (s : State) (a b) : (s.modDport a b).quiet = s.quiet := by simp [State.modDport]
@[simp] theorem State.setRange_quiet (s : State) (a b) : (s.setRange a b).quiet = s.quiet := by simp [State.setRange]
@[simp] theorem State.modRange_quiet (s : State) (a b) : (s.modRange a b).quiet = s.quiet := by simp [State.modRange]
@[simp] theorem State.dportFreeze_quiet (s : State) (a b c d e) : (s.dportFreeze a b c d e).quiet = s.quiet := by
  simp [State.dportFreeze]
@[simp] theorem State.portWake_quiet (s : State) (a) : (s.portWake a).quiet = s.quiet := by
  unfold State.portWake; split <;> simp
@[simp] theorem State.metaWake_quiet (s : State) (a b) : (s.metaWake a b).quiet = s.quiet := by simp [State.metaWake]
@[simp] theorem State.mxeStore_quiet (s : State) (a b c d e) : (s.mxeStore a b c d e).quiet = s.quiet := by simp [State.mxeStore]
@[simp] theorem State.mxeDone_quiet (s : State) (a b c) : (s.mxeDone a b c).quiet = s.quiet := by simp [State.mxeDone]
@[simp] theorem State.mxeWriteLine_quiet (s : State) (a b c) : (s.mxeWriteLine a b c).quiet = s.quiet := by
  simp only [State.mxeWriteLine]; repeat' (first | split | simp)
@[simp] theorem State.mxeTouch_quiet (s : State) (a b c) : (s.mxeTouch a b c).quiet = s.quiet := by
  simp only [State.mxeTouch]; repeat' (first | split | simp)
@[simp] theorem State.mxeAlarm_quiet (s : State) (a b c) : (s.mxeAlarm a b c).quiet = s.quiet := by
  simp [State.mxeAlarm]
@[simp] theorem State.dramNote_quiet (s : State) (a b c) : (s.dramNote a b c).quiet = s.quiet := by
  unfold State.dramNote; split <;> simp
@[simp] theorem State.dramReadLine_quiet (s : State) (a b c d) : (s.dramReadLine a b c d).2.2.quiet = s.quiet := by
  simp only [State.dramReadLine]; repeat' (first | split | simp)
@[simp] theorem State.dramReadLines_quiet (s : State) (a b c l) : (s.dramReadLines a b c l).2.2.quiet = s.quiet := by
  induction l generalizing s with
  | nil => rfl
  | cons x l ih => simp [State.dramReadLines, ih]
@[simp] theorem State.dramWriteLine_quiet (s : State) (a b c d e f) : (s.dramWriteLine a b c d e f).2.quiet = s.quiet := by
  simp only [State.dramWriteLine]; repeat' (first | split | simp)
@[simp] theorem State.dramWriteLines_quiet (s : State) (a b c d l bs) : (s.dramWriteLines a b c d l bs).2.quiet = s.quiet := by
  induction l generalizing s d bs with
  | nil => rfl
  | cons x l ih => simp [State.dramWriteLines, ih]
@[simp] theorem State.dramRead_quiet (s : State) (a b c d) : (s.dramRead a b c d).2.2.quiet = s.quiet := by
  simp only [State.dramRead]; repeat' (first | split | simp)
@[simp] theorem State.dramWrite_quiet (s : State) (a b c d) : (s.dramWrite a b c d).2.quiet = s.quiet := by
  simp only [State.dramWrite]; repeat' (first | split | simp)
@[simp] theorem State.memRead_quiet (s : State) (a b c d) : (s.memRead a b c d).2.2.quiet = s.quiet := by
  simp only [State.memRead]; repeat' (first | split | simp)
@[simp] theorem State.memWrite_quiet (s : State) (a b c d) : (s.memWrite a b c d).2.quiet = s.quiet := by
  simp only [State.memWrite]; repeat' (first | split | simp)
@[simp] theorem State.setQueue_quiet (s : State) (a b) : (s.setQueue a b).quiet = s.quiet := by simp [State.setQueue]
@[simp] theorem State.modQueue_quiet (s : State) (a b) : (s.modQueue a b).quiet = s.quiet := by simp [State.modQueue]
@[simp] theorem State.obsHigh_quiet (s : State) (a b) : (s.obsHigh a b).quiet = s.quiet := by
  simp only [State.obsHigh]; repeat' (first | split | simp)
@[simp] theorem State.qAccept_quiet (s : State) (a b) : (s.qAccept a b).2.quiet = s.quiet := by
  simp only [State.qAccept]; repeat' (first | split | simp)
@[simp] theorem State.qPush_quiet (s : State) (a b) : (s.qPush a b).2.quiet = s.quiet := by
  simp only [State.qPush]; repeat' (first | split | simp)
@[simp] theorem State.qHead_quiet (s : State) (a) : (s.qHead a).2.2.quiet = s.quiet := by
  simp only [State.qHead]; repeat' (first | split | simp)
@[simp] theorem State.qPop_quiet (s : State) (a) : (s.qPop a).2.2.quiet = s.quiet := by
  simp only [State.qPop]; repeat' (first | split | simp)
@[simp] theorem State.pushMessage_quiet (s : State) (a b c) : (s.pushMessage a b c).2.quiet = s.quiet := by
  simp only [State.pushMessage]; split
  · have h := State.qPush_quiet s b c
    split <;> simp_all
  · rfl

/-- What of a state a mailbox's own writes leave alone. -/
theorem State.setBox_quiet (s : State) (m : Nat) (b : Mailbox) :
    (s.setBox m b).quiet = { s.quiet with mbx := (s.setBox m b).mbx } := rfl

theorem State.took_quiet (s : State) (m : Mb) : (s.took m).quiet = { s.quiet with mbx := (s.took m).mbx } := rfl

theorem State.modBox_quiet (s : State) (m : Nat) (f : Mailbox → Mailbox) :
    (s.modBox m f).quiet = { s.quiet with mbx := (s.modBox m f).mbx } := rfl

/-- Units left alone but for the mailboxes: the relation composes. -/
theorem Quiet.trans {s t u : State} (h1 : t.quiet = { s.quiet with mbx := t.mbx })
    (h2 : u.quiet = { t.quiet with mbx := u.mbx }) : u.quiet = { s.quiet with mbx := u.mbx } := by
  rw [h2, h1]

theorem Quiet.of_eq {s t u : State} (h1 : t.quiet = { s.quiet with mbx := t.mbx }) (h2 : u.quiet = t.quiet) :
    u.quiet = { s.quiet with mbx := u.mbx } := by
  have h : u.mbx = t.mbx := congrArg Quiet.mbx h2
  rw [h2, h1, h]

@[simp] theorem State.notifyVector_quiet (s : State) (m : Mb) : (s.notifyVector m).quiet = s.quiet := by
  simp only [State.notifyVector]; repeat' (first | split | simp)

/-- States whose units of `Quiet` agree have the same mailboxes. -/
theorem Quiet.box_eq {t u : State} (h : t.quiet = u.quiet) (k : Nat) : t.box k = u.box k := by
  simp only [State.box, show t.mbx = u.mbx from congrArg Quiet.mbx h]

/-- A record of a notification changes no unit of `Quiet` but the mailbox that it belongs to, and of that only NLOST. -/
theorem State.notifyRecord_spec (s : State) (m : Mb) (c : Code) (i : Bool) (r : Running) :
    (s.notifyRecord m c i r).quiet = { s.quiet with mbx := (s.notifyRecord m c i r).mbx } ∧
    (∀ k, k ≠ m.val → (s.notifyRecord m c i r).box k = s.box k) ∧
    ∃ b, (s.notifyRecord m c i r).box m = { s.box m with nlost := b } := by
  simp only [State.notifyRecord]
  split
  · have hp := State.pushMessage_quiet s (s.box m).owner (bitsOf (s.box m).notify.toNat 0 18)
      (leBytes 2 c.num ++ leBytes 1 m.val ++ leBytes 1 (b2n i) ++ leBytes 4 r.tag.toNat ++ leBytes 2 r.cseq.toNat ++ leBytes 6 0)
    split
    · exact ⟨Quiet.of_eq rfl hp, fun k _ => Quiet.box_eq hp k, ⟨(s.box m).nlost, Quiet.box_eq hp m⟩⟩
    · refine ⟨Quiet.of_eq (Quiet.trans (Quiet.of_eq rfl hp) (State.modBox_quiet _ _ _)) (State.raise_quiet _ _ _ _), ?_, true, ?_⟩
      · intro k hk
        rw [Quiet.box_eq (State.raise_quiet _ _ _ _), State.modBox, State.box_setBox_ne _ _ _ _ hk, Quiet.box_eq hp]
      · rw [Quiet.box_eq (State.raise_quiet _ _ _ _), State.modBox, State.box_setBox, Quiet.box_eq hp]
  · exact ⟨rfl, fun _ _ => rfl, ⟨_, rfl⟩⟩

/-- A notification changes no unit of `Quiet` but the mailbox that it belongs to, and of that only NLOST. -/
theorem State.notifyBox_spec (s : State) (m : Mb) (c : Code) (i : Bool) (r : Running) :
    (s.notifyBox m c i r).quiet = { s.quiet with mbx := (s.notifyBox m c i r).mbx } ∧
    (∀ k, k ≠ m.val → (s.notifyBox m c i r).box k = s.box k) ∧
    ∃ b, (s.notifyBox m c i r).box m = { s.box m with nlost := b } := by
  simp only [State.notifyBox]
  split
  · exact ⟨rfl, fun _ _ => rfl, ⟨_, rfl⟩⟩
  · have h := State.notifyRecord_spec (s.notifyVector m) m c i r
    have hv := Quiet.box_eq (State.notifyVector_quiet s m)
    refine ⟨Quiet.trans (Quiet.of_eq rfl (State.notifyVector_quiet s m)) h.1, ?_, ?_⟩
    · intro k hk; rw [h.2.1 k hk, hv]
    · obtain ⟨b, hb⟩ := h.2.2; exact ⟨b, by rw [hb, hv]⟩

theorem State.respond_quiet (s : State) (m : Mb) (r : Running) (c : Code) (d : Nat) (p : List Byte) :
    (s.respond m r c d p).quiet = { s.quiet with mbx := (s.respond m r c d p).mbx } := by
  simp only [State.respond]
  split
  · exact State.modBox_quiet _ _ _
  · exact Quiet.trans (State.modBox_quiet _ _ _) ((State.notifyBox_spec _ _ _ _ _).1)

theorem State.finish_quiet (s : State) (m : Mb) (c : Code) (p : List Byte) (d : Nat) :
    (s.finish m c p d).quiet = { s.quiet with mbx := (s.finish m c p d).mbx } := State.modBox_quiet _ _ _

/-- An access that nothing held stands before runs as it is. -/
theorem State.inHostOrder_atOnce (s : State) (who : Initiator) (a : Nat) (read : Option Nat) (data : List Byte) (run : State → State)
    (h : s.atOnce who = true) : s.inHostOrder who a read data run = run s := by
  cases who <;> simp_all [State.inHostOrder, State.atOnce]

/-- Behind a held push of the host, its access waits and nothing else happens. -/
theorem State.inHostOrder_held (s : State) (fn : Fin 2) (a : Nat) (read : Option Nat) (data : List Byte) (run : State → State)
    (h : s.hostHeld = true) : s.inHostOrder (.pf fn) a read data run = s.postpone { fn := fn, dst := .at a, read := read, data := data } := by
  simp [State.inHostOrder, h]

end Sys2Proof.Machine
end

