-- ==== Sys2Proof/WellFormed.lean ====
section
/-!
DEFINITION. WellFormed.lean: the operands a command may carry: byte counts that match their data, aligned offsets, codes
that the instruction words have, and indices of units that exist.
-/
namespace Sys2Proof

open Machine

/-- The bytes of one queue entry: ESIZE names 16, 32 or 64 (R247, R249). -/
def entrySize (data : List Byte) : Bool := data.length = 16 || data.length = 32 || data.length = 64

/-- A register access of 4 bytes, or of 8 where `wide`, at an offset that is a multiple of its size (R41). -/
def aligned (off : Nat) (wide : Bool) : Bool := off % (if wide then 8 else 4) = 0

/-- A 4-byte access carries 32 bits (R41). -/
def fitsWord (wide : Bool) (v : BitVec 64) : Bool := wide || v.toNat < 2 ^ 32

/-- A ring packet reads or writes 1 to 512 bytes (R37, R383). -/
def ringPacketOk : RingPacket → Bool
  | .read _ n _ => n.val ≠ 0
  | .write _ data _ => data.length ≠ 0 && data.length ≤ 512
  | .reply _ _ data => data.length ≤ 512

/-- A word of P, X or Y memory, or of kit memory (R203). -/
def memAddrOk (m : EngMem) (a : BitVec 16) : Bool :=
  match m with
  | .kit => true
  | .p => a.toNat < 8192
  | .x => a.toNat < 8192
  | .y => a.toNat < 8192

/-- A frame address names one of 384 quads, a plane and one of 960 frames (R154). -/
def frameOk (f : BitVec 20) : Bool := f.toNat % 512 < 384 && f.toNat / 512 % 1024 < 960

/-- Has a command the operands that its form admits? -/
def Instr.wellFormed : Instr → Bool
  | .inventory _ => true
  | .health _ => true
  | .echo _ => true
  | .fwUpdate _ => true
  | .fwLoad _ => true
  | .cfgQuery _ => true
  | .cfgHostLoad _ => true
  | .cfgReload _ => true
  | .reloadExecute => true
  | .flashRead _ => true
  | .flashErase _ => true
  | .flashWrite _ => true
  | .ovlStore _ => true
  | .ovlDrop _ => true
  | .ovlStage _ => true
  | .ovlArmSwap _ => true
  | .ovlDisarm _ => true
  | .ovlLoadQuiesced _ => true
  | .ovlQuery _ => true
  | .cfgScrubConfig _ => true
  | .cfgScrubQuery _ => true
  | .engLoad _ => true
  | .engControlStart _ => true
  | .engControlStop _ => true
  | .engQuery _ => true
  | .axisConfig _ => true
  | .axisEnable _ => true
  | .axisDisable _ => true
  | .axisReset _ => true
  | .axisQuery _ => true
  | .strikeAlloc _ => true
  | .strikeFree _ => true
  | .pinConfig _ => true
  | .captureConfig _ => true
  | .axisLockPll _ => true
  | .contractOpen _ => true
  | .contractClose _ => true
  | .contractQuery _ => true
  | .nocRoute _ => true
  | .queueAlloc _ => true
  | .queueFree _ => true
  | .queueQuery _ => true
  | .groupCreate _ => true
  | .groupDelete _ => true
  | .contextAlloc _ => true
  | .contextFree _ => true
  | .contextQuery _ => true
  | .observeMode _ => true
  | .statsRead _ => true
  | .dramRegionCreate _ => true
  | .dramRegionDelete _ => true
  | .dramQuery _ => true
  | .dramMap _ => true
  | .dramSelfrefEnter _ => true
  | .dramSelfrefExit _ => true
  | .dramPortReset _ => true
  | .freezeRecord _ => true
  | .mxeRangeCreate _ => true
  | .mxeRangeDelete _ => true
  | .mxeQuery _ => true
  | .vaultAlloc _ => true
  | .vaultFree _ => true
  | .vaultQuery _ => true
  | .vaultConfig _ => true
  | .clockQuery _ => true
  | .clockSwitch _ => true
  | .clockMonitor _ => true
  | .clockGate _ => true
  | .powerDomainOff _ => true
  | .powerDomainOn _ => true
  | .powerQuery _ => true
  | .blockReset _ => true
  | .chipReset _ => true
  | .chipResetExecute => true
  | .ptpConfig _ => true
  | .ptpStep _ => true
  | .ptpSetRate _ => true
  | .ptpHoldover _ => true
  | .ptpResetTime _ => true
  | .ptpQuery _ => true
  | .faultConfig _ => true
  | .faultNotify _ => true
  | .faultAck _ => true
  | .faultHistory _ => true
  | .faultInject _ => true
  | .thermalConfig _ => true
  | .pcieAperture _ => true
  | .pcieOutwin _ => true
  | .laneConfig _ => true
  | .jesdConfig _ => true
  | .ethConfig _ => true
  | .ringJoin _ => true
  | .ringLeave _ => true
  | .ringQuery _ => true
  | .ringAxisExport _ => true
  | .ringWindow _ => true
  | .dbgAuth _ => true
  | .dbgAuthBegin _ => true
  | .dbgAuthFinish _ => true
  | .dbgEnd _ => true
  | .dbgEngHalt _ => true
  | .dbgEngResume _ => true
  | .dbgEngStep _ => true
  | .dbgEngReadReg _ => true
  | .dbgEngWriteReg _ => true
  | .dbgEngSetPc _ => true
  | .dbgBreak _ => true
  | .dbgMem _ => true
  | .dbgFreeze _ => true
  | .dbgThaw _ => true
  | .dbgReadback _ => true
  | .lcQuery _ => true
  | .lcNonce _ => true
  | .lcIdentity _ => true
  | .lcTakeOwnership _ => true
  | .lcDeploy _ => true
  | .lcUndeploy _ => true
  | .lcScrap _ => true
  | .svnRaise _ => true
  | .tamperConfig _ => true
  | .lcSettingsFuse _ => true
  | .returnPrepare _ => true
  | .returnRead _ => true
  | .lifecycleReset => true
  | .mbxDoorbell _ _ _ => true
  | .commandCopy _ => true
  | .notReadyAnswer _ => true
  | .interimResponse _ permille _ _ => permille.toNat ≤ 1000
  | .mbxRpop _ _ => true
  | .sessionTokenDraw _ => true
  | .doorbellPush _ _ data => entrySize data
  | .consume _ _ _ => true
  | .popWindowPop _ _ => true
  | .ptuTsqPop _ _ => true
  | .ptuTsqStatRead _ _ _ => true
  | .stkLateRead _ _ => true
  | .stkDelayedRead _ _ => true
  | .stkDropRead _ _ => true
  | .qcuHostdropRead _ => true
  | .qcuDbdropRead _ _ => true
  | .tduGrpMissRead _ _ => true
  | .kitLockRead _ _ => true
  | .pceDropRead _ => true
  | .fltPendWrite _ _ _ => true
  | .fpllFlagClear _ _ _ => true
  | .engSwiSet _ _ _ => true
  | .dbgRunHalt _ _ => true
  | .dbgRunResume _ _ => true
  | .dbgRunStep _ _ => true
  | .strikeStageWrite _ _ off wide v => aligned off.val wide && fitsWord wide v
  | .strikeEntryCommit _ _ wide v => fitsWord wide v
  | .registerWrite _ off wide v => aligned off.toNat wide && fitsWord wide v
  | .debugRead _ addr n => n.val ≠ 0 && addr.toNat + n.val ≤ 2 ^ 48
  | .extest _ => true
  | .samplePreload _ => true
  | .idcode => true
  | .clamp => true
  | .highz => true
  | .extestPulse _ => true
  | .extestTrain _ => true
  | .bypass => true
  | .dbgPage off _ _ => off.toNat % 4 = 0
  | .nop _ m1 m2 => (.par .nop 0 0 m1 m2 : EOp).wf
  | .dmpy _ acc sel m1 m2 => (.par .dmpy acc sel m1 m2 : EOp).wf
  | .dmac _ acc sel m1 m2 => (.par .dmac acc sel m1 m2 : EOp).wf
  | .dmsa _ acc sel m1 m2 => (.par .dmsa acc sel m1 m2 : EOp).wf
  | .mpy2 _ acc sel m1 m2 => (.par .mpy2 acc sel m1 m2 : EOp).wf
  | .mac2 _ acc sel m1 m2 => (.par .mac2 acc sel m1 m2 : EOp).wf
  | .mas2 _ acc sel m1 m2 => (.par .mas2 acc sel m1 m2 : EOp).wf
  | .mpy _ acc sel m1 m2 => (.par .mpy acc sel m1 m2 : EOp).wf
  | .mac _ acc sel m1 m2 => (.par .mac acc sel m1 m2 : EOp).wf
  | .macn _ acc sel m1 m2 => (.par .macn acc sel m1 m2 : EOp).wf
  | .aluAdd _ acc sel m1 m2 => (.par .add acc sel m1 m2 : EOp).wf
  | .aluSub _ acc sel m1 m2 => (.par .sub acc sel m1 m2 : EOp).wf
  | .aluCmp _ acc sel m1 m2 => (.par .cmp acc sel m1 m2 : EOp).wf
  | .copy _ acc sel m1 m2 => (.par .copy acc sel m1 m2 : EOp).wf
  | .aluMax _ acc sel m1 m2 => (.par .max acc sel m1 m2 : EOp).wf
  | .clr _ acc m1 m2 => (.par .clr acc 0 m1 m2 : EOp).wf
  | .rnd _ acc m1 m2 => (.par .rnd acc 0 m1 m2 : EOp).wf
  | .abs _ acc m1 m2 => (.par .abs acc 0 m1 m2 : EOp).wf
  | .neg _ acc m1 m2 => (.par .neg acc 0 m1 m2 : EOp).wf
  | .asr1 _ acc m1 m2 => (.par .asr1 acc 0 m1 m2 : EOp).wf
  | .asl1 _ acc m1 m2 => (.par .asl1 acc 0 m1 m2 : EOp).wf
  | .asr8 _ acc m1 m2 => (.par .asr8 acc 0 m1 m2 : EOp).wf
  | .asl8 _ acc m1 m2 => (.par .asl8 acc 0 m1 m2 : EOp).wf
  | .ldi _ r imm => (.ldi r imm : EOp).wf
  | .ldih _ r imm => (.ldih r imm : EOp).wf
  | .movec _ d src => (.movec d src : EOp).wf
  | .movem _ r store y a => (.movem r store y a : EOp).wf
  | .daluAdd _ _ _ => true
  | .daluSub _ _ _ => true
  | .daluCmp _ _ _ => true
  | .daluAnd _ _ _ => true
  | .daluOr _ _ _ => true
  | .daluXor _ _ _ => true
  | .daluAsl _ _ _ => true
  | .daluAsr _ _ _ => true
  | .daluLsr _ _ _ => true
  | .daluMin _ _ _ => true
  | .daluMax _ _ _ => true
  | .tst _ _ _ => true
  | .jcc _ cond target => (.jcc cond target : EOp).wf
  | .jsr _ _ _ => true
  | .jmpDn _ _ => true
  | .rep _ _ => true
  | .repi _ _ _ => true
  | .endl _ => true
  | .take _ => true
  | .done _ _ _ => true
  | .doneCompletion _ => true
  | .rti _ => true
  | .bkpt _ => true
  | .stset _ _ => true
  | .stclr _ _ => true
  | .kdma _ _ _ => true
  | .kdmaw _ _ => true
  | .pushq _ _ _ _ _ => true
  | .popq _ _ _ _ _ => true
  | .lock _ _ _ _ => true
  | .unlock _ _ _ => true
  | .illegalInstruction _ => true
  | .interruptAccept _ _ => true
  | .tokenHandover _ => true
  | .taskStart _ => true
  | .argFault _ => true
  | .taskWatchdogExpiry _ => true
  | .doubleFault _ => true
  | .kdmaDescriptorComplete _ _ => true
  | .lockBreak _ => true
  | .bankLockRelease _ => true
  | .engineRemap _ mem addr => memAddrOk mem addr
  | .eccWriteback _ mem addr => memAddrOk mem addr
  | .axisSourceEvent _ _ => true
  | .axisStall _ => true
  | .ringDiscontinuity _ => true
  | .strikeCrossing _ => true
  | .strikeCommitAhead _ => true
  | .pinEdge _ => true
  | .flinePulse _ _ => true
  | .overflowMove _ => true
  | .holdingBufferPush _ => true
  | .captureEdge _ _ _ => true
  | .captureRecordPush _ => true
  | .pllAxisRealign _ => true
  | .txTimestamp _ => true
  | .holdTimeout _ => true
  | .slewEnd _ => true
  | .buslineContention _ => true
  | .fpllLossOfLock _ => true
  | .fpllRelock _ => true
  | .fabricInitiatorRequest _ _ write addr n data =>
    addr.toNat + 64 * n.val ≤ 2 ^ 48 && data.length = (if write then 64 * n.val else 0)
  | .fabricQueuePush _ _ data => entrySize data
  | .fabricQueuePop _ _ => true
  | .mailboxChannelAccess _ off _ _ => off.toNat % 4 = 0
  | .targetTimeout _ _ => true
  | .faultLine _ => true
  | .heartbeatExpiry _ => true
  | .vaultSideChannelAccess _ off _ _ _ _ => off.toNat % 16 = 0
  | .gselRequest _ _ => true
  | .por => true
  | .porRelease _ _ => true
  | .progN => true
  | .coreSupplyLoss _ => true
  | .firmwareCheck _ => true
  | .streamHeader hdr => hdr.length = 512
  | .segment seg => 80 ≤ seg.length
  | .sourceSilent => true
  | .cfgDoneHigh => true
  | .doneWaitExpiry => true
  | .waitLock => true
  | .lockTimeout => true
  | .releaseGsr => true
  | .enableWrites => true
  | .releaseIo => true
  | .atmonReady => true
  | .imageStoreCreate => true
  | .frameCopyFill frame => frameOk frame
  | .swapEdge _ => true
  | .regionUsable _ => true
  | .swapRecordUpdate _ => true
  | .scrubFrameRead _ => true
  | .frameRepair frame _ => frameOk frame
  | .scrubLapEnd => true
  | .tokenRelease _ => true
  | .deadlineMiss _ => true
  | .queuePushAccept _ _ data => entrySize data
  | .heldPushRetry _ => true
  | .hostPushDiscard => true
  | .routerHeader _ _ _ _ => true
  | .nocRequest _ ce ue => ce.val + ue.val ≤ 64
  | .nocResponse _ ce ue => ce.val + ue.val ≤ 64
  | .fence _ => true
  | .flowRelease _ => true
  | .routingChange _ => true
  | .epochFlip => true
  | .epochDrainEnd _ => true
  | .epochDrainTimeout => true
  | .linkFence _ _ _ => true
  | .linkFailure _ _ => true
  | .blockResetAssert _ => true
  | .blockResetRelease _ => true
  | .contractRevalidate _ => true
  | .niDrained _ => true
  | .drainTimeout _ => true
  | .vaultAccess _ _ => true
  | .secureWipe => true
  | .secureWipeComplete => true
  | .vaultScrubRead _ _ _ => true
  | .vaultScrubWriteback _ _ => true
  | .bankStarved _ => true
  | .vaultRemap _ => true
  | .vaultPageCleared _ => true
  | .dramRequest _ _ => true
  | .refreshInterval _ => true
  | .refsb _ _ _ => true
  | .mr4Reading _ _ => true
  | .deviceErase _ _ _ => true
  | .retrainingSlot _ _ => true
  | .patrolRead _ _ _ => true
  | .patrolLate _ => true
  | .portTraining _ _ => true
  | .portFreeze _ cause _ _ => cause.val ≠ 0
  | .alertN _ => true
  | .regionClearComplete _ => true
  | .portResetComplete _ _ => true
  | .selfrefWake _ => true
  | .mxeWrite _ _ => true
  | .mxeRead _ _ => true
  | .pageReencrypt _ _ => true
  | .counterCacheWriteback _ => true
  | .counterCacheError _ _ _ => true
  | .hostRequest _ _ _ write n data => n.val ≠ 0 && data.length = (if write then n.val else 0)
  | .outboundRequest _ _ => true
  | .completionTimeout _ => true
  | .perst => true
  | .hotReset => true
  | .functionLevelReset _ => true
  | .jesdAlignmentLost _ => true
  | .jesdRealign _ => true
  | .ethTransmit _ => true
  | .ethReceive _ _ _ => true
  | .ringCellReceive _ cell => 64 ≤ cell.length && cell.length % 64 = 0
  | .ringNak _ _ => true
  | .ringAckTimeout _ => true
  | .segmentHeal _ _ => true
  | .bypassClose _ => true
  | .quietSlot _ => true
  | .joinTimeout _ _ => true
  | .ringMeasure _ _ => true
  | .axisCellSend _ => true
  | .axisCellReceive _ _ _ => true
  | .strikeCellLaunch _ => true
  | .strikeCellReceive _ _ _ _ => true
  | .ringPkt _ _ pkt => ringPacketOk pkt
  | .referenceSelect _ _ => true
  | .monitorWindow _ _ _ => true
  | .ioscCrossCheck _ => true
  | .clockFailover _ => true
  | .fallbackTimeout _ => true
  | .clockReturn _ => true
  | .sensorReading _ _ _ => true
  | .thermalShutdown => true
  | .faultRaise => true
  | .lockstepDisagreement => true
  | .lockstepRecovery _ => true
  | .tamperTrip _ => true
  | .authFinishTimeout _ => true
  | .nonceExpiry _ => true
  | .axisClockEdge _ => true
  | .fabricClockEdge _ _ _ _ => true
  | .targetResponse _ _ _ _ => true
  | .stagingComplete _ _ => true
  | .quiesceEnd _ _ => true
  | .longCommandFinalResponse _ => true
  | .hostLoadGap => true
  | .jesdConfigTimeout _ => true
  | .perstDeassert => true
  | .configurationRequest _ off _ _ => off.toNat % 4 = 0
  | .ethLinkDown _ => true
  | .ethLinkUp _ => true
  | .laneRxLock _ _ => true
  | .supplyOutOfRange _ => true
  | .coreSupplyReturn => true
  | .errNHoldExpiry => true
  | .delayedFiring _ => true
  | .tapReset => true

end Sys2Proof
end

