-- ==== Sys2Proof/Tests/Slice0.lean ====
section
/-!
SUPPORT. Tests/Slice0.lean: ill-formed commands refused by WellFormed, words of the engine instruction set decoded, and for every
statement states and operands that meet its hypotheses, with the result that the spec's tables give.
-/
namespace Sys2Proof.Tests

set_option Elab.async false

open Sys2Proof Sys2Proof.Machine

/-! ### Small states -/

/-- A command buffer of fields given as (offset, bytes, value). -/
def buf (fs : List (Nat × Nat × Nat)) : Mem := fs.foldl (fun m f => wrBytes m f.1 (leBytes f.2.1 f.2.2)) []

/-- A copied command. -/
def copied (op len : Nat) (fs : List (Nat × Nat × Nat)) : Running :=
  { op := op, tag := 0#32, notifyOff := true, length := len, buf := buf fs, since := 0, cseq := 0#16 }

/-- Mailbox 0 of owner 0 executes a command. -/
def cmd (op : Nat) (fs : List (Nat × Nat × Nat)) (s : State) : State :=
  { s with mbx.box := tput s.mbx.box {} 0 { s.box 0 with st := .running, run := some (copied op 0x200 fs) }, mbx.order := [0] }

/-- STATUS of the response that mailbox 0 holds. -/
def status (o : Out) : Option Nat :=
  match o with
  | .next t => if (t.box 0).st = .complete then some (rdLE (t.box 0).resp 0 2) else none
  | _ => none

/-- A field of the response. -/
def resp (o : Out) (off n : Nat) : Option Nat :=
  match o with
  | .next t => some (rdLE (t.box 0).resp off n)
  | _ => none

/-- The outcome is a next state that satisfies `p`. -/
def ends (o : Out) (p : State → Bool) : Bool :=
  match o with
  | .next t => p t
  | _ => false

/-- The device after its start-up: running, with every owner declared. -/
def up : State :=
  { State.reset with
    cfg.st := .running, cfg.gsr := false, cfg.writesOn := true, cfg.ioOn := true, cfg.lockDone := true
    mbx.prog := .atmon, mbx.ready := true, ckr.por := false
    man := { inForce := true, owners := 0xFFFF#16 } }


/-! ### Mailboxes -/

/-- Mailbox 0 with a posted ECHO of token `tok`; its own token is 5. -/
def posted (tok : Nat) : State :=
  { up with mbx.box := [(0, { st := .posted, token := 5#32, cmd := buf [(0, 2, 0x0103), (4, 4, 20), (0xC, 4, tok), (0x10, 4, 77)] })]
            mbx.order := [0] }

/-- R401, R408: with the right token the command is copied; with another it is answered NOT_OWNER, DETAIL 3. -/
theorem witness_BadTokenHasNoEffect :
    ((posted 6).box 0).st = .posted ∧ ((posted 6).box 0).run = none ∧ (posted 6).progReady = true ∧ (posted 6).flt.lockstep = false ∧
    rdLE ((posted 6).box 0).cmd 0xC 4 ≠ ((posted 6).box 0).token.toNat ∧
    status (exec (.commandCopy 0) (posted 6)) = some 5 ∧ resp (exec (.commandCopy 0) (posted 6)) 3 1 = some 3 := by decide +kernel

/-- R397, R401: a doorbell in IDLE and in COMPLETE, by the owner and by another; the copy, and NOT_READY before READY. -/
theorem witness_MailboxesTakeCommands :
    up.passes .belfry (up.box 3).owner = true ∧ (up.box 3).st = .idle ∧
    ends (exec (.mbxDoorbell .belfry 3 1#32) up) (fun t => (t.box 3).st = .posted && (t.box 3).cseq = 1#16) = true ∧
    ends (exec (.mbxDoorbell .belfry 0 1#32) (posted 5)) (fun t => (t.box 0).dropped && (t.box 0).st = .posted) = true ∧
    (posted 5).copyRefusal 0 ((posted 5).box 0).copied (rdLE ((posted 5).box 0).cmd 0xC 4) = none ∧
    ends (exec (.commandCopy 0) (posted 5)) (fun t => (t.box 0).st = .running) = true ∧
    ({ posted 5 with mbx.ready := false } : State).progReady = false ∧
    status (exec (.notReadyAnswer 0) { posted 5 with mbx.ready := false }) = some 1 := by decide +kernel

/-- Mailbox 0 with a complete response of STATUS 6, owned by owner 0. -/
def answered : State := { up with mbx.box := [(0, { st := .complete, nlost := true, resp := buf [(0, 2, 6)] })] }

/-- A long command at work in mailbox 0. -/
def working (fin : Option (Nat × Nat × List Byte)) : State :=
  { up with mbx.box := [(0, { st := .running, run := some { copied 0x0110 0x24 [] with long := true, final := fin } })] }

/-- R403, R405, R407: the response is popped once; the interim response counts its step; the work's end is the final response. -/
theorem witness_MailboxesAnswer :
    ends (exec (.mbxRpop .belfry 0) answered) (fun t => (t.box 0).st = .idle && leNat t.readData = 6 + 65536) = true ∧
    ends (exec (.mbxRpop .belfry 1) answered) (fun t => leNat t.readData = 0) = true ∧
    ends (exec (.interimResponse 0 1001#16 0#32 0#64) (working none)) (fun t =>
      (t.box 0).interim && rdLE (t.box 0).resp 0x10 4 = 1 && rdLE (t.box 0).resp 0x14 2 = 1000) = true ∧
    status (exec (.longCommandFinalResponse 0) (working (some (0, 0, [])))) = some 0 ∧
    ({ up with mbx.box := [(0, { tokenDue := true })] } : State).box 0 = { tokenDue := true } := by decide +kernel

/-- R413: ECHO with the shortest and a longer command; INVENTORY and HEALTH. -/
theorem witness_InformationCommandsAnswer :
    (cmd 0x0103 [(0x10, 4, 0xAB)] up).serving 0 0x0103 anyForm ≠ none ∧
    status (exec (.echo 0) (cmd 0x0103 [(0x10, 4, 0xAB)] up)) = some 0 ∧
    resp (exec (.echo 0) (cmd 0x0103 [(0x10, 4, 0xAB)] up)) 0x10 4 = some 0xAB ∧
    status (exec (.inventory 0) (cmd 0x0101 [] up)) = some 0 ∧ status (exec (.health 0) (cmd 0x0102 [] up)) = some 0 := by decide +kernel

/-! ### Axes, strikes, pins and captures -/

/-- R43: 2^63 − 1 ahead counts as ahead, 2^63 does not, and neither does the position itself. -/
theorem test_posAhead : posAhead 0x7FFFFFFFFFFFFFFF#64 0#64 = true ∧ posAhead 0x8000000000000000#64 0#64 = false ∧
    posAhead 5#64 5#64 = false ∧ posAhead 0#64 0xFFFFFFFFFFFFFFFF#64 = true := by decide

/-- Axis 15 is running on LOCAL with a valid strike entry 40 on it; axis 3 counts FABRIC_0 events. -/
def axes : State :=
  { up with
    axu.axis := [(0, { cfg := { src := 4#5 } }), (3, { cfg := { en := true, src := 16#5, track := true }, st := .running }), (15, { cfg := { en := true, src := 4#5 }, st := .running })]
    stk.entry := [(40, { pos := 0x100000#64, ctl := BitVec.ofNat 16 (1024 + 16 * 2 + 15) })] }

/-- R44, R53, R79, R519: AXIS_CONFIG of the first and the last axis with their sources, AXIS_ENABLE, AXIS_DISABLE, AXIS_QUERY, and
AXIS_RESET of an axis with an entry and of one without. -/
theorem witness_AxisCommandsComplete :
    status (exec (.axisConfig 0) (cmd 0x0301 [(0x10, 4, 0), (0x14, 4, 2 * 16 + 128), (0x20, 8, 1024 * 4), (0x28, 8, 99)] up)) = some 0 ∧
    resp (exec (.axisConfig 0) (cmd 0x0301 [(0x10, 4, 0), (0x14, 4, 2 * 16 + 128), (0x20, 8, 1024 * 4), (0x28, 8, 99)] up)) 0x10 4 = some 2 ∧
    status (exec (.axisConfig 0) (cmd 0x0301 [(0x10, 4, 15), (0x14, 4, 2 * 24), (0x18, 4, 15), (0x1C, 4, 30 * 16777216)] up)) = some 0 ∧
    ends (exec (.axisEnable 0) (cmd 0x0302 [(0x10, 4, 0), (0x14, 4, 1)] axes)) (fun t => (t.axis 0).st = .running) = true ∧
    ends (exec (.axisDisable 0) (cmd 0x0302 [(0x10, 4, 3)] axes)) (fun t => (t.axis 3).st = .disabled) = true ∧
    status (exec (.axisQuery 0) (cmd 0x0304 [(0x10, 2, 0x8001)] axes)) = some 0 ∧
    status (exec (.axisReset 0) (cmd 0x0303 [(0x10, 4, 15), (0x18, 8, 7)] axes)) = some 10 ∧
    ends (exec (.axisReset 0) (cmd 0x0303 [(0x10, 4, 15), (0x18, 8, 7)] axes)) (fun t => (t.axis 15).pos = 7#64 && !(t.strike 40).valid && (t.strike 40).cancelled) = true ∧
    status (exec (.axisReset 0) (cmd 0x0303 [(0x10, 4, 0)] axes)) = some 0 := by decide +kernel

/-- R45, R46, R52, R54: an edge, a negative source increment, a stall after 2^STALL_EXP µs and an announced discontinuity. -/
theorem witness_AxesAdvanceAndStall :
    ends (exec (.axisClockEdge true) { axes with ckr.dom := [(2, { iosc := false })] }) (fun t =>
      t.now = 1 && t.axu.localNs = 1#48 && t.axu.chassisNs = 10#48) = true ∧
    ends (exec (.axisSourceEvent 3 (.fabric 0xFFFF#16 256)) axes) (fun t => (t.axis 3).spos = 0xFFFFFFFFFFFF0000#64) = true ∧
    ends (exec (.axisStall 3) { axes with now := 1024000 }) (fun t => (t.axis 3).st = .stalled) = true ∧
    ends (exec (.axisStall 3) { axes with now := 1023999 }) (fun t => (t.axis 3).st = .running) = true ∧
    ends (exec (.ringDiscontinuity 9) { axes with axu.axis := [(9, { st := .running, discPend := true })] }) (fun t =>
      (t.axis 9).st = .disabled && (t.axis 9).discS) = true := by decide +kernel

/-- Owner 0 holds slots 32 to 47 with 1 firing per µs; axis 15 runs on LOCAL. -/
def strikes : State := { axes with stk.allot := [(0, { base := 32, count := 16, rate := 1 })] }

/-- A one-shot and a repeating FLINE entry on axis 15, CONTROL [10] VALID. -/
def fline (interval : Nat) : Strike :=
  { pos := 0x10000#64, interval := BitVec.ofNat 64 interval, arg := BitVec.ofNat 64 (24 + 63 * 256 + 255 * 65536), ctl := BitVec.ofNat 16 (1024 + 16 * 4 + 15) }

/-- R64, R79: the longest run and, beside an allotment of 16, the longest that is left; one slot more is refused. STRIKE_FREE,
PIN_CONFIG, CAPTURE_CONFIG armed and disarmed. -/
theorem witness_StrikeCommandsComplete :
    status (exec (.strikeAlloc 0) (cmd 0x0310 [(0x10, 4, 65504), (0x14, 4, 968)] up)) = some 0 ∧
    resp (exec (.strikeAlloc 0) (cmd 0x0310 [(0x10, 4, 65504), (0x14, 4, 968)] up)) 0x10 4 = some 32 ∧
    status (exec (.strikeAlloc 0) (cmd 0x0310 [(0x10, 4, 65505), (0x14, 4, 1)] up)) = some 6 ∧
    ends (exec (.strikeFree 0) (cmd 0x0311 [] strikes)) (fun t => (t.allot 0).count = 0 && !(t.strike 40).valid) = true ∧
    status (exec (.pinConfig 0) (cmd 0x0320 [(0x10, 4, 24), (0x14, 4, 2)] up)) = some 0 ∧
    status (exec (.captureConfig 0) (cmd 0x0321 [(0x10, 4, 63), (0x14, 4, 24 + 64 * 2 + 256 * 15 + 4096)]
      { strikes with qcu.queue := [(0, { kind := .event, sizeExp := 4, esize := 1, en := true })] })) = some 0 ∧
    status (exec (.captureConfig 0) (cmd 0x0321 [(0x10, 4, 0), (0x14, 4, 0)] strikes)) = some 0 := by decide +kernel

/-- R57 to R60, R63, R80: the first and the last bytes of an entry staged, a stager of another, a slot outside the allotment;
CONTROL with VALID 0, with VALID 1, with reserved bits, of an axis that is disabled; the crossing of a one-shot and of a repeating
entry, and an entry of the overflow list. -/
theorem witness_StrikesPostFireAndRepeat :
    ends (exec (.strikeStageWrite .belfry 32 16 true 0x0102030405060708#64) strikes) (fun t =>
      tget t.stk.stage none (24 * 32 + 16) = some 8#8 && tget t.stk.stage none (24 * 32 + 23) = some 1#8) = true ∧
    ends (exec (.strikeStageWrite .belfry 47 0 false 1#64) { strikes with stk.stager := [(47, .pf 0)] }) (fun t =>
      t.freeCount = 1 && (tget t.stk.stage none (24 * 47 + 23)).isSome && (tget t.stk.stage none (24 * 46)).isNone) = true ∧
    strikes.slotMine (.pf 0) 48 = false ∧
    ends (exec (.strikeEntryCommit (.pf 0) 48 false 0#64) strikes) (fun t => t.flt.raised.map (·.src) = [198]) = true ∧
    ends (exec (.strikeEntryCommit .belfry 32 false 0#64) strikes) (fun t => !(t.strike 32).valid) = true ∧
    (strikes.commitFrom 32 0 0x7FF).2.freeCount = 0 ∧
    ends (exec (.strikeEntryCommit .belfry 33 false (BitVec.ofNat 64 (1024 + 16 * 2 + 15))) { strikes with
      stk.stage := [(24 * 33 + 6, some 1#8)], qcu.queue := [(0, { kind := .message, sizeExp := 4 })] }) (fun t => (t.strike 33).valid) = true ∧
    ends (exec (.strikeEntryCommit .belfry 33 false (BitVec.ofNat 64 (1024 + 16 * 2 + 9))) strikes) (fun t =>
      (t.strike 33).dropped && !(t.strike 33).valid && (t.allot 0).drop = 1#28) = true ∧
    (strikes.commitFrom 33 0 (1024 + 16 * 4 + 15)).2.freeCount = 1 ∧
    (fline 0).valid = true ∧ (fline 0).isAhead = false ∧
    ends (exec (.strikeCrossing 32) { strikes with stk.entry := [(32, fline 0)], stk.due := [(32, 0x10000#64, 256)] }) (fun t =>
      !(t.strike 32).valid && (t.strike 32).fired && t.stk.pulses ≠ []) = true ∧
    ends (exec (.strikeCrossing 32) { strikes with stk.entry := [(32, fline 0x10000)], stk.due := [(32, 0x10000#64, 256)] }) (fun t =>
      (t.strike 32).valid && (t.strike 32).pos = 0x20000#64) = true ∧
    ends (exec (.overflowMove 32) { strikes with stk.entry := [(32, { fline 0 with ovf := true })] }) (fun t => !(t.strike 32).ovf) = true ∧
    ends (exec (.strikeCommitAhead 32) { strikes with stk.entry := [(32, { pos := 0x100000#64, ctl := BitVec.ofNat 16 (1024 + 16 + 15), arg := 24#64 })] }) (fun t =>
      (t.strike 32).fired && t.stk.ahead ≠ []) = true := by decide +kernel

/-- R64 to R75, R78, R475: a pin edge, a strike line of sector 95, a firing held back, a held entry, a capture at 2 ns from the one
before and one that the unit is too full for, a record pushed, and the counts. -/
theorem witness_StrikeActionsAndCaptures :
    ends (exec (.pinEdge 24) { strikes with axu.pin := [(24, { cfg := 2#32, edges := [{ time := 0, level := some true, slot := 32, ax := 15 }] })] })
      (fun t => (t.pin 24).out) = true ∧
    ends (exec (.flinePulse 95 63) { strikes with stk.pulses := [(95, 63, 0, 255)] }) (fun t => t.stk.lines = [(95, 63, 256 * 255)]) = true ∧
    ends (exec (.delayedFiring 0) { strikes with now := 1000, stk.allot := [(0, { base := 32, count := 16, rate := 1, us := 0, fired := 1, waiting := [(32, fline 0, 0)] })] })
      (fun t => (t.allot 0).delayed = 1#32 && (t.allot 0).waiting = []) = true ∧
    ends (exec (.captureEdge 63 true 512) { strikes with axu.cap := [(63, { cfg := BitVec.ofNat 32 (64 * 2 + 256 * 15 + 4096), lastEdge := some 0, held := [⟨15, 0#64, true, false⟩] })] })
      (fun t => (t.cap 63).held.length = 2 && (t.cap 63).mode = 0) = true ∧
    ends (exec (.captureEdge 63 true 511) { strikes with axu.cap := [(63, { cfg := BitVec.ofNat 32 (64 * 2 + 256 * 15 + 4096), lastEdge := some 0 })] })
      (fun t => (t.cap 63).held.length = 0) = true ∧
    ends (exec (.captureRecordPush 0) { strikes with
        qcu.queue := [(0, { kind := .event, sizeExp := 4, esize := 1, base := vaultBase, en := true })]
        vlt.page := [(0, { alloc := true })]
        axu.cap := [(0, { held := [⟨0, 5#64, false, false⟩] })] }) (fun t => (t.cap 0).held = [] && (t.cap 0).seq = 1#32) = true ∧
    ends (exec (.holdingBufferPush 0) { strikes with
        qcu.queue := [(0, { kind := .message, sizeExp := 4, base := vaultBase, en := true })]
        vlt.page := [(0, { alloc := true })]
        stk.allot := [(0, { buffer := [(0, List.replicate 16 5#8, 32, false)] })] }) (fun t => (t.allot 0).buffer = [] && (t.queue 0).count = 1) = true ∧
    ends (exec (.stkLateRead .belfry 0) { strikes with stk.allot := [(0, { late := 9#32 })] }) (fun t =>
      (t.allot 0).late = 0#32 && leNat t.readData = 9) = true ∧
    ends (exec (.stkDelayedRead .belfry 0) { strikes with stk.allot := [(0, { delayed := 9#32 })] }) (fun t => leNat t.readData = 9) = true ∧
    ends (exec (.stkDropRead .belfry 0) { strikes with stk.allot := [(0, { drop := 2#28, reason := 5#4 })] }) (fun t =>
      (t.allot 0).drop = 0#28 && leNat t.readData = 0x50000002) = true := by decide +kernel

/-! ### Network time and fabric -/

/-- Unit 0 is unset; unit 1 tracks, with `k` time-stamps queued, and axis 15 takes its time. -/
def timing (k : Nat) : State :=
  { up with
    now := 5000000000
    ptu := [(1, { st := .tracking, tsq := List.replicate k ⟨7#32, 1#16, 0#2, false⟩, lostcnt := 65535#16 })]
    axu.axis := [(15, { cfg := { en := true, src := 2#5 }, st := .running })] }

/-- MAC 1 has sent a frame whose time-stamp is due. -/
def sending (k : Nat) : State := { timing k with ser.mac := [(1, { stamps := [(3#16, false)] })] }

/-- R90 to R99: both units, the addend at both ends of its range and below it, a step at the edge of acceptance, a rate with and
without a slew, the hold timeout, time-stamps at 63 and at 64, the pops. -/
theorem witness_TimeUnitsFollowCommandsAndEvents :
    ends (exec (.ptpConfig 0) (cmd 0x0801 [(0x10, 4, 1), (0x14, 4, 9), (0x18, 4, 0x1FFFF)] up)) (fun t => (t.ptuAt 1).lat = 9#32) = true ∧
    ends (exec (.ptpStep 0) (cmd 0x0802 [(0x10, 4, 0), (0x14, 4, 999999999), (0x18, 8, 2 ^ 48 - 1), (0x30, 8, 0xFFBE76C9)] up)) (fun t =>
      (t.ptuAt 0).st = .tracking && (t.ptuAt 0).ns = 999999999) = true ∧
    status (exec (.ptpStep 0) (cmd 0x0802 [(0x30, 8, 0x100418937)] up)) = some 0 ∧
    status (exec (.ptpStep 0) (cmd 0x0802 [(0x30, 8, 0xFFBE76C8)] up)) ≠ some 0 ∧
    status (exec (.ptpSetRate 0) (cmd 0x0803 [(0x10, 4, 1), (0x18, 8, 0x100000001)] (timing 0))) = some 0 ∧
    ends (exec (.ptpSetRate 0) (cmd 0x0803 [(0x10, 4, 1), (0x18, 8, 0x100000001), (0x20, 8, 0x100000100), (0x28, 4, 1000)] (timing 0)))
      (fun t => (t.ptuAt 1).slewEnd = some 5000001064) = true ∧
    ends (exec (.ptpHoldover 0) (cmd 0x0804 [(0x10, 4, 1)] (timing 0))) (fun t => (t.ptuAt 1).st = .holdover && t.flt.raised.map (·.src) = [761]) = true ∧
    ends (exec (.ptpResetTime 0) (cmd 0x0805 [(0x10, 4, 1)] (timing 2))) (fun t =>
      (t.ptuAt 1).st = .unset && (t.ptuAt 1).tsq = [] && (t.axis 15).st = .disabled) = true ∧
    status (exec (.ptpQuery 0) (cmd 0x0806 [(0x10, 4, 1)] (timing 0))) = some 0 ∧
    ends (exec (.holdTimeout 1) (timing 0)) (fun t => (t.ptuAt 1).st = .holdover) = true ∧
    ends (exec (.slewEnd 1) { timing 0 with ptu := [(1, { base := 1#64, slewEnd := some 5000000000 })] }) (fun t => (t.ptuAt 1).addend = 1#64) = true ∧
    ends (exec (.txTimestamp 1) (sending 63)) (fun t => (t.ptuAt 1).tsq.length = 64 && (t.mac 1).stamps = []) = true ∧
    ends (exec (.txTimestamp 1) (sending 64)) (fun t => (t.ptuAt 1).ovf && (t.ptuAt 1).lostcnt = 0#16) = true ∧
    ends (exec (.ptuTsqPop .belfry 1) (timing 2)) (fun t => (t.ptuAt 1).tsq.length = 1 && leNat t.readData = 7) = true ∧
    ends (exec (.ptuTsqPop .belfry 1) (timing 0)) (fun t => leNat t.readData = 0) = true ∧
    ends (exec (.ptuTsqStatRead .belfry 1 false) { timing 0 with ptu := [(1, { ovf := true })] }) (fun t => !(t.ptuAt 1).ovf) = true := by decide +kernel

/-- PLL 23 of owner 0 holds its axis, which runs again; its user clock may reach the axis' highest rate times M / N. -/
def plls : State :=
  { up with
    fab.pll := [(23, { en := true, locked := true, axisLocked := true, axisHold := true, lossS := true, ax := 15 })]
    axu.axis := [(15, { cfg := { en := true, src := 4#5, rateMax := 0x0010000000000000#64 }, st := .running })] }

/-- R76, R114, R115, R118 to R121: an axis-locked PLL released, realigned, without lock, relocked, its flags cleared; a lock at a
rate above what user logic reaches is refused; the last segment of a column line in contention, and one past it. -/
theorem witness_PllsFollowAndContentionEnds :
    ends (exec (.axisLockPll 0) (cmd 0x0330 [(0x10, 4, 23), (0x14, 4, 15), (0x18, 4, 1), (0x1C, 4, 1), (0x20, 4, 0)] plls)) (fun t => !(t.fpll 23).axisLocked) = true ∧
    ends (exec (.axisLockPll 0) (cmd 0x0330 [(0x10, 4, 23), (0x14, 4, 15), (0x18, 4, 100), (0x1C, 4, 1048576), (0x20, 4, 1)] plls)) (fun t => (t.fpll 23).axisLocked) = true ∧
    status (exec (.axisLockPll 0) (cmd 0x0330 [(0x10, 4, 23), (0x14, 4, 15), (0x18, 4, 4096), (0x1C, 4, 1), (0x20, 4, 1)] plls)) ≠ some 0 ∧
    ends (exec (.pllAxisRealign 23) plls) (fun t => !(t.fpll 23).axisHold) = true ∧
    ends (exec (.fpllLossOfLock 23) plls) (fun t => !(t.fpll 23).locked && t.flt.raised.map (·.src) = [119]) = true ∧
    ends (exec (.fpllRelock 23) plls) (fun t => (t.fpll 23).locked) = true ∧
    ends (exec (.fpllFlagClear .belfry 23 0x100#32) plls) (fun t => !(t.fpll 23).lossS) = true ∧
    segmentKnown (1 + 32 * 23 + 1024 * 15) = true ∧ segmentKnown (1 + 32 * 24) = false ∧
    ends (exec (.buslineContention (BitVec.ofNat 15 (1 + 32 * 23 + 1024 * 15))) up) (fun t =>
      t.fab.busCount = 1#16 && t.flt.raised.map (·.src) = [160]) = true := by decide +kernel

/-- R104, R109, R433: sector 95 runs, its last cell and wire lie in it, and a clock edge with no element leaves it alone; under a
stopped sector nothing is clocked. -/
theorem witness_FabricRegistersTakeTheirValuesAtAnEdge :
    up.sectorRuns 95 = true ∧ ({ up with ckr.pwrSec := 0#96 } : State).sectorRuns 95 = false ∧
    (let c := 16 * (1152 * 767 + 1151) + 15; cellY c < 768 && sectorAt (cellX c) (cellY c) == 95 && !up.quadHeld (quadAt (cellX c) (cellY c))) = true ∧
    ((wirePlace 0).map fun p => sectorAt p.1 p.2) = some 0 ∧ quadSector (12287 / 32) = 95 := by decide +kernel

/-- R146, R149: the largest accumulator plus one wraps and sets OVF; the shifter clamps 2^23 to 2^23 − 1. -/
theorem test_slice : sliceFn 0x02 1#64 0x7FFFFFFFFFFFFFFF#64 0#64 0#64 false false = some (0x8000000000000000#64, true) := by decide +kernel

/-- R117, R433: under a stopped sector an edge changes nothing, whatever comes in. -/
theorem test_stopped_sector_has_no_edges :
    ends (exec (.fabricClockEdge 95 0 0#16 [(1#32, true)]) { up with ckr.pwrSec := 0#96 }) (fun t => t.fab = up.fab) = true := by decide +kernel

/-- A target request of sector 24 in service. -/
def atPort : State :=
  { up with noc.req := [(3, some { op := .read, src := 0, dst := sectorRouter 24, flow := 0, owner := 0, who := .belfry, addr := fabricBase + 24 * 2 ^ 24, len := 4, data := [], sink := .none, stage := .target, sent := true })] }

/-- R122 to R126: the longest read, for which the buffer has room, and one that finds 256 entries reserved; queue channels;
target answers; the mailbox channel of sector 24, bound to mailbox 4, and of a sector without one. -/
theorem witness_FabricPortsServeUserLogic :
    up.niCode (sectorRouter 24) = 1 ∧ up.portRoom 24 false 512 = true ∧
    ({ up with fab.sector := [(24, { reserved := 249 })] } : State).portRoom 24 false 512 = false ∧
    ends (exec (.fabricInitiatorRequest 24 0 false (BitVec.ofNat 48 vaultBase) 512 []) up) (fun t => (t.sector 24).reserved = 8) = true ∧
    ends (exec (.fabricQueuePush 24 0 (List.replicate 16 1#8)) { up with qcu.queue := [(0, { kind := .message, sizeExp := 4, base := vaultBase, en := true })], vlt.page := [(0, { alloc := true })] })
      (fun t => (t.queue 0).pidx = 1 && (t.sector 24).queueResp = [(.ok, [])]) = true ∧
    ends (exec (.fabricQueuePop 24 0) { up with qcu.queue := [(0, { kind := .message, sizeExp := 4, base := vaultBase, en := true })], vlt.page := [(0, { alloc := true })] })
      (fun t => (t.sector 24).queueResp.map (·.1) = [.empty]) = true ∧
    ends (exec (.targetResponse 24 3 0#4 [1#8, 2#8, 3#8, 4#8]) atPort) (fun t => (t.req 3).map (·.stage) = some (.answered .ok [1#8, 2#8, 3#8, 4#8])) = true ∧
    ends (exec (.targetResponse 24 3 12#4 []) atPort) (fun t => (t.req 3).map (·.stage) = some (.answered .error [0#8, 0#8, 0#8, 0#8])) = true ∧
    (atPort.atSector 24 3).isSome = true := by decide +kernel

/-- R123: a target request that has waited for exactly its limit, which is the image's. -/
theorem witness_TargetRequestTimesOut : ({ atPort with now := atPort.portLimit 24 } : State).now = 0 + atPort.portLimit 24 ∧
    (atPort.sector 24).frozen = false := ⟨(Nat.zero_add _).symm, by decide +kernel⟩

/-! ### Queues and dispatch -/

/-- Queue 7 of owner 0: kind `k`, 16 entries of 16 bytes in page 0 of the vault, `n` of them held. -/
def qat (k : QKind) (n : Nat) : State :=
  { up with
    qcu.queue := [(7, { kind := k, sizeExp := 4, base := vaultBase, en := true, pidx := n, context := if k = .task then 1 else 0 })]
    vlt.page := [(0, { alloc := true })] }

def entry (b : Byte) : List Byte := List.replicate 16 b

/-- R246 to R253: a push with room and into a full queue, a short entry, CONSUME of all, of one more and of none; the held push
accepted and discarded. -/
theorem witness_DoorbellsAndHeldPushes :
    ends (exec (.doorbellPush (.engine 0) 7 (entry 5#8)) (qat .message 15)) (fun t => (t.queue 7).count = 16) = true ∧
    ends (exec (.doorbellPush (.engine 0) 7 (entry 5#8)) (qat .message 16)) (fun t => t.qcu.held.length = 1 && (t.queue 7).count = 16) = true ∧
    ends (exec (.doorbellPush (.engine 0) 7 [5#8]) (qat .message 0)) (fun t => (t.queue 7).count = 0 && t.flt.raised.map (·.src) = [656]) = true ∧
    ends (exec (.consume (.engine 0) 7 3#32) (qat .message 3)) (fun t => (t.queue 7).count = 0 && t.flt.raised = []) = true ∧
    ends (exec (.consume (.engine 0) 7 4#32) (qat .message 3)) (fun t => (t.queue 7).count = 0 && t.flt.raised.map (·.src) = [656]) = true ∧
    ends (exec (.consume (.engine 0) 7 0#32) (qat .message 3)) (fun t => (t.queue 7).count = 3 && t.flt.raised.map (·.src) = [656]) = true ∧
    ends (exec (.doorbellPush (.pf 0) 7 (entry 5#8)) { qat .message 0 with qcu.held := [{ who := .initiator (.pf 0), q := 8, owner := 0, data := [], since := 0 }] })
      (fun t => t.pce.posted.length = 1) = true ∧
    ends (exec (.queuePushAccept (.unit 0) 7 (entry 5#8)) (qat .event 0)) (fun t => (t.queue 7).count = 1) = true ∧
    ends (exec (.heldPushRetry 7) { qat .message 0 with qcu.held := [{ who := .engine 0, q := 7, owner := 0, data := entry 5#8, since := 0 }] })
      (fun t => t.qcu.held = [] && (t.queue 7).count = 1) = true ∧
    ends (exec .hostPushDiscard { qat .message 16 with now := 1023000000, qcu.limit := 1023#10, qcu.held := [{ who := .initiator (.pf 0), q := 7, owner := 0, data := entry 5#8, since := 0 }] })
      (fun t => t.qcu.held = [] && t.qcu.hostDrop = 1#32) = true := by decide +kernel

/-- R247, R248: the last index and the wrap of a queue of 16. -/
theorem witness_PushAndPopMoveOneIndex :
    ((qat .message 15).qPush 7 (entry 1#8)).1 = .ok ∧ ((qat .message 16).qPush 7 (entry 1#8)).1 = .full ∧
    (((qat .message 15).qPush 7 (entry 1#8)).2.qPop 7).1 = .ok ∧
    (({ qat .message 0 with qcu.queue := [(7, { kind := .message, sizeExp := 4, base := vaultBase, en := true, pidx := 31, cidx := 31 })] } : State).qPush 7 (entry 1#8)).2.queue 7 =
      { kind := .message, sizeExp := 4, base := vaultBase, en := true, pidx := 0, cidx := 31 } := by decide +kernel

/-- R250, R270: the pop window on an entry just pushed; the counts. -/
theorem witness_PopWindowAndCountsRead :
    ends (exec (.popWindowPop .belfry 15) (up.modWin 15 fun w => { w with sel := 7 })) (fun t => (t.win 15).caps.map (·.2.err) = [true]) = true ∧
    ends (exec (.popWindowPop .belfry 0) (((qat .message 0).qPush 7 (entry 9#8)).2.modWin 0 fun w => { w with sel := 7 }))
      (fun t => (t.win 0).caps.map (·.2.valid) = [true] && leNat t.readData = 0x09090909 && (t.queue 7).count = 0) = true ∧
    ends (exec (.qcuDbdropRead .belfry 0) { up with qcu.win := [(0, { dbdrop := 3#32 })] }) (fun t => leNat t.readData = 3 && (t.win 0).dbdrop = 0#32) = true ∧
    ends (exec (.tduGrpMissRead .belfry 15) { up with tdu.group := [(15, { misses := 4#32 })] }) (fun t => leNat t.readData = 4 && (t.grp 15).misses = 0#32) = true ∧
    ends (exec (.qcuHostdropRead .belfry) { up with qcu.hostDrop := 2#32 }) (fun t => leNat t.readData = 2 && t.qcu.hostDrop = 0#32) = true := by decide +kernel

/-- Group 0 of engine 0 on axis 15, which has reached 100; context 1 with task queue 7, completion queue none. -/
def tasks (n : Nat) : State :=
  { qat .task n with
    axu.axis := [(15, { cfg := { en := true, src := 4#5 }, st := .running, pos := 100#64 })]
    tdu.group := [(0, { defined := true, engines := [0], ax := 15 })]
    tdu.ctx := [(1, { valid := true, group := 0, budget := 100, period := 1#64, deadline := 50#64, taskq := 7, reserve := 1 })] }

/-- R247, R257, R258, R267 to R272: the smallest and the largest queue, one named by a context that may not be freed, groups and
contexts made and ended, observation begun and read. -/
theorem witness_QueueGroupAndContextCommandsComplete :
    status (exec (.queueAlloc 0) (cmd 0x0501 [(0x10, 1, 1), (0x12, 1, 4), (0x18, 8, vaultBase)] { up with vlt.page := [(0, { alloc := true })] })) = some 0 ∧
    status (exec (.queueAlloc 0) (cmd 0x0501 [(0x10, 1, 3), (0x11, 1, 1), (0x12, 1, 11), (0x18, 8, vaultBase + 65536)] { qat .message 0 with vlt.page := [(0, { alloc := true }), (1, { alloc := true })] })) = some 0 ∧
    status (exec (.queueAlloc 0) (cmd 0x0501 [(0x10, 1, 1), (0x12, 1, 21), (0x18, 8, vaultBase)] up)) = some 6 ∧
    status (exec (.queueFree 0) (cmd 0x0502 [(0x10, 4, 7)] (qat .message 0))) = some 0 ∧
    status (exec (.queueFree 0) (cmd 0x0502 [(0x10, 4, 7)] (tasks 0))) = some 6 ∧
    resp (exec (.queueQuery 0) (cmd 0x0503 [(0x10, 4, 7)] (qat .message 3))) 0x20 4 = some 3 ∧
    ends (exec (.groupCreate 0) (cmd 0x0510 [(0x10, 8, 2), (0x18, 8, 2 ^ 63), (0x20, 4, 15)] (tasks 0))) (fun t => (t.grp 1).engines.map (·.val) = [1, 127]) = true ∧
    status (exec (.groupDelete 0) (cmd 0x0511 [(0x10, 4, 0)] { tasks 0 with tdu.ctx := [] })) = some 0 ∧
    status (exec (.groupDelete 0) (cmd 0x0511 [(0x10, 4, 0)] (tasks 0))) = some 6 ∧
    ends (exec (.contextAlloc 0) (cmd 0x0520 [(0x14, 4, 8191), (0x18, 4, 0xFFFFFF), (0x1C, 4, 7), (0x20, 8, 5), (0x28, 8, 5), (0x30, 4, 0x80000000), (0x40, 4, 128)]
      { tasks 0 with tdu.ctx := [], qcu.queue := [(7, { kind := .task, sizeExp := 4, base := vaultBase, en := true })] })) (fun t =>
        (t.ctx 1).budget = 0xFFFFFF && (t.queue 7).context = 1) = true ∧
    ends (exec (.contextFree 0) (cmd 0x0521 [(0x10, 4, 1)] (tasks 0))) (fun t => !(t.ctx 1).valid && (t.queue 7).context = 0) = true ∧
    status (exec (.contextFree 0) (cmd 0x0521 [(0x10, 4, 1)] (tasks 1))) = some 6 ∧
    status (exec (.contextQuery 0) (cmd 0x0522 [(0x10, 4, 1)] (tasks 0))) = some 0 ∧
    ends (exec (.observeMode 0) (cmd 0x0530 [(0x10, 4, 2), (0x14, 4, 1), (0x1C, 4, 1), (0x20, 4, 7)] (tasks 0))) (fun t => t.tdu.obs.mode = 2 && t.tdu.obs.queues = [7]) = true ∧
    ends (exec (.observeMode 0) (cmd 0x0530 [(0x10, 4, 1), (0x18, 4, 7)] (qat .event 0))) (fun t => t.tdu.obs.mode = 1) = true ∧
    ends (exec (.observeMode 0) (cmd 0x0530 [] { up with tdu.obs := { mode := 2 } })) (fun t => t.tdu.obs.mode = 0) = true ∧
    resp (exec (.statsRead 0) (cmd 0x0531 [] { tasks 0 with now := 800, tdu.obs := { mode := 2, groups := 1#16, busy := [(0, 400)] } })) 0x18 8 = some 1000 ∧
    status (exec (.statsRead 0) (cmd 0x0531 [(0x10, 4, 1)] { up with tdu.obs := { mode := 2, queues := [7], high := [(0, 5)] } })) = some 0 ∧
    status (exec (.statsRead 0) (cmd 0x0531 [(0x10, 4, 2), (0x14, 4, 15)] { up with tdu.obs := { mode := 2, groups := 0x8000#16 } })) = some 0 := by decide +kernel

/-- Task queue 7 with one token whose RELEASE is `rel`. -/
def queued (rel : Nat) : State := ((tasks 0).qPush 7 (leBytes 8 rel ++ leBytes 6 0 ++ leBytes 2 1)).2

/-- Two tokens of group 0 in the ready store. -/
def ready : State :=
  { tasks 0 with
    tdu.ready := [⟨1, 0#64, 90#64, 0#48, 0, false, 0⟩, ⟨1, 0#64, 80#64, 0#48, 1, false, 0⟩]
    eng := [(0, { st := .waiting })] }

/-- R259 to R264: a release at the axis's position and one ahead of it; the earlier deadline is handed over; a deadline passed. -/
theorem witness_TokensAreSelectedAndDispatched :
    ends (exec (.tokenRelease 7) (queued 100)) (fun t => t.tdu.ready.map (·.deadline) = [150#64]) = true ∧
    ends (exec (.tokenRelease 7) (queued 101)) (fun t => t.tdu.ready = []) = true ∧
    (ready.selected 0).map (·.arrival) = some 1 ∧
    ends (exec (.tokenHandover 0) ready) (fun t => t.tdu.ready.map (·.arrival) = [0] && (tget t.tdu.running none 0).isSome) = true ∧
    ends (exec (.deadlineMiss 1) ready) (fun t => (t.grp 0).misses = 1#32 && (t.flt.raised.map (·.src)) = [672]) = true := by decide +kernel

/-- R206, R224, R227: the first and the last engine started and stopped, an engine queried, a word remapped with a spare left. -/
theorem witness_EngineControlAndRemapComplete :
    ends (exec (.engControlStart 0) (cmd 0x0241 [(0x10, 8, 1), (0x18, 8, 2 ^ 63)] up)) (fun t => (t.engAt 127).st = .running && (t.engAt 0).st = .running && (t.engAt 1).st = .stopped) = true ∧
    ends (exec (.engControlStop 0) (cmd 0x0241 [(0x10, 8, 1), (0x20, 4, 1)] { up with eng := [(0, { st := .running })] })) (fun t => (t.engAt 0).st = .stopped) = true ∧
    status (exec (.engQuery 0) (cmd 0x0242 [(0x10, 4, 127)] up)) = some 0 ∧
    ends (exec (.engineRemap 0 .x 8191#16) { up with eng := [(0, { marks := [(8192 + 8191, .poisoned)], rmtX := [1#13, 2#13, 3#13] })] }) (fun t => (t.engAt 0).rmtX.length = 4) = true ∧
    ends (exec (.engineRemap 0 .x 8191#16) { up with eng := [(0, { marks := [(8192 + 8191, .poisoned)], rmtX := [1#13, 2#13, 3#13, 4#13] })] }) (fun t => (t.engAt 0).fenced || (t.engAt 0).fencing) = true := by decide +kernel

/-! ### The mesh and its contracts -/

/-- A flow from the fabric port of sector 24 into vault port 5. -/
def flow : Flow :=
  { src := some (sectorRouter 24), kits := 0#16, dst := .ni 5, num := 1, write := false, max := 64, rate := 1, burst := 64
    want := 0, sdecl := 0, bound := 5000, tokens := 64000, tokenTime := 0 }

/-- Contract 0 of owner 0 in a state of its own. -/
def held (st : ConState) : State :=
  { up with ckr.ref := 1, noc.contract := [(0, some { owner := 0, st := st, notify := none, group := 0, flows := [flow], ctxs := [], revalAt := some 0 })] }

/-- R291 to R299: a contract of one flow, one of none and one of five flows; close, query and the route between opposite corners. -/
theorem witness_ContractsLinksAndPowerDown_ContractCommandsComplete :
    status (exec (.contractOpen 0) (cmd 0x0401 [(0x10, 4, 0x80000000), (0x14, 1, 1), (0x18, 4, 0x05000000 + sectorRouter 24 * 256),
      (0x1C, 1, 1), (0x1E, 2, 64), (0x20, 4, 1), (0x24, 4, 64)] { up with ckr.ref := 1 })) = some 0 ∧
    ends (exec (.contractOpen 0) (cmd 0x0401 [(0x10, 4, 7)] { qat .message 0 with ckr.ref := 1 })) (fun t =>
      (t.con 0).map (fun k => (k.st, k.notify)) = some (.admitted, some 7)) = true ∧
    status (exec (.contractOpen 0) (cmd 0x0401 [(0x10, 4, 0x80000000), (0x14, 1, 5)] { up with ckr.ref := 1 })) = some 6 ∧
    ends (exec (.contractClose 0) (cmd 0x0402 [] (held .admitted))) (fun t => (t.con 0).isNone) = true ∧
    resp (exec (.contractQuery 0) (cmd 0x0403 [] (held .admitted))) 0x10 4 = some (43 * 2 ^ 16 + 5 * 2 ^ 24) ∧
    status (exec (.contractQuery 0) (cmd 0x0403 [] (held .demoted))) = some 0 ∧
    resp (exec (.nocRoute 0) (cmd 0x0410 [(0x11, 1, 139)] up)) 0x10 4 = some (up.path 0 139 |>.map List.length |>.getD 0) ∧
    up.path 0 139 = some [0, 1, 2, 3, 4, 5, 6, 7, 8, 9, 10, 11, 12, 13, 27, 41, 55, 69, 83, 97, 111, 125, 139] := by decide +kernel

/-- A request of sector 24 at stage `st`. -/
def mesh (st : ReqStage) (a n : Nat) (op : NocOp) : Req :=
  { op := op, src := sectorRouter 24, dst := 5, flow := 1, owner := 0, who := .sector 24, addr := a, len := n
    data := if op = .write then List.replicate n 7#8 else [], stage := st, sent := true }

/-- Request 0 is the only one. -/
def one (r : Req) (s : State) : State := { s with noc.req := [(0, some r)], noc.nextReq := 1 }

/-- R285 to R288, R296: a contract readmitted; a link failed on a request's response route and one beside it; header findings; a change of routes
begun, flipped and drained; the last link fenced. -/
theorem witness_ContractsLinksAndPowerDown_LinksAndRoutesChange :
    ends (exec (.contractRevalidate 0) (held .suspended)) (fun t => (t.con 0).map (fun k => (k.st, k.revalAt)) = some (.admitted, none)) = true ∧
    neighbour 0 2 = none ∧ neighbour 125 0 = some 139 ∧ neighbour 139 3 = some 138 ∧ neighbour 6 3 = some 5 ∧
    up.usesLink (mesh .mesh vaultBase 8 .read) 47 33 = true ∧ up.usesLink (mesh .mesh vaultBase 8 .read) 5 6 = false ∧
    ends (exec (.linkFailure 5 3) (one (mesh .mesh vaultBase 8 .read) up)) (fun t => (t.req 0).map (·.stage) = some (.answered .resetAbort [])) = true ∧
    ends (exec (.linkFailure 5 1) (one (mesh .mesh vaultBase 8 .read) up)) (fun t => (t.req 0).map (·.stage) = some .mesh) = true ∧
    ends (exec (.routerHeader 5 3 0 .uncorrectable) (one (mesh .mesh vaultBase 8 .read) up)) (fun t => (t.rtr 5).hdrUe = 1#8 && t.flt.raised.map (·.src) = [193]) = true ∧
    ends (exec (.routerHeader 0 1 0 .corrected) (one (mesh .mesh vaultBase 8 .read) { up with noc.rtr := [(0, { hdrCe := 0xFFFF#16 })] }))
      (fun t => (t.rtr 0).hdrCe = 0xFFFF#16) = true ∧
    ends (exec (.routingChange [(0, 139, 2)]) up) (fun t => t.noc.pendingFlip && (t.routePort true 0 139) = some 2) = true ∧
    ends (exec .epochFlip { up with noc.changing := true, noc.pendingFlip := true, now := 7 }) (fun t => t.noc.epoch && t.noc.flipAt = 7) = true ∧
    ends (exec (.epochDrainEnd 5#16) { up with noc.changing := true }) (fun t => !t.noc.changing && t.noc.changes = 1#16) = true ∧
    ends (exec .epochDrainTimeout { up with noc.changing := true, now := 4000 }) (fun t => t.flt.raised.map (·.src) = [197]) = true ∧
    ends (exec (.linkFence 139 3 []) up) (fun t => (t.rtr 139).fence = 8#4 && (t.rtr 138).fence = 2#4) = true := by decide +kernel

/-- R290, R433: the last router's NI drained with an endpoint powering down behind it; 10 ms without an end. -/
theorem witness_ContractsLinksAndPowerDown_DrainedEndpointsPowerDown :
    ends (exec (.niDrained 139) { up with noc.rtr := [(139, { drainSince := some 0 })] }) (fun t => (t.rtr 139).ni = some 3) = true ∧
    powerRouter 7 0 = sectorRouter 0 ∧
    ends (exec (.niDrained 15) { up with noc.rtr := [(15, { drainSince := some 0 })], ckr.powering := some (7, 0, 0) }) (fun t =>
      (t.rtr 15).ni = some 0 && !t.powerOn 7 0 && t.ckr.powering.isNone) = true ∧
    ends (exec (.drainTimeout 15) { one { mesh .mesh vaultBase 8 .read with src := 15 } up with noc.rtr := [(15, { drainSince := some 0 })], now := 10000000 }) (fun t =>
      t.flt.raised.map (·.src) = [75] && (t.req 0).map (·.stage) = some (.answered .resetAbort [])) = true := by decide +kernel

/-- R6, R275, R280 to R292: a vault read reaches its target, an absent target's proxy answers, poisoned data is answered POISONED, and
a flow with just enough tokens releases a request. -/
theorem witness_RequestsReachTheirTargets :
    up.place vaultBase 8 = .vault ∧ up.proxyAnswer (mesh .mesh vaultBase 8 .read) = none ∧
    ends (exec (.nocRequest 0 0 0) (one (mesh .mesh vaultBase 8 .read) up)) (fun t => (t.req 0).map (·.stage) = some .target) = true ∧
    ends (exec (.nocRequest 0 0 0) (one (mesh .mesh (fabricBase + 2 ^ 24 - 8) 8 .write) up)) (fun t => (t.req 0).map (·.stage) = some .target) = true ∧
    ends (exec (.nocRequest 0 3 1) (one (mesh .mesh vaultBase 8 .write) up)) (fun t =>
      (t.req 0).map (·.stage) = some (.answered .poisoned []) && (t.rtr 5).dataUe = 1#16 && (t.rtr 5).dataCe = 1#16) = true ∧
    up.place 0x040000000000 4 = .ctl 0 ∧
    up.proxyAnswer { mesh .mesh (fabricBase + 24 * 2 ^ 24) 8 .read with dst := sectorRouter 24 } = none ∧
    ({ up with noc.rtr := [(5, { proxy := some 2 })] } : State).proxyAnswer (mesh .mesh vaultBase 8 .read) = some .domainOff ∧
    ({ up with noc.rtr := [(5, { proxy := some 1 })] } : State).proxyAnswer (mesh .mesh vaultBase 8 .read) = some .absent ∧
    ends (exec (.flowRelease 0) (one (mesh .waiting vaultBase 64 .read) (held .admitted))) (fun t =>
      (t.req 0).map (fun q => (q.stage, q.vc, q.dst)) = some (.mesh, 2, 5) &&
      (t.con 0).map (fun k => k.flows.map (·.tokens)) = some [0]) = true := by decide +kernel

/-- R280 to R284: a response behind an earlier one of its flow waits; alone it is delivered, poisoned where its check fails; a FENCE. -/
theorem witness_ResponsesKeepFlowOrder :
    ends (exec (.nocResponse 0 0 0) (one { mesh (.answered .ok [1#8]) vaultBase 1 .read with sink := .fabric 24 } up)) (fun t =>
      (t.sector 24).responses = [(1, .ok, [1#8])] && (t.req 0).isNone) = true ∧
    ends (exec (.nocResponse 0 0 1) (one { mesh (.answered .ok [1#8]) vaultBase 1 .read with sink := .fabric 24 } up)) (fun t =>
      (t.sector 24).responses = [(1, .poisoned, [1#8])]) = true ∧
    ends (exec (.nocResponse 1 0 0) { up with noc.req := [(0, some (mesh .mesh vaultBase 8 .read)), (1, some { mesh (.answered .ok []) vaultBase 8 .write with sink := .fabric 24 })] })
      (fun t => (t.req 1).isSome && (t.sector 24).responses = []) = true ∧
    ends (exec (.fence 0) (one { mesh .waiting 0 0 .fence with sink := .fabric 24 } up)) (fun t => (t.sector 24).responses = [(1, .ok, [])]) = true := by decide +kernel

/-! ### The vault -/

/-- Owner 0 has pages 0 and 511 of the vault, of which some words are written. -/
def pages : State :=
  { up with
    vlt.page := [(0, { alloc := true }), (511, { alloc := true })]
    vlt.word := [(0, .clean), (1, .clean), (4095, .clean), (4096, .clean)], vlt.scrubEn := true }

/-- R303, R309: a write across two words reads back; the last byte of a page, and one of a page that is the owner's only without the secure attribute. -/
theorem witness_VaultReadsWhatWasWritten :
    Memory.wf pages = true ∧ (pages.vaultWrite (.engine 0) 0 14 [1#8, 2#8, 3#8]).1 = .ok ∧
    ((pages.vaultWrite (.engine 0) 0 14 [1#8, 2#8, 3#8]).2.vaultRead (.engine 0) 0 12 6).2.1 = [0#8, 0#8, 1#8, 2#8, 3#8, 0#8] ∧
    (pages.vaultWrite (.engine 0) 0 (2 ^ 25 - 1) [9#8]).1 = .notOwner ∧
    (pages.vaultWrite (.engine 0) 0 (65536 - 1) [9#8]).1 = .ok ∧ (pages.vaultWrite (.engine 0) 1 (65536 - 1) [9#8, 9#8]).1 = .notOwner := by decide +kernel

/-- R303 to R311: a read and a write in service at a vault port; side channel reads, writes of two lanes, a collision, a word that is
not the kit's. -/
theorem witness_VaultAccessesAndCareTakePlace_VaultAccessesComplete :
    ends (exec (.vaultAccess 0 .clean) (one { mesh .target (vaultBase + 8) 8 .write with owner := 0 } pages)) (fun t =>
      (t.req 0).map (·.stage) = some (.answered .ok []) && rdBytes t.vlt.mem 8 8 = List.replicate 8 7#8) = true ∧
    ends (exec (.vaultAccess 0 .clean) (one (mesh .target vaultBase 1 .read) (pages.vaultWrite .belfry 0 0 [5#8]).2)) (fun t =>
      (t.req 0).map (·.stage) = some (.answered .ok [5#8])) = true ∧
    ends (exec (.vaultAccess 0 .clean) (one (mesh .target vaultBase 1 .write) { pages with vlt.locks := [(0, .engine 3, 0)] })) (fun t =>
      (t.req 0).map (·.stage) = some .target) = true ∧
    ends (exec (.vaultSideChannelAccess (.kit 3) 0#21 true 3#16 0x0201#128 false) pages) (fun t => rdBytes t.vlt.mem 0 3 = [1#8, 2#8, 0#8]) = true ∧
    ends (exec (.vaultSideChannelAccess (.sector 0) 0#21 true 3#16 0x0201#128 true) pages) (fun t => t.vlt.mem = [] && t.vlt.collide = 1#32) = true ∧
    ends (exec (.vaultSideChannelAccess (.sector 0) 0x10#21 false 0#16 0#128 false) pages) (fun t => t.flt.raised = []) = true ∧
    ends (exec (.vaultSideChannelAccess (.kit 0) 0x10000#21 false 0#16 0#128 false)
      { up with vlt.page := [(1, { alloc := true, owner := 1 })] }) (fun t => t.flt.raised.map (·.src) = [198]) = true := by decide +kernel

/-- A vault whose word 0 is in state `w`. -/
def word0 (w : WordState) : State := { pages with vlt.word := [(0, w)], vlt.bank := [(0, { pending := some 0 })] }

/-- R312 to R316: the wipe's end, a scrub read of the first word, its write back, the last spare and none left, a page cleared. -/
theorem witness_VaultAccessesAndCareTakePlace_VaultCareTakesPlace :
    vaultWordAt 0 0 = 0 ∧ vaultWordAt 63 32767 = 0x1FFFFF ∧ vaultWordAt 4 0 = 0x20000 ∧
    ends (exec .secureWipeComplete { up with vlt.wiping := true, vlt.wipeWritten := true }) (fun t => t.vlt.wipedS && !t.vlt.wiping) = true ∧
    ends (exec (.vaultScrubRead 0 0 .corrected) (word0 .clean)) (fun t => t.wordState 0 = .correctable && t.vlt.ce = 1#32 && t.flt.raised.map (·.src) = [448]) = true ∧
    ends (exec (.vaultScrubRead 0 0 .uncorrectable) (word0 .clean)) (fun t => t.wordState 0 = .poisoned && t.vlt.ue = 1#32 && t.flt.raised.map (·.src) = [451]) = true ∧
    ends (exec (.vaultScrubWriteback 0 0) (word0 .correctable)) (fun t => t.wordState 0 = .clean && (t.bankScrub 0).pending.isNone) = true ∧
    ends (exec (.bankStarved 63) up) (fun t => t.vlt.starvedBank = 63#6 && t.flt.raised.map (·.src) = [455]) = true ∧
    ends (exec (.vaultRemap 0#21) { word0 .poisoned with vlt.remap := (List.range 31).map (· + 1) }) (fun t => t.vlt.remap.length = 32 && !t.vlt.remapFull) = true ∧
    ends (exec (.vaultRemap 0#21) { word0 .poisoned with vlt.remap := (List.range 32).map (· + 1) }) (fun t => t.vlt.remap.length = 32 && t.vlt.remapFull) = true ∧
    ends (exec .secureWipe { pages with vlt.wiping := true, vlt.mem := [⟨0x1DFFFFF, 3#8⟩, ⟨0x1E00000, 1#8⟩] }) (fun t => t.vlt.mem = [⟨0x1DFFFFF, 3#8⟩] && t.vlt.wipeWritten) = true ∧
    ends (exec (.vaultPageCleared 511) { up with vlt.page := [(511, { clearing := true })], vlt.mem := [⟨511 * 65536 - 1, 3#8⟩, ⟨511 * 65536, 4#8⟩] }) (fun t =>
      !(t.vpage 511).clearing && t.vlt.mem = [⟨511 * 65536 - 1, 3#8⟩]) = true := by decide +kernel

/-- R301, R319: one page, the whole secure part for an owner without the secure attribute, pages freed, the scrubber's settings. -/
theorem witness_VaultCommandsComplete :
    ends (exec (.vaultAlloc 0) (cmd 0x0640 [(0x14, 4, 1)] pages)) (fun t => (t.vpage 1).alloc && rdLE (t.box 0).resp 0x10 4 = 1) = true ∧
    status (exec (.vaultAlloc 0) (cmd 0x0640 [(0x10, 4, 2), (0x14, 4, 32)] up)) = some 5 ∧
    status (exec (.vaultAlloc 0) (cmd 0x0640 [(0x10, 4, 1), (0x14, 4, 448)] up)) = some 0 ∧
    ends (exec (.vaultFree 0) (cmd 0x0641 [(0x10, 4, 511), (0x14, 4, 1)] pages)) (fun t => (t.vpage 511).clearing && t.vlt.freeing.length = 1) = true ∧
    status (exec (.vaultQuery 0) (cmd 0x0642 [] pages)) = some 0 ∧
    ends (exec (.vaultConfig 0) (cmd 0x0643 [(0x10, 4, 0), (0x14, 4, 16)] pages)) (fun t => t.vlt.div = 16#5 && !t.vlt.scrubEn) = true := by decide +kernel

/-! ### DRAM and its encryption -/

/-- Region 0 of owner 0: 1 MB at address 0 on port 0, with range `e`. -/
def dram (e : Option (Fin 8)) : State :=
  { up with
    dram.region := [(0, { defined := true, size := 2 ^ 20, ports := 1#8, enc := e })]
    dram.port := [(0, { st := .ready })]
    mxe.range := [(0, { keyed := true, key := 5#256, region := e.map fun _ => 0 })] }

/-- R328 to R330: the last bytes of the region read back; one more byte is refused. -/
theorem witness_ProtectedDramKeepsContents_DramReadsWhatWasWritten :
    Memory.wf (dram none) = true ∧ (dram none).regionAt (2 ^ 20 - 2) = some 0 ∧
    ((dram none).dramWrite (.engine 0) 0 (2 ^ 20 - 2) [1#8, 2#8]).1 = .ok ∧
    (((dram none).dramWrite (.engine 0) 0 (2 ^ 20 - 2) [1#8, 2#8]).2.dramRead (.engine 0) 0 (2 ^ 20 - 3) 3).2.1 = [0#8, 1#8, 2#8] ∧
    ((dram none).dramWrite (.engine 0) 0 (2 ^ 20 - 2) [1#8, 2#8, 3#8]).1 = .unmapped := by decide +kernel

/-- R353 to R356: a request for a protected region that waits, an integrity failure of it, and a line whose minor counter is spent. -/
theorem witness_ProtectedDramKeepsContents_ProtectedRequestsAreServed :
    (up.variant.mxe && ((one (mesh .target 0 64 .read) (dram (some 0))).mxeWaiting 0 .read).isSome) = true ∧
    ends (exec (.mxeRead 0 .treeFail) (one (mesh .target 0 64 .read) (dram (some 0)))) (fun t =>
      (t.range 0).fail = 1#32 && t.flt.raised.map (·.src) = [392]) = true ∧
    ends (exec (.mxeRead 0 .memError) (one (mesh .target 0 64 .read) (dram (some 0)))) (fun t => (t.dport 0).st = .frozen) = true ∧
    ends (exec (.mxeWrite 0 .ok) (one (mesh .target 0 64 .write) { dram (some 0) with
      mxe.range := [(0, { keyed := true, minor := [(0, 127#7)] })], mxe.reenc := List.replicate 16 { range := 1, page := 0, old := 0#64, done := 0#64 } }))
      (fun t => t.flt.raised.map (·.src) = [410]) = true ∧
    ends (exec (.pageReencrypt 0 0) { dram (some 0) with mxe.reenc := [{ range := 1, page := 0, old := 0#64, done := 0#64 }] }) (fun t => t.mxe.reenc.length = 1) = true ∧
    (dram (some 0)).mxeMustWait 0 0 = false := by decide +kernel

/-- R349, R355, R361: the last range that a command may name, deleted and queried; a cache line written back and one lost. -/
theorem witness_RangeAndDramCommandsComplete_RangesAndCounterCacheComplete :
    status (exec (.mxeRangeCreate 0) (cmd 0x0620 [(0x10, 1, 6)] up)) = some 0 ∧
    status (exec (.mxeRangeCreate 0) (cmd 0x0620 [(0x10, 1, 7)] up)) = some 6 ∧
    status (exec (.mxeRangeDelete 0) (cmd 0x0621 [] (dram none))) = some 0 ∧
    status (exec (.mxeQuery 0) (cmd 0x0622 [(0x10, 1, 7)] (dram none))) = some 0 ∧
    ends (exec (.counterCacheWriteback 8191) { dram (some 0) with mxe.cache := [(8191, some (0, 3, true))] }) (fun t => tget t.mxe.cache none 8191 = some (0, 3, false)) = true ∧
    ends (exec (.counterCacheError 8191 1 .uncorrectable) { dram (some 0) with mxe.cache := [(8191, some (0, 3, true))] }) (fun t =>
      (t.range 0).failed && t.flt.raised.map (·.src) = [400]) = true ∧
    ends (exec (.counterCacheError 0 1 .corrected) up) (fun t => t.flt.raised.map (·.src) = [408]) = true := by decide +kernel

/-- Port 0 of the region's state, changed. -/
def port0 (f : DPort → DPort) : State := let s := dram none; s.setDport 0 (f (s.dport 0))

/-- R324 to R339: debts from none and at the limit, hot and cool readings, the 64th correction of a device, training, the patrol. -/
theorem witness_DramPortsWorkFreezeAndRecover_DramPortsWork :
    ends (exec (.dramRequest 0 .clean) (one (mesh .target 0 64 .write) (dram none))) (fun t => (t.req 0).map (·.stage) = some (.answered .ok [])) = true ∧
    ends (exec (.refreshInterval 0) (port0 fun p => { p with debt := [(0, 4)] })) (fun t => (t.dport 0).debtOf 0 = 4 && (t.dport 0).debtOf 1 = 1) = true ∧
    ends (exec (.refsb 0 0 3) (port0 fun p => { p with debt := [(3, 3)] })) (fun t => (t.dport 0).debtOf 3 = 2 && t.flt.raised.map (·.src) = [263]) = true ∧
    ends (exec (.refsb 0 0 3) (port0 fun p => { p with debt := [(3, 2)] })) (fun t => (t.dport 0).debtOf 3 = 1 && t.flt.raised = []) = true ∧
    ends (exec (.mr4Reading 0 3#3) (dram none)) (fun t => (t.dport 0).rate2x && t.flt.raised.map (·.src) = [262]) = true ∧
    ends (exec (.mr4Reading 0 2#3) (port0 fun p => { p with rate2x := true, cool := 1 })) (fun t => !(t.dport 0).rate2x) = true ∧
    ends (exec (.mr4Reading 0 2#3) (port0 fun p => { p with rate2x := true })) (fun t => (t.dport 0).rate2x) = true ∧
    ends (exec (.deviceErase 0 1 9) (port0 fun p => { p with devsec := [(19, (0, 64))] })) (fun t => (t.dport 0).erased1 = 9#4 && (t.flt.raised.map (·.src)).contains 257) = true ∧
    ends (exec (.deviceErase 0 1 9) (port0 fun p => { p with devsec := [(19, (0, 63))] })) (fun t => (t.dport 0).erased1 = 0xF#4) = true ∧
    ends (exec (.retrainingSlot 0 true) (dram none)) (fun t => (t.dport 0).retrains = 1 && t.flt.raised.map (·.src) = [265]) = true ∧
    (dram none).portGlobal 0 (2 ^ 20 - 64) = some (0, 2 ^ 20 - 64) ∧
    ends (exec (.patrolRead 0 16383#30 .uncorrectable) (dram none)) (fun t => (t.dport 0).st = .frozen && (t.dport 0).freezeCause = 3) = true ∧
    ends (exec (.patrolRead 0 16383#30 .clean) (dram none)) (fun t => (t.dport 0).patrol = 16384) = true ∧
    ends (exec (.patrolLate 0) { dram none with now := 26 * 3600 * 10 ^ 9 * 11 }) (fun t => t.flt.raised.map (·.src) = [266]) = true ∧
    ends (exec (.portTraining 0 none) (port0 fun p => { p with st := .training })) (fun t => (t.dport 0).st = .failed && t.flt.raised.map (·.src) = [264]) = true ∧
    ends (exec (.portTraining 7 (some ⟨true, true, 6#8, 100#16, 560#16, 5#16⟩)) up) (fun t => (t.dport 7).st = .ready && (t.dport 7).b1x = 480#16) = true := by decide +kernel

/-- R340 to R343: a freeze with a request pending, two alerts 1 ms apart and one just less, a port reset that succeeds and one that
fails, a wake from self-refresh. -/
theorem witness_DramPortsWorkFreezeAndRecover_DramPortsFreezeAndRecover :
    ends (exec (.portFreeze 0 6 0#36 0#128) (one { mesh .target 0 64 .read with dst := dportRouter 0 } (dram none))) (fun t =>
      (t.dport 0).st = .frozen && (t.req 0).map (·.stage) = some (.answered .frozen []) && t.flt.raised.map (·.src) = [259]) = true ∧
    ends (exec (.alertN 0) { port0 (fun p => { p with lastAlert := some 0 }) with now := 1000000 }) (fun t => (t.dport 0).st = .ready && t.flt.raised.map (·.src) = [261]) = true ∧
    ends (exec (.alertN 0) { port0 (fun p => { p with lastAlert := some 0 }) with now := 999999 }) (fun t => (t.dport 0).st = .frozen && (t.dport 0).freezeCause = 6) = true ∧
    ends (exec (.portResetComplete 0 true) (port0 fun p => { p with st := .resetting, poison := [3] })) (fun t => (t.dport 0).st = .ready && (t.dport 0).poison = [3]) = true ∧
    ends (exec (.portResetComplete 0 false) (port0 fun p => { p with st := .resetting })) (fun t => (t.dport 0).st = .failed) = true ∧
    ends (exec (.selfrefWake 0) (one { mesh .target 0 64 .read with dst := dportRouter 0 } (port0 fun p => { p with st := .selfref }))) (fun t => (t.dport 0).st = .ready) = true := by decide +kernel

/-- R325 to R346: a region of one granule unit made and deleted, its clearing, and the port commands. -/
theorem witness_RangeAndDramCommandsComplete_DramCommandsComplete :
    ends (exec (.dramRegionCreate 0) (cmd 0x0601 [(0x10, 1, 1), (0x11, 1, 14), (0x12, 1, 1), (0x13, 1, 16), (0x14, 4, 0x80000000), (0x18, 8, 2 ^ 20), (0x20, 8, 2 ^ 20)] (dram none)))
      (fun t => (t.region 14).clearing && (t.region 14).pbase = 2 ^ 20) = true ∧
    ends (exec (.dramRegionCreate 0) (cmd 0x0601 [(0x10, 1, 1), (0x11, 1, 14), (0x12, 1, 1), (0x13, 1, 8), (0x18, 8, 2 ^ 20), (0x20, 8, 2 ^ 20)] (dram none)))
      (fun t => (t.region 14).enc = some 0) = true ∧
    ends (exec (.regionClearComplete 0) { dram none with dram.region := [(0, { defined := true, size := 2 ^ 20, ports := 1#8, clearing := true })], dram.mem := [⟨1, 4#8⟩, ⟨2 ^ 20, 6#8⟩] })
      (fun t => t.dram.mem = [⟨2 ^ 20, 6#8⟩]) = true ∧
    status (exec (.dramRegionDelete 0) (cmd 0x0601 [(0x10, 1, 2)] (dram none))) = some 0 ∧
    status (exec (.dramQuery 0) (cmd 0x0602 [(0x10, 4, 7)] up)) = some 0 ∧
    status (exec (.dramMap 0) (cmd 0x0603 [(0x10, 4, 7)] up)) = some 0 ∧
    ends (exec (.dramSelfrefEnter 0) (cmd 0x0604 [(0x14, 4, 1)] (dram none))) (fun t => (t.dport 0).st = .selfref) = true ∧
    ends (exec (.dramSelfrefExit 0) (cmd 0x0604 [(0x14, 4, 2)] (port0 fun p => { p with st := .selfref }))) (fun t => (t.dport 0).st = .ready) = true ∧
    ends (exec (.dramPortReset 0) (cmd 0x0605 [(0x14, 4, 1)] (dram none))) (fun t => (t.dport 0).st = .resetting) = true ∧
    ends (exec (.dramPortReset 0) (cmd 0x0605 [] (port0 fun p => { p with st := .frozen }))) (fun t => (t.dport 0).resetBy = some 0) = true ∧
    status (exec (.freezeRecord 0) (cmd 0x0606 [(0x14, 4, 1)] ((dram none).portFreeze 0 1 0 0#128))) = some 0 := by decide +kernel

/-! ### Clocks, power and resets -/

/-- Clock source `i` and domain `d` as given. -/
def clk (i : Nat) (x : ClkSrc) (d : ClkDom) : State :=
  { up with ckr.ref := 2, ckr.src := [(i, x)], ckr.dom := [(i - 4, d)] }

/-- R422 to R428: the chassis clock is taken before the oscillator; limits of the monitor and of the cross-check from both sides; a
failover with and without edges, its timeout, the return, a global clock moved and refused. -/
theorem witness_ClocksFailOverAndFollowCommands_ClocksFailOverAndReturn :
    ends (exec (.referenceSelect true true) up) (fun t => t.ckr.ref = 1) = true ∧
    ends (exec (.referenceSelect false true) up) (fun t => t.ckr.ref = 2) = true ∧
    ends (exec (.referenceSelect false false) up) (fun t => t.ckr.ref = 0 && t.flt.raised.map (·.src) = [64, 65]) = true ∧
    ends (exec (.monitorWindow 7 true 100001#24) (clk 7 { edges := true, pass := true } {})) (fun t => !(t.clkSrc 7).pass && (t.clkSrc 7).failS) = true ∧
    ends (exec (.monitorWindow 0 false 0#24) up) (fun t => !(t.clkSrc 0).edges) = true ∧
    ends (exec (.ioscCrossCheck 2000#24) up) (fun t => !t.ckr.ioscSuspect) = true ∧
    ends (exec (.ioscCrossCheck 2001#24) up) (fun t => t.ckr.ioscSuspect && t.flt.raised.map (·.src) = [66]) = true ∧
    ends (exec (.clockFailover 7) (clk 7 { edges := true, failS := true } { iosc := false, lost := 0xFFF8#16 })) (fun t =>
      (t.clkDom 3).iosc && (t.clkDom 3).lost = 0xFFFF#16 && (t.flt.raised.map (·.src)).contains 72) = true ∧
    ends (exec (.clockFailover 4) (clk 4 { failS := true } { iosc := false })) (fun t => (t.clkDom 0).switching) = true ∧
    ends (exec (.fallbackTimeout 3) (clk 7 {} { iosc := false, switching := true })) (fun t => (t.clkDom 3).iosc && t.flt.raised.map (·.src) = [73]) = true ∧
    ends (exec (.clockReturn 7) (clk 7 { ready := true } {})) (fun t => !(t.clkDom 3).iosc) = true ∧
    ends (exec (.gselRequest 31 true) { up with ckr.gclk := [(31, { routed := true, src1 := 95 })] }) (fun t => (t.gclk 31).refusedS && !(t.gclk 31).sel) = true := by decide +kernel

/-- R424 to R438: the clock commands at the ends of their ranges and just outside them. -/
theorem witness_ClocksFailOverAndFollowCommands_ClockCommandsComplete :
    status (exec (.clockQuery 0) (cmd 0x0701 [] up)) = some 0 ∧ status (exec (.powerQuery 0) (cmd 0x0711 [] up)) = some 0 ∧
    ends (exec (.clockSwitch 0) (cmd 0x0702 [(0x10, 4, 3)] (clk 7 { ready := true } {}))) (fun t => !(t.clkDom 3).iosc) = true ∧
    ends (exec (.clockSwitch 0) (cmd 0x0702 [(0x10, 4, 3), (0x14, 4, 1)] (clk 7 { edges := true } { iosc := false }))) (fun t => (t.clkDom 3).iosc) = true ∧
    ends (exec (.clockSwitch 0) (cmd 0x0702 [(0x10, 4, 0x10), (0x14, 4, 1)] { up with ckr.ref := 2, ckr.src := [(0, { ready := true })] })) (fun t => t.ckr.ref = 1) = true ∧
    status (exec (.clockSwitch 0) (cmd 0x0702 [(0x10, 4, 0x3F)] { up with ckr.gclk := [(31, { src0 := 95, routed := true })] })) ≠ some 0 ∧
    status (exec (.clockSwitch 0) (cmd 0x0702 [(0x10, 4, 0x40)] up)) = some 6 ∧
    ends (exec (.clockMonitor 0) (cmd 0x0703 [(0x10, 4, 50000), (0x14, 4, 7)] (clk 7 { failS := true } {}))) (fun t => t.ckr.limit = 50000#16 && !(t.clkSrc 7).failS) = true ∧
    status (exec (.clockMonitor 0) (cmd 0x0703 [(0x10, 4, 99)] up)) = some 6 ∧
    ends (exec (.clockGate 0) (cmd 0x0704 [(0x10, 1, 0), (0x11, 1, 15)] up)) (fun t => t.ckr.gate0 = 0xFFFF7FFF#32) = true ∧
    ends (exec (.clockGate 0) (cmd 0x0704 [(0x10, 1, 6), (0x14, 1, 1)] up)) (fun t => t.ckr.gate1 = 0x1FFF#32) = true ∧
    ends (exec (.chipReset 0) (cmd 0x0721 [(0x10, 4, 1)] up)) (fun t => t.ckr.chipReset = some (1000000, 5)) = true := by decide +kernel

/-- R288 to R290, R432 to R434: the last fabric port reset, asserted and released; a fabric sector powered down and up. -/
theorem witness_BlocksResetAndPowerDown :
    ends (exec (.blockReset 0) (cmd 0x0720 [(0x10, 1, 9), (0x11, 1, 95)] up)) (fun t => t.ckr.resetReq = [(.fport 95, some 0)]) = true ∧
    ends (exec (.blockReset 0) (cmd 0x0720 [(0x10, 1, 9), (0x11, 1, 96)] up)) (fun t => t.ckr.resetReq = []) = true ∧
    ends (exec (.blockResetAssert (.fport 95)) (one { mesh .target 0 8 .read with dst := sectorRouter 95, src := 43 } { up with ckr.resetReq := [(.fport 95, some 0)] }))
      (fun t => t.ckr.inReset = [.fport 95] && (t.req 0).map (·.stage) = some (.answered .resetAbort [])) = true ∧
    ends (exec (.blockResetRelease (.fport 95)) { held .suspended with ckr.inReset := [.fport 95] }) (fun t => t.ckr.inReset = [] && t.noc.window = [(.fport 95, some 1000000)]) = true ∧
    up.mayPowerOff 7 4 = true ∧ up.mayPowerOff 7 8 = false ∧
    ends (exec (.powerDomainOff 0) (cmd 0x0710 [(0x10, 1, 7), (0x11, 1, 4)] up)) (fun t => t.ckr.powering = some (7, 4, 0) && (t.rtr (sectorRouter 4)).ni = some 2) = true ∧
    ends (exec (.powerDomainOn 0) (cmd 0x0710 [(0x10, 1, 7), (0x11, 1, 95), (0x14, 1, 1)] { up with ckr.pwrSec := 0#96 })) (fun t => t.powerOn 7 95) = true := by decide +kernel

/-- R367, R429 to R431, R455, R482: each reset from a state that holds what it must keep and what it must not. -/
theorem witness_ResetsKeepWhatTheyMust :
    ends (exec .progN { up with noc.req := [(0, some (mesh .mesh 0 8 .read))], ckr.count := 0xFF#8 }) (fun t => t.ckr.cause = 2 && t.ckr.count = 0xFF#8 && t.noc.req = []) = true ∧
    ends (exec .chipResetExecute { up with ckr.chipReset := some (7, 3), now := 7 }) (fun t => t.ckr.cause = 3 && t.ckr.count = 1#8) = true ∧
    ends (exec .lifecycleReset { up with sec.resetAt := some 7, now := 7, sec.lc := .owned }) (fun t => t.ckr.cause = 5 && t.sec.lc = .owned) = true ∧
    ends (exec (.coreSupplyLoss 2) up) (fun t => t.ckr.coreLost = 4#3 && t.cfg.st = .clearing) = true ∧
    ends (exec .coreSupplyReturn { up with ckr.coreLost := 4#3 }) (fun t => t.ckr.coreLost = 0#3 && (t.flt.raised.map (·.src)).contains 77) = true ∧
    ends (exec (.supplyOutOfRange 17) up) (fun t => bitOf t.ckr.supply.toNat 19 = false && t.flt.raised.map (·.src) = [76]) = true ∧
    ends (exec (.supplyOutOfRange 3) up) (fun t => bitOf t.ckr.supply.toNat 3 = false) = true ∧
    ends (exec .por { up with sec.lc := .owned, vlt.mem := [⟨0, 1#8⟩] }) (fun t => t.sec.lc = .owned && t.vlt.mem = [] && t.ckr.por) = true ∧
    ends (exec (.porRelease 2#2 0xF#4) State.reset) (fun t => t.cfg.st = .configOnly && t.cfg.group = 0xF#4) = true ∧
    ends (exec (.porRelease 3#2 0#4) State.reset) (fun t => t.cfg.st = .firmware) = true ∧
    ends (exec .reloadExecute { held .admitted with cfg.reload := some (0, 2) }) (fun t => t.cfg.st = .configOnly && t.noc.contract = []) = true ∧
    ends (exec .thermalShutdown { up with thm.sens := [(31, { valid := true, hot := 2 })] }) (fun t => t.thm.shutdown && t.errN && (t.flt.raised.map (·.src)).contains 123) = true ∧
    ends (exec .perst { up with pce.linkUp := true }) (fun t => !t.pce.linkUp && t.flt.raised.map (·.src) = [786]) = true ∧
    ends (exec .hotReset { up with pce.linkUp := true }) (fun t => !t.pce.linkUp) = true ∧
    ends (exec .perstDeassert { up with pce.perst := true }) (fun t => !t.pce.perst && t.pce.training = some 0) = true ∧
    ends (exec (.functionLevelReset 1) { up with pce.set := { pf1 := true }, pce.unmasked := [(0, 1), (1, 2)] }) (fun t => t.pce.unmasked = [(0, 1)]) = true := by decide +kernel

/-! ### Debug, JTAG and the life-cycle -/

/-- Mailbox 0 accepts debug sessions; the life-cycle is `lc`. -/
def debug (lc : LifeCycle) : State := { up with man := { inForce := true, debugBoxes := [0] }, sec.lc := lc }

/-- A session of level `l` of owner 0 on mailbox 0. -/
def sess (l : Nat) : State := { debug .blank with dbg.sess := [(0, { live := true, level := l })] }

/-- R464 to R467, R481: a session opened in BLANK and refused without the owner's password; an exchange that comes too late and just in
time; a nonce. -/
theorem witness_SessionsAreAuthorised :
    ends (exec (.dbgAuth 0) (cmd 0x0B01 [(0x10, 1, 15)] (debug .blank))) (fun t => (t.sess 0).live && (t.sess 0).level = 2 && (t.sess 0).owner = 15) = true ∧
    ends (exec (.dbgAuth 0) (cmd 0x0B01 [(0x10, 1, 15)] (debug .deployed))) (fun t =>
      (tget t.dbg.fails (0, 0) 15).1 = 1 && t.flt.raised.map (·.src) = [850]) = true ∧
    ends (exec (.authFinishTimeout 0) { debug .blank with now := 10000000001, dbg.exch := [(0, some { owner := 1, t := [], key := [], pub := [], since := 0 })] })
      (fun t => (tget t.dbg.exch none 0).isNone) = true ∧
    ends (exec (.authFinishTimeout 0) { debug .blank with now := 10000000000, dbg.exch := [(0, some { owner := 1, t := [], key := [], pub := [], since := 0 })] })
      (fun t => (tget t.dbg.exch none 0).isSome) = true ∧
    ends (exec (.nonceExpiry 0) { up with now := 60000000001, sec.nonce := [(0, some ([], 0))] }) (fun t => t.sec.nonce = []) = true ∧
    ends (exec (.nonceExpiry 0) { up with now := 60000000000, sec.nonce := [(0, some ([], 0))] }) (fun t => t.sec.nonce ≠ []) = true := by decide +kernel


/-- R464 to R489: each debug command in a session of level 1 or 2. -/
theorem witness_DebugCommandsComplete :
    ((sess 1).sessionOf 0, ((sess 1).sess 0).tagOk (copied 0x0B04 0x10 [])) = (some 0, true) ∧
    ends (exec (.dbgEnd 0) (cmd 0x0B04 [] (sess 1))) (fun t => !(t.sess 0).live) = true ∧
    ends (exec (.dbgEngHalt 0) (cmd 0x0B10 [(0x18, 8, 2 ^ 63)] (sess 1))) (fun t => (t.engAt 127).halted || (t.engAt 127).haltReq) = true ∧
    ends (exec (.dbgEngResume 0) (cmd 0x0B10 [(0x10, 8, 1), (0x20, 4, 1)] { sess 1 with eng := [(0, { halted := true })] })) (fun t => !(t.engAt 0).halted) = true ∧
    ends (exec (.dbgEngStep 0) (cmd 0x0B10 [(0x20, 4, 2), (0x24, 4, 65535)] { sess 1 with eng := [(0, { halted := true })] })) (fun t => (t.engAt 0).steps = 65535) = true ∧
    resp (exec (.dbgEngReadReg 0) (cmd 0x0B10 [(0x20, 4, 3), (0x24, 4, 0)] { sess 1 with eng := [(0, { halted := true, d := Vector.replicate 8 7#24 })] })) 0x10 8 = some 7 ∧
    ends (exec (.dbgEngWriteReg 0) (cmd 0x0B10 [(0x20, 4, 4), (0x28, 8, 2 ^ 24 - 1)] { sess 1 with eng := [(0, { halted := true })] })) (fun t => (t.engAt 0).d[0] = 0xFFFFFF#24) = true ∧
    ends (exec (.dbgEngSetPc 0) (cmd 0x0B10 [(0x20, 4, 5), (0x24, 4, 8191)] { sess 1 with eng := [(0, { halted := true })] })) (fun t => (t.engAt 0).pc = 8191#13) = true ∧
    ends (exec (.dbgBreak 0) (cmd 0x0B11 [(0x14, 4, 7), (0x18, 4, 1), (0x20, 4, 0), (0x30, 4, 2 ^ 24 - 1)] (sess 1))) (fun t => (t.engAt 0).dbg.ctl[7] = 1#32 && (t.engAt 0).dbg.session = some 0) = true ∧
    ends (exec (.dbgFreeze 0) (cmd 0x0B13 [(0x10, 8, 1)] (sess 1))) (fun t => (t.sector 0).frozen && !(t.sector 95).frozen) = true ∧
    ends (exec (.dbgThaw 0) (cmd 0x0B13 [(0x18, 4, 2 ^ 31), (0x1C, 4, 2)] { sess 1 with fab.sector := [(95, { frozen := true, capture := true })] })) (fun t => !(t.sector 95).frozen) = true ∧
    quadSector 383 = 95 ∧ (sess 1).quadOwner 383 = 0 ∧
    status (exec (.dbgReadback 0) (cmd 0x0B14 [(0x10, 2, 383), (0x12, 2, 1), (0x14, 4, 239)] (sess 1))) = some 6 ∧
    ends (exec (.dbgMem 0) (cmd 0x0B12 [(0x10, 8, vaultBase), (0x18, 4, 512)] (sess 2))) (fun t => (t.req 0).map (·.len) = some 512) = true ∧
    status (exec (.dbgMem 0) (cmd 0x0B12 [(0x10, 8, vaultBase), (0x18, 4, 512)] (sess 1))) = some 7 := by decide +kernel

/-- R470, R475: DBG_RUN of the last engine with a session and without one; a debug read of the vault. -/
theorem witness_RunRegisterTapAndDebugReads_RunRegisterAndDebugRead :
    (sess 1).ownSession 0 = some 0 ∧
    ends (exec (.dbgRunStep (.kit 15) 127) (sess 1)) (fun t => (t.engAt 127).steps = 1) = true ∧
    ends (exec (.dbgRunHalt (.kit 15) 127) (sess 1)) (fun t => (t.engAt 127).halted || (t.engAt 127).haltReq) = true ∧
    ends (exec (.dbgRunResume (.kit 15) 127) up) (fun t => t.flt.raised.map (·.src) = [198]) = true ∧
    ends (exec (.debugRead 0 (BitVec.ofNat 48 vaultBase) 16) { sess 1 with vlt.word := [(0, .clean)], vlt.mem := [⟨1, 6#8⟩] }) (fun t => t.readData.take 2 = [0#8, 6#8]) = true := by decide +kernel

/-- R462, R463: the TAP's instructions before RELEASE_IO and after it. -/
theorem witness_RunRegisterTapAndDebugReads_TapInstructionsComplete :
    ends (exec .idcode up) (fun t => leNat t.readData = 0x17140B47 && t.dbg.tap.ir = 2#8) = true ∧
    State.reset.pinControl = true ∧ up.pinControl = false ∧
    ends (exec (.extest [true]) State.reset) (fun t => t.dbg.tap.pins = some (.drive [true])) = true ∧
    ends (exec .highz up) (fun t => t.dbg.tap.pins = none && t.flt.raised.map (·.src) = [852]) = true ∧
    ends (exec (.dbgPage 0#12 false 0#32) up) (fun t => t.dbg.tap.ir = 0x20#8) = true := by decide +kernel

/-- R462, R463: the TAP's other instructions. -/
theorem witness_RunRegisterTapAndDebugReads_BoundaryCellsDrive :
    ends (exec (.samplePreload [true, false]) up) (fun t => t.dbg.tap.ir = 1#8 && t.dbg.tap.cells = [true, false]) = true ∧
    ends (exec .clamp State.reset) (fun t => t.dbg.tap.pins = some .clamp) = true ∧
    ends (exec (.extestPulse [true]) State.reset) (fun t => t.dbg.tap.pins = some (.pulse [true])) = true ∧
    ends (exec (.extestTrain [true]) State.reset) (fun t => t.dbg.tap.pins = some (.train [true])) = true ∧
    ends (exec .tapReset { State.reset with dbg.tap := { ir := 3#8, pins := some .clamp } }) (fun t => t.dbg.tap.ir = 2#8 && t.dbg.tap.pins = none) = true := by decide +kernel

/-- A nonce of mailbox 0 and the fuse supply in range. -/
def fuse (lc : LifeCycle) : State := { debug lc with sec.nonce := [(0, some (List.replicate 32 1#8, 0))], sec.fusePwr := true }

/-- R479 to R484: the life-cycle commands that need no signature, and what stands between the others and their effect. -/
theorem witness_LifeCycleCommandsComplete :
    status (exec (.lcQuery 0) (cmd 0x0B20 [] (fuse .blank))) = some 0 ∧
    ends (exec (.lcScrap 0) (cmd 0x0B26 [] (fuse .returned))) (fun t => t.sec.lc = .scrapped && t.vlt.wiping && t.flt.raised.map (·.src) = [864]) = true ∧
    ends (exec (.returnPrepare 0) (cmd 0x0C01 [] (fuse .blank))) (fun t => t.sec.lc = .returned) = true ∧
    ends (exec (.lcSettingsFuse 0) (cmd 0x0B29 [(0x10, 4, 0x51565354), (0x14, 2, 1), (0x24, 1, 5), (0x25, 1, 16), (0x28, 2, 2048), (0x30, 4, 0x275AAFEF)] (fuse .blank)))
      (fun t => t.sec.settings.isSome) = true ∧
    ends (exec (.tamperConfig 0) (cmd 0x0B28 [(0x10, 4, 3), (0x14, 4, 2)] (fuse .owned))) (fun t => t.sec.pinEn = 3#2 && t.sec.pinLevel = 2#2) = true ∧
    status (exec (.returnRead 0) (cmd 0x0C02 [] (fuse .scrapped))) = some 0 ∧
    ends (exec (.tamperTrip 4) { fuse .owned with sec.pinEn := 2#2, sec.devKey := some [] }) (fun t =>
      t.sec.tamper && t.sec.devKey.isNone && t.vlt.wiping && (t.flt.raised.map (·.src)).contains 860) = true ∧
    ends (exec (.tamperTrip 3) { fuse .owned with sec.pinEn := 2#2 }) (fun t => !t.sec.tamper) = true := by decide +kernel

/-- R479 to R484: the life-cycle commands whose last check is the signature's are asked for in the states that they need. -/
theorem witness_LifeCycleCommandsComplete_CommandsAreAsked :
    ([0x0B21, 0x0B22, 0x0B23].all fun op => ((cmd op [] (fuse .blank)).serving 0 op anyForm).isSome && (fuse .blank).hasConfig 0 && !(fuse .blank).anyAdmitted) = true ∧
    ([0x0B24, 0x0B27].all fun op => ((cmd op [] (fuse .owned)).serving 0 op anyForm).isSome) = true ∧
    ((cmd 0x0B25 [] (fuse .deployed)).serving 0 0x0B25 anyForm).isSome = true ∧ (fuse .owned).sec.svnMin.toNat < 63 := by decide +kernel

/-- A certificate for level 2 of owner 0, and an owner signature: all that their checks leave open is the answer of the signature
check. -/
def cert : List Byte := leBytes 4 0x51564443 ++ leBytes 1 0 ++ leBytes 1 2 ++ List.replicate 250 0#8

theorem witness_CertificateChecks (key : List Byte) : ({ debug .owned with sec.digest := some (Config.sha384 key) } : State).certOk 0 cert key =
    Config.ecdsaOk key (Config.sha384 (cert.take 0x70)) ((cert.drop 0x70).take 96) := by
  have e : leNat (cert.take 4) = 0x51564443 ∧ leNat ((cert.drop 4).take 1) = 0 ∧ leNat ((cert.drop 5).take 1) = 2 ∧
    leNat ((cert.drop 6).take 2) = 0 ∧ leNat (cert.drop 0xD0) = 0 ∧ leNat ((cert.drop 8).take 8) = 0 := by decide +kernel
  simp [State.certOk, e, State.dbgKeyDigest, debug, up, State.reset]

theorem witness_OwnerSignatures (r : Running) (n : List Byte) (off : Nat) : ({ fuse .owned with sec.digest := some [] } : State).ownerSigned r (some n) off =
    Config.ecdsaOk (Config.keyOf []) (({ fuse .owned with sec.digest := some [] } : State).signedDigest r n off) (r.bytes off 96) := rfl

/-! ### Faults and temperature -/

/-- A fault of source 198 for owner 0 that waits for the collector. -/
def fault : Raised := { src := 198, cls := 3, owners := [0], block := none, info := 9#32, injected := false, stamp := 0#64, time := 0 }

/-- R127, R442 to R452: a fault handled and acknowledged; hold, heartbeat and lockstep at their limits. -/
theorem witness_FaultsAreHandledAndCommanded_FaultsAreHandled :
    nextFault ({ up with flt.raised := [fault] } : State).flt.raised = some fault ∧ (up.srcCfg 198).mask = false ∧
    ends (exec .faultRaise { up with flt.raised := [fault] }) (fun t =>
      tget t.flt.cnt 0#32 198 = 1#32 && (t.ownerFlt 0).pend = 8#8 && t.flt.history.map (·.info) = [9#32]) = true ∧
    ends (exec (.fltPendWrite .belfry 0 8#32) { up with flt.owner := [(0, { pend := 0x88#8 })] }) (fun t => (t.ownerFlt 0).pend = 0x80#8) = true ∧
    ends (exec (.fltPendWrite (.engine 0) 15 8#32) up) (fun t => t.flt.raised.map (·.src) = [198]) = true ∧
    ends (exec .errNHoldExpiry { up with flt.errnSince := some 0, now := 10000 }) (fun t => t.flt.errnSince.isNone) = true ∧
    ends (exec .errNHoldExpiry { up with flt.errnSince := some 0, now := 9999 }) (fun t => t.flt.errnSince.isSome) = true ∧
    ends (exec (.faultLine 95) up) (fun t => t.flt.raised.map (·.src) = [1007]) = true ∧
    ends (exec (.heartbeatExpiry 15) { up with fab.heart := [(15, { sector := some 95, period := 100, last := 0 })], now := 100 }) (fun t =>
      t.flt.raised.map (·.src) = [1023] && (tget t.fab.heart {} 15).last = 100) = true ∧
    ends (exec .lockstepDisagreement up) (fun t => t.flt.lockstep && t.flt.raised.map (·.src) = [0]) = true ∧
    ends (exec .lockstepDisagreement { up with flt.lockLast := some 0, now := 10 ^ 9 - 1 }) (fun t => t.ckr.chipReset = some (10 ^ 9 - 1, 4)) = true ∧
    ends (exec .lockstepDisagreement { up with flt.lockLast := some 0, now := 10 ^ 9 }) (fun t => t.ckr.chipReset.isNone && t.flt.lockstep) = true ∧
    ends (exec (.lockstepRecovery true) { up with flt.lockstep := true }) (fun t => !t.flt.lockstep && t.flt.lockCount = 1#32) = true := by decide +kernel

/-- R442 to R460: the last source set, an injected fault, the threshold at its bounds and beyond them, sensors at the ends of their
range. -/
theorem witness_FaultsAreHandledAndCommanded_FaultAndThermalCommandsComplete :
    ends (exec (.faultConfig 0) (cmd 0x0901 [(0x10, 2, 1023), (0x12, 2, 1), (0x14, 1, 4), (0x15, 1, 4), (0x16, 1, 7), (0x17, 1, 255)]
      { up with flt.cfg := [(1023, { cls := 5, level := 1, cap := 1, errn := false, latch := false, mask := false })] })) (fun t => (t.srcCfg 1023).mask && (t.srcCfg 1023).level = 4) = true ∧
    status (exec (.faultConfig 0) (cmd 0x0901 [(0x10, 2, 123), (0x12, 2, 1), (0x17, 1, 255)] up)) = some 6 ∧
    ends (exec (.faultInject 0) (cmd 0x0905 [(0x10, 4, 1023), (0x14, 4, 77)] up)) (fun t => t.flt.raised.map (·.info) = [77#32]) = true ∧
    status (exec (.thermalConfig 0) (cmd 0x0906 [(0x10, 2, 1000)] up)) = some 0 ∧ status (exec (.thermalConfig 0) (cmd 0x0906 [(0x10, 2, 1001)] up)) = some 6 ∧
    status (exec (.thermalConfig 0) (cmd 0x0906 [(0x10, 2, 65136)] up)) = some 0 ∧ status (exec (.thermalConfig 0) (cmd 0x0906 [(0x10, 2, 65135)] up)) = some 6 ∧
    ends (exec (.faultNotify 0) (cmd 0x0902 [(0x10, 4, 7)] (qat .event 0))) (fun t => (t.ownerFlt 0).notify.queue = some 7) = true ∧
    ends (exec (.faultAck 0) (cmd 0x0903 [(0x10, 4, 0xFF)] { up with flt.owner := [(0, { pend := 8#8 })] })) (fun t => (t.ownerFlt 0).pend = 0#8) = true ∧
    resp (exec (.faultHistory 0) (cmd 0x0904 [(0x14, 4, 31)] up)) 0x10 4 = some 0 ∧
    ends (exec (.sensorReading 63 1280#16 false) up) (fun t => (t.sensor 63).valid && t.thm.overMax) = true ∧
    ends (exec (.sensorReading 63 1281#16 false) up) (fun t => (t.sensor 63).failed && t.flt.raised.map (·.src) = [122]) = true ∧
    ends (exec (.sensorReading 0 0xFDD0#16 false) up) (fun t => (t.sensor 0).valid && !t.thm.warn) = true := by decide +kernel

/-! ### PCI Express -/

/-- The link has trained, and both functions are up. -/
def link : State := { up with pce.perst := false, pce.linkUp := true, pce.set := { pf1 := true } }

/-- R40, R364 to R367: the aperture, the last window taken and given back, host accesses of every kind of place. -/
theorem witness_HostRequestsComplete :
    ends (exec (.pcieAperture 0) (cmd 0x0A01 [(0x10, 8, 2 ^ 36 * 31)] up)) (fun t => t.pce.abase = 31) = true ∧
    status (exec (.pcieAperture 0) (cmd 0x0A01 [(0x10, 8, 2 ^ 36 * 32)] up)) = some 6 ∧
    ends (exec (.pcieOutwin 0) (cmd 0x0A02 [(0x10, 4, 15), (0x14, 4, 1), (0x18, 8, 4096), (0x20, 4, 3)] link)) (fun t => (t.outWin 15).taken && (t.outWin 15).fn = 1) = true ∧
    ends (exec (.pcieOutwin 0) (cmd 0x0A02 [(0x10, 4, 15), (0x20, 4, 4)] { link with pce.win := [(15, { taken := true })] })) (fun t => !(t.outWin 15).taken) = true ∧
    link.barAt 1 1 0 = none ∧ link.linkOn = true ∧
    ends (exec (.hostRequest 1 1 0#36 false 4 []) link) (fun t => t.pce.completions = [(1, .unsupported, [])]) = true ∧
    ends (exec (.hostRequest 1 1 0#36 true 4 []) link) (fun t => t.pce.errDrop = 1#16) = true ∧
    ends (exec (.hostRequest 0 1 (BitVec.ofNat 36 (64 * 7)) true 16 (entry 5#8)) (let s := qat .message 0; { s with pce := link.pce })) (fun t => (t.queue 7).count = 1) = true ∧
    ends (exec (.configurationRequest 0 0#12 false 0#32) { link with cfg.st := .loading }) (fun t => t.pce.completions = [(0, .retry, [])] && t.pce.crs) = true ∧
    ends (exec (.configurationRequest 1 0#12 false 0#32) { link with pce.set := {} }) (fun t => t.pce.completions = [(1, .unsupported, [])]) = true ∧
    ends (exec (.configurationRequest 0 0#12 false 0#32) { link with pce.set := { vendor := some 0x1234#16 } }) (fun t =>
      t.pce.completions.map (·.2.2.take 4) = [[0x34#8, 0x12#8, 0x40#8, 0x71#8]]) = true ∧
    ((one (mesh .target hostBase 64 .read) link).atHost 0).isSome = true ∧
    ends (exec (.outboundRequest 0 (.data [3#8])) (one (mesh .target hostBase 4 .read) link)) (fun t =>
      (t.req 0).map (·.stage) = some (.answered .ok [3#8, 0#8, 0#8, 0#8])) = true ∧
    ends (exec (.completionTimeout 0) { one (mesh .target hostBase 4 .read) link with now := 50000000 }) (fun t => t.flt.raised.map (·.src) = [787]) = true ∧
    ends (exec (.pceDropRead .belfry) { up with pce.drop := 6#32 }) (fun t => leNat t.readData = 6 && t.pce.drop = 0#32) = true ∧
    ends (exec (.pceDropRead (.debug 0)) { up with pce.drop := 6#32 }) (fun t => leNat t.readData = 6 && t.pce.drop = 6#32) = true := by decide +kernel

/-! ### Lanes, JESD links and MACs -/

/-- Lane group 2 with its lanes used by a MAC, locked or not. -/
def lanes (use : Nat) (lock : Bool) : State := { up with ser.lane := (List.range 8).map fun i => (16 + i, { use := use, lock := lock, rate := 100#9 }) }

/-- R368 to R372: a group with every lane idle completes at once; a lane lock; a link disabled, put in SYNC, realigned, lost and timed
out. -/
theorem witness_LanesJesdAndEthernetWork_LanesAndJesdLinksComplete :
    ends (exec (.laneConfig 0) (cmd 0x0A10 [(0x10, 4, 7)] up)) (fun t => (t.box 0).run.any fun r => r.final.isSome) = true ∧
    ends (exec (.laneRxLock 16 true) (lanes 2 false)) (fun t => (t.lane 16).lock && (t.laneGroup 2).refOk) = true ∧
    status (exec (.jesdConfig 0) (cmd 0x0A11 [(0x10, 1, 7)] up)) = some 0 ∧
    ends (exec (.jesdConfig 0) (cmd 0x0A11 [(0x10, 1, 2), (0x11, 1, 1), (0x12, 1, 8), (0x13, 1, 95), (0x14, 1, 32), (0x15, 1, 1), (0x16, 1, 1), (0x17, 1, 32),
      (0x18, 1, 16), (0x19, 1, 15), (0x28, 8, 1)] (lanes 1 true))) (fun t => (t.jesd 2).st = 1 && (t.jesd 2).lanes = 8) = true ∧
    ends (exec (.jesdRealign 2) { lanes 1 true with ser.jesd := [(2, { en := true, st := 1, lanes := 8, period := 1#64 })] }) (fun t => (t.jesd 2).st = 3 && (t.jesd 2).realign = 1#16) = true ∧
    ends (exec (.jesdAlignmentLost 7) { up with ser.jesd := [(7, { en := true, st := 3 })] }) (fun t => (t.jesd 7).st = 1 && t.flt.raised.map (·.src) = [807]) = true ∧
    ends (exec (.jesdConfigTimeout 7) { up with ser.jesd := [(7, { en := true, st := 1, cmd := some (0, 0) })], now := 100000000 }) (fun t => (t.jesd 7).cmd.isNone) = true ∧
    ends (exec (.jesdConfigTimeout 7) { up with ser.jesd := [(7, { en := true, st := 1, cmd := some (0, 0) })], now := 99999999 }) (fun t => (t.jesd 7).cmd.isSome) = true := by decide +kernel

/-- A MAC whose three queues are queue 7. -/
def mac (n : Nat) : State :=
  let s := (((qat .message n).setQueue 7 { kind := .message, sizeExp := 4, esize := 1, base := vaultBase, en := true }).qPush 7
    (leBytes 8 (vaultBase + 65536 - 64) ++ leBytes 2 60 ++ leBytes 2 64 ++ leBytes 20 0)).2
  { s with ser.mac := [(1, { rate := 1, link := true, txq := 7, freeq := if n = 0 then 7 else 8, rxq := 7 })]
           vlt.word := s.vlt.word ++ [(4092, .clean), (4093, .clean), (4094, .clean), (4095, .clean)] }

/-- R373, R374: the lowest and the highest rate set, off, the link's changes, a frame sent, one received without a buffer and one with. -/
theorem witness_LanesJesdAndEthernetWork_EthernetFramesPass :
    status (exec (.ethConfig 0) (cmd 0x0A12 [(0x10, 1, 1)] up)) = some 0 ∧ fecAllowed 5 2 = true ∧ fecAllowed 5 1 = false ∧ macLanes 5 = 4 ∧
    ends (exec (.ethLinkUp 0) { lanes 2 true with ser.mac := [(0, { rate := 5 })] }) (fun t => (t.mac 0).link) = true ∧
    ends (exec (.ethLinkDown 1) (mac 0)) (fun t => !(t.mac 1).link && t.flt.raised.map (·.src) = [809]) = true ∧
    ((mac 0).qHead 7).1 = .ok ∧ leNat (((mac 0).qHead 7).2.1.take 8) % 2 ^ 48 = vaultBase + 65536 - 64 ∧
    ends (exec (.ethTransmit 1) (mac 0)) (fun t => (t.mac 1).txPend.isSome && (t.req 0).map (fun r => (r.addr, r.len, r.op)) = some (vaultBase + 65536 - 64, 60, .read)) = true ∧
    ends (exec (.ethReceive 1 (List.replicate 60 4#8) true) (mac 1)) (fun t => (t.mac 1).fcs = 1#16) = true ∧
    ends (exec (.ethReceive 1 (List.replicate 60 4#8) false) (mac 1)) (fun t => (t.mac 1).nobuf = 1#16) = true ∧
    ends (exec (.ethReceive 1 (List.replicate 60 4#8) false) (mac 0)) (fun t =>
      (t.mac 1).rxPend.length = 1 && (t.req 0).map (fun r => (r.addr, r.data.length)) = some (vaultBase + 65536 - 64, 60)) = true := by decide +kernel

/-! ### The ring -/

/-- Both ports up with ring ID 3, and peer 5 reached over port 0. -/
def ring : State :=
  { up with ser.ring := [(0, { st := .up, closed := false, ringId := 3#4, path := [(5, { reach := true })] }), (1, { st := .up, closed := false, ringId := 3#4 })] }

/-- What a segment's training finds. -/
def found (c : Bool) : SegmentTrain := { port := 0, rate := 5, latency := 100#24, bypassed := 0, leaderId := 3, peers := 0#16, conflict := c }

/-- A control cell for this device with number 0. -/
def linkCell (good : Bool) : List Byte :=
  let b := leBytes 1 2 ++ leBytes 1 0x35 ++ leBytes 2 0 ++ leBytes 52 0 ++ leBytes 4 (crc32c []).toNat
  b ++ leBytes 4 ((crc32c b).toNat + if good then 0 else 1)

/-- R376 to R392: a join begun and ended, in conflict and alone; the bypass; a segment healed and broken; a latency 50 ps off and more. -/
theorem witness_RingPortsAndCellsWork_RingPortsComplete :
    ends (exec (.ringJoin 0) (cmd 0x0A20 [(0x10, 4, 1), (0x14, 4, 5), (0x18, 4, 10000), (0x1C, 4, 1)] up)) (fun t => (t.ring 1).st = .waiting) = true ∧
    ends (exec (.ringLeave 0) (cmd 0x0A21 [(0x10, 4, 1)] ring)) (fun t => (t.ring 1).st = .bypassed && (t.ring 1).closed) = true ∧
    status (exec (.ringQuery 0) (cmd 0x0A22 [(0x10, 4, 1)] ring)) = some 0 ∧
    ends (exec (.ringAxisExport 0) (cmd 0x0A23 [(0x10, 4, 15), (0x14, 4, 1)] { ring with ser.exports := [0, 1, 2] })) (fun t => t.ser.exports.length = 4) = true ∧
    status (exec (.ringAxisExport 0) (cmd 0x0A23 [(0x10, 4, 15), (0x14, 4, 1)] { ring with ser.exports := [0, 1, 2, 3] })) = some 2 ∧
    ends (exec (.ringAxisExport 0) (cmd 0x0A23 [(0x10, 4, 2)] { ring with ser.exports := [0, 1, 2, 3] })) (fun t => t.ser.exports.length = 3) = true ∧
    ends (exec (.ringWindow 0) (cmd 0x0A24 [(0x10, 8, 2 ^ 48 - 2 ^ 20), (0x18, 8, 2 ^ 36 - 2 ^ 20)] ring)) (fun t => t.ser.esize = 2 ^ 36 - 2 ^ 20) = true ∧
    ends (exec (.quietSlot [found false]) { up with ser.ring := [(0, { st := .waiting, maxRate := 5, join := some (0, 0) })] }) (fun t => (t.ring 0).st = .up && (t.ring 0).segO = 100#24) = true ∧
    ends (exec (.quietSlot [found true]) { up with ser.ring := [(0, { st := .waiting, maxRate := 5, join := some (0, 0) })] }) (fun t =>
      (t.ring 0).st = .bypassed && t.flt.raised.map (·.src) = [822]) = true ∧
    ends (exec (.joinTimeout 0 none) { up with ser.ring := [(0, { st := .waiting, maxRate := 5, join := some (0, 0) })], now := 30000000 }) (fun t => (t.ring 0).st = .training) = true ∧
    ends (exec (.joinTimeout 0 none) { up with ser.ring := [(0, { st := .waiting, maxRate := 5, join := some (0, 0) })], now := 29999999 }) (fun t => (t.ring 0).st = .waiting) = true ∧
    ends (exec (.bypassClose 0) ring) (fun t => (t.ring 0).st = .bypassed && (t.ring 0).path = []) = true ∧
    ends (exec (.segmentHeal 0 (some 5)) ring) (fun t => (t.ring 0).st = .up && (t.ring 0).heals = 1#8 && t.flt.raised.map (·.src) = [818]) = true ∧
    ends (exec (.segmentHeal 1 none) ring) (fun t => (t.ring 1).st = .failed) = true ∧
    ends (exec (.ringMeasure 0 12#24) ring) (fun t => t.flt.raised = [] && (t.ring 0).segO = 12#24) = true ∧
    ends (exec (.ringMeasure 0 13#24) ring) (fun t => t.flt.raised.map (·.src) = [820]) = true := by decide +kernel

/-- R377, R378, R384, R385: a cell taken, one with a bad CRC, one out of order; a replay; an axis sample; a peer's read at the end of the
window and past it; a strike launched. -/
theorem witness_RingPortsAndCellsWork_RingCellsPass :
    (linkCell true).length = 64 ∧
    ends (exec (.ringCellReceive 0 (linkCell true)) ring) (fun t => (t.ring 0).rxSeq = 1 && t.ser.cells.length = 1) = true ∧
    ends (exec (.ringCellReceive 0 (linkCell false)) ring) (fun t => (t.ring 0).rxSeq = 0 && t.ser.cells.map (fun c => c.2[4]?) = [some 5#8]) = true ∧
    ends (exec (.ringCellReceive 0 (linkCell true)) { ring with ser.ring := [(0, { st := .up, rxSeq := 7 })] }) (fun t =>
      (t.ring 0).rxSeq = 7 && t.ser.cells.map (fun c => c.2[4]?) = [some 4#8]) = true ∧
    ends (exec (.ringNak 0 0#16) (ring.ringSend 0 none 2 5 [])) (fun t => t.ser.cells.length = 2 && (t.ring 0).replay = 1#16) = true ∧
    ends (exec (.ringAckTimeout 0) (ring.ringSend 0 none 2 5 [])) (fun t => t.flt.raised.map (·.src) = [816]) = true ∧
    ends (exec (.axisCellReceive 0 5 { ax := 1, pos := 9#64, rate := 0#64, timeAxis := false, epoch := 2#8, age := 0#32 })
      { ring with axu.axis := [(15, { cfg := { src := 24#5, srcReg := 0x0A000001#32 }, st := .running })] }) (fun t => (t.axis 15).ringPos = 9#64 && (t.axis 15).ringEpoch = some 2#8) = true ∧
    ends (exec (.ringPkt 0 5 (.read 8#36 8 1#12)) { ring with ser.ebase := vaultBase, ser.esize := 16 }) (fun t => (t.req 0).map (·.addr) = some (vaultBase + 8)) = true ∧
    ends (exec (.ringPkt 0 5 (.read 9#36 8 1#12)) { ring with ser.ebase := vaultBase, ser.esize := 16 }) (fun t => (t.req 0).map (·.stage) = some (.answered .unmapped [])) = true ∧
    ends (exec (.axisCellSend 15) { ring with ser.exports := [15], axu.axis := [(15, { st := .running })] }) (fun t => t.ser.cells.length = 2) = true ∧
    ends (exec (.strikeCellLaunch 7) { ring with stk.launches := [(7, 0, 0, 5, 0, 0)] }) (fun t => t.ser.cells.length = 1 && t.stk.launches = []) = true ∧
    ends (exec (.strikeCellLaunch 7) { up with stk.launches := [(7, 0, 0, 5, 0, 0)] }) (fun t => (t.ring 0).strikeLost = 1#8 && t.flt.raised.map (·.src) = [824]) = true ∧
    ends (exec (.strikeCellReceive 1 5 0#16 0#32) ring) (fun t => (t.ring 1).st = .up) = true := by decide +kernel

/-! ### Loading -/

/-- A container header of kind `k` with one segment, for every variant and grade. -/
def header (k : Nat) : List Byte :=
  rdBytes (buf [(0, 4, 0x51564943), (4, 2, 3), (6, 2, k), (8, 4, 0x07140A01), (0xC, 4, 0x37F), (0x11, 1, if k = 3 then 3 else 0xFF), (0x12, 2, 1)]) 0 512

/-- All that the checks of a header leave open is the answer of the signature check. -/
theorem witness_HeaderChecks (k : Nat) (hk : k = 1 ∨ k = 3 ∨ k = 4)
    (h : Config.ecdsaOk (bytesAt (header k) 0xA0 96) (Config.sha384 ((header k).take 0x100)) (bytesAt (header k) 0x100 96) = true) :
    up.headerErr (header k) [k] = none := by
  obtain ⟨a, b, c, d, e, f, g⟩ : ¬ (header k).length < 512 ∧ fieldAt (header k) 0 4 = 0x51564943 ∧
      ¬ (fieldAt (header k) 4 2 ≠ 3 ∨ fieldAt (header k) 0x1C 20 ≠ 0 ∨ fieldAt (header k) 0x68 8 ≠ 0 ∨ fieldAt (header k) 0x160 160 ≠ 0 ∨
        3 < fieldAt (header k) 0x14 4 ∨ hdrCount (header k) = 0 ∨ (¬ hdrEncrypted (header k) ∧ fieldAt (header k) 0x40 40 ≠ 0) ∨
        ¬ hdrScopeOk (header k)) ∧ fieldAt (header k) 8 4 = 0x07140A01 ∧
      up.targets (hdrTarget (header k)) = true ∧ hdrKind (header k) = k ∧ hdrEncrypted (header k) = false := by
    rcases hk with rfl | rfl | rfl <;> decide +kernel
  have l : up.sec.lc = .blank := rfl
  rw [State.headerErr, if_neg a, if_neg (not_not_intro b), if_neg c]
  simp [State.lcAccepts, State.firstKey, d, e, f, g, h, l]

/-- A segment of kind `k` for group 0 with a payload of one zero byte. -/
def segmentOf (k : Nat) : List Byte := rdBytes (buf [(4, 2, 1), (6, 1, k), (0xC, 4, 1)]) 0 81

/-- The stream that takes such a segment as its last one. -/
def streamAt : Stream := { hdr := header 1, expect := Config.sha384 (segmentOf 1), man := some {} }

theorem witness_ChainChecks : streamAt.chainErr (segmentOf 1) = none := by
  have e : ¬ ((segmentOf 1).length < 81 ∨ (segmentOf 1).length ≠ segSize (segmentOf 1) ∨ 8388688 < (segmentOf 1).length) ∧
    fieldAt (segmentOf 1) 0 4 = 0 ∧ fieldAt (segmentOf 1) 0x10 48 = 0 := (by decide +kernel)
  simp [Stream.chainErr, streamAt, e]

/-- The device loads from flash and waits for a header. -/
def loading : State := { State.reset with cfg.st := .loading, mbx.prog := .atmon, ckr.por := false }

/-- R161 to R176, R416: an image and a header that are no image and no header, silence at its limit, a first and a second failure. -/
theorem witness_ImagesLoadAndStartUp_ImagesLoadOrFail :
    ends (exec (.firmwareCheck []) { State.reset with cfg.st := .firmware, ckr.por := false }) (fun t =>
      t.mbx.fwErr = 1 && t.cfg.st = .configOnly && (t.flt.raised.map (·.src)).contains 43) = true ∧
    ends (exec (.streamHeader []) loading) (fun t => t.cfg.errCode = 2 && t.cfg.attempt = 1 && t.cfg.golden) = true ∧
    ends (exec (.streamHeader []) { loading with cfg.attempt := 1 }) (fun t => t.cfg.st = .configOnly) = true ∧
    ends (exec (.streamHeader []) { loading with cfg.bootSel := 1#2 }) (fun t => t.cfg.errCode = 12) = true ∧
    ends (exec (.segment []) { loading with cfg.bootSel := 1#2, cfg.stream := some { hdr := header 1 } }) (fun t => t.cfg.errCode = 12) = true ∧
    ends (exec .sourceSilent { loading with now := 100000000 }) (fun t => t.cfg.errCode = 19) = true ∧
    ends (exec .sourceSilent { loading with now := 99999999 }) (fun t => t.cfg.errCode = 0) = true ∧
    segTaken (segmentOf 1) 0 = true ∧ segTaken (segmentOf 1) 15 = false ∧
    ends (exec .hostLoadGap { up with now := 1000000001, cfg.st := .configOnly, cfg.ioOn := false, cfg.host := some { offered := 0, consumed := 0, since := 0, last := false, mb := none } })
      (fun t => t.cfg.errCode = 12) = true := by decide +kernel

/-- The device waits for CFG_DONE, or is in its start-up with the steps before step `k` done. -/
def starting (k : Nat) : State :=
  { loading with cfg.st := .startup, cfg.lockDone := decide (0 < k), cfg.gsr := decide (k ≤ 1), cfg.writesOn := decide (2 < k) }

/-- R162 to R169, R396: every start-up step in its turn and out of it, the waits at their limits, READY. -/
theorem witness_ImagesLoadAndStartUp_StartUpStepsComplete :
    ends (exec .cfgDoneHigh { loading with cfg.st := .waitDone }) (fun t => t.cfg.donePin && t.cfg.st = .startup) = true ∧
    ends (exec .doneWaitExpiry { loading with cfg.st := .waitDone, cfg.doneAt := some 0, now := 1000000000 }) (fun t => t.cfg.golden && (t.flt.raised.map (·.src)).contains 131) = true ∧
    ends (exec .doneWaitExpiry { loading with cfg.st := .waitDone, cfg.doneAt := some 0, cfg.attempt := 1, now := 1000000000 }) (fun t => t.cfg.st = .configOnly) = true ∧
    (starting 0).stepDue 0 = true ∧ (starting 0).stepDue 1 = false ∧ (starting 1).stepDue 1 = true ∧ (starting 2).stepDue 2 = true ∧ (starting 3).stepDue 3 = true ∧
    ends (exec .lockTimeout { starting 0 with now := 16000 * 64 }) (fun t => t.cfg.lockDone && t.cfg.lockTo && t.flt.raised.map (·.src) = [130]) = true ∧
    ends (exec .lockTimeout { starting 0 with now := 16000 * 64 - 1 }) (fun t => !t.cfg.lockDone) = true ∧
    ends (exec .releaseGsr (starting 1)) (fun t => !t.cfg.gsr) = true ∧ ends (exec .releaseGsr (starting 0)) (fun t => t.cfg.gsr) = true ∧
    ends (exec .enableWrites (starting 2)) (fun t => t.cfg.writesOn) = true ∧
    ends (exec .releaseIo (starting 3)) (fun t => t.cfg.ioOn && t.cfg.st = .running) = true ∧
    ends (exec .atmonReady { up with mbx.ready := false }) (fun t => t.mbx.ready && t.man.inForce && (t.box 32).tokenDue && (t.dport 7).st = .training) = true := by decide +kernel

/-- R166, R177, R414 to R418: the loading commands; extents at the ends of host memory. -/
theorem witness_LoadingCommandsComplete :
    status (exec (.cfgQuery 0) (cmd 0x0201 [] up)) = some 0 ∧
    ends (exec (.cfgHostLoad 0) (cmd 0x0202 [(0x10, 4, 3), (0x14, 4, 1), (0x18, 8, 0x030000000000 - 8), (0x20, 4, 8)] { up with cfg.st := .configOnly, cfg.ioOn := false }))
      (fun t => t.cfg.host.any fun h => h.offered = 8 && h.last) = true ∧
    ends (exec (.cfgReload 0) (cmd 0x0203 [(0x10, 4, 2), (0x14, 4, 1)] (held .admitted))) (fun t => t.cfg.reload = some (1000000, 2)) = true ∧
    up.drivesFlash = true ∧ up.goldenKept 0x3FF0000 0x10000 = false ∧
    ends (exec (.flashErase 0) (cmd 0x0211 [(0x10, 4, 0x10000), (0x14, 4, 0x10000)] { up with cfg.flash := [⟨0x10000, 1#8⟩, ⟨0x20000, 2#8⟩] })) (fun t => t.cfg.flash = [⟨0x20000, 2#8⟩]) = true ∧
    ends (exec (.flashWrite 0) (cmd 0x0212 [(0x14, 4, 16), (0x18, 8, vaultBase)] { pages with vlt.mem := [⟨3, 8#8⟩] })) (fun t => t.flashBytes 3 1 = [8#8]) = true ∧
    ends (exec (.flashRead 0) (cmd 0x0210 [(0x14, 4, 16), (0x18, 8, vaultBase)] pages)) (fun t => rdBytes t.vlt.mem 0 2 = [0xFF#8, 0xFF#8]) = true ∧
    ends (exec (.fwLoad 0) (cmd 0x0111 [(0x10, 8, 0x020000000000), (0x18, 4, 512)] { up with cfg.st := .configOnly, cfg.ioOn := false, mbx.prog := .recovery }))
      (fun t => t.fwWaits 0) = true ∧
    status (exec (.fwUpdate 0) (cmd 0x0110 [(0x10, 8, vaultBase), (0x18, 4, 16), (0x1C, 4, 0x3FF0000)] pages)) = some 9 := by decide +kernel

/-- A firmware image of 4 bytes: all that its checks leave open is the answers of the key fuses, the signature and the digest. -/
def image : List Byte := rdBytes (buf [(0, 4, 0x51564657), (4, 2, 1), (6, 2, 3), (0x10, 4, 4), (0x14, 4, 1)]) 0 516

theorem witness_FirmwareChecks (a : Config.vendorKey (Config.sha384 (bytesAt image 0x60 96)) = true)
    (b : Config.ecdsaOk (bytesAt image 0x60 96) (Config.sha384 (image.take 0xC0)) (bytesAt image 0xC0 96) = true)
    (c : Config.sha384 (image.drop 512) = bytesAt image 0x30 48) : up.fwErrOf image = 0 := by
  obtain ⟨h1, h2, h3, h4, h5, h6⟩ : fieldAt image 0 4 = 0x51564657 ∧ ¬ (fieldAt image 4 2 ≠ 1 ∨ fieldAt image 0x18 24 ≠ 0 ∨ fieldAt image 0x120 224 ≠ 0) ∧
      ¬ fieldAt image 6 2 < 3 ∧ ¬ (¬ bitOf (fieldAt image 0x14 4) 0 ∨ 1 < fieldAt image 0x14 4) ∧
      ¬ (fieldAt image 0xC 4 < up.sec.svnMin.toNat ∨ 63 < fieldAt image 0xC 4) ∧
      ¬ (fieldAt image 0x10 4 < 4 ∨ 1048064 < fieldAt image 0x10 4 ∨ (image.drop 512).length ≠ fieldAt image 0x10 4) := by decide +kernel
  simp only [State.fwErrOf, h1, h2, h3, h4, h5, h6, a, b, c, if_false, ne_eq, not_true_eq_false]

/-! ### Overlays and the configuration scrubber -/

/-- Region 3 of owner 0, with its record in the manifest and a container under handle 9. -/
def ovl (x : OvlRegion) : State :=
  { up with
    man := { up.man with regions := [{ region := 3, owner := 0, quads := [], border := [], storeSize := some 16 }] }
    ovl.region := [(3, x)], ovl.store := [(9, some { bytes := header 3, owner := 0, kind := 3, region := 3, version := 0#32 })], ovl.made := true }

/-- A staging of handle 9 by mailbox 0. -/
def staging (q : Bool) : Staging := { mb := 0, handle := 9, quiesced := q, since := 0, con := 0 }

/-- R182 to R199: a container dropped and one in use kept, a swap armed and disarmed, the queries, the scrubber's switch, the store made, a
frame copied. -/
theorem witness_OverlaysAreLoadedAndSwapped_OverlayCommandsComplete :
    ends (exec (.ovlDrop 0) (cmd 0x0221 [(0x10, 2, 9)] (ovl {}))) (fun t => (t.stored 9).isNone) = true ∧
    ends (exec (.ovlDrop 0) (cmd 0x0221 [(0x10, 2, 9)] (ovl { shd := some 9 }))) (fun t => (t.stored 9).isSome) = true ∧
    ends (exec (.ovlArmSwap 0) (cmd 0x0223 [(0x10, 4, 3), (0x14, 4, 15), (0x18, 8, 1000000), (0x28, 4, 1), (0x2C, 4, 255)]
      { ovl { shadow := .ready } with axu.axis := [(15, { cfg := { en := true }, st := .running })] })) (fun t => t.armed 3 && (t.ovlRegion 3).armId = 255#8) = true ∧
    status (exec (.ovlArmSwap 0) (cmd 0x0223 [(0x10, 4, 3), (0x14, 4, 15), (0x2C, 4, 256)]
      { ovl { shadow := .ready } with axu.axis := [(15, { cfg := { en := true }, st := .running })] })) = some 6 ∧
    ends (exec (.ovlDisarm 0) (cmd 0x0224 [(0x10, 4, 3)] { ovl { shadow := .ready } with stk.entry := [(3, { ctl := 0x430#16 })] })) (fun t => !t.armed 3) = true ∧
    ends (exec (.ovlQuery 0) (cmd 0x0226 [(0x10, 4, 3)] (ovl { swapS := true }))) (fun t => !(t.ovlRegion 3).swapS) = true ∧
    ends (exec (.cfgScrubConfig 0) (cmd 0x0230 [(0x10, 4, 1)] up)) (fun t => t.ovl.scrubEn) = true ∧
    status (exec (.cfgScrubQuery 0) (cmd 0x0231 [] up)) = some 0 ∧
    ends (exec .imageStoreCreate { up with dram.port := (List.range 8).map fun k => (k, { st := .ready }) }) (fun t => t.ovl.made && (t.region 15).defined) = true ∧
    ends (exec (.frameCopyFill 0#20) (ovl {})) (fun t => (t.frame 0).copied) = true ∧
    status (exec (.ovlStore 0) (cmd 0x0220 [(0x10, 8, vaultBase), (0x18, 4, 600)] (ovl {}))) = some 2 ∧
    status (exec (.ovlStage 0) (cmd 0x0222 [(0x10, 2, 9), (0x14, 4, 77)] (ovl {}))) = some 6 ∧
    status (exec (.ovlLoadQuiesced 0) (cmd 0x0225 [(0x10, 2, 8)] (ovl {}))) = some 6 ∧
    status (exec (.engLoad 0) (cmd 0x0240 [(0x10, 2, 8)] (ovl {}))) = some 6 ∧
    ({ ovl {} with noc.contract := [(0, some { owner := 0, st := .admitted, notify := none, group := 0, flows := [{ flow with dst := .region 15 }], ctxs := [], revalAt := none })] } : State).stagingCon 0 0 = true ∧
    (ovl {}).stagingCon 0 0 = false ∧ (ovl {}).regionRec 3 = some { region := 3, owner := 0, quads := [], border := [], storeSize := some 16 } := by decide +kernel

/-- R187 to R194, R517: a staging whose container is gone discarded, a swap at its edge and one ns early, a swap that a quiesced load owes, the region usable
and its record. -/
theorem witness_OverlaysAreLoadedAndSwapped_OverlaySwapsTakePlace :
    ends (exec (.stagingComplete 3 true) { ovl { shadow := .staging, staging := some (staging false) } with ovl.store := [] }) (fun t =>
      (t.ovlRegion 3).shadow = .empty && (t.ovlRegion 3).rejectS) = true ∧
    ends (exec (.quiesceEnd 3 true) { ovl { shadow := .ready, staging := some (staging true), quiesced := some 0 } with ovl.store := [] }) (fun t =>
      (t.ovlRegion 3).shadow = .empty && (t.ovlRegion 3).quiesced.isNone) = true ∧
    swapEdgeOf (256 * 100) = 100 ∧
    ends (exec (.swapEdge 3) { ovl { shadow := .ready, act := some 8, shd := some 9 } with stk.swaps := [(3, 3, 25600)], now := 100 }) (fun t =>
      (t.ovlRegion 3).active && (t.ovlRegion 3).act = some 9 && (t.ovlRegion 3).shd = some 8 && t.stk.swaps = []) = true ∧
    ends (exec (.swapEdge 3) { ovl { shadow := .ready, act := some 8, shd := some 9 } with stk.swaps := [(3, 3, 25600)], now := 99 }) (fun t => !(t.ovlRegion 3).active) = true ∧
    ends (exec (.swapEdge 3) { ovl { shadow := .ready, swapDue := true, staging := some (staging true), quiesced := some 0 } with now := 7 }) (fun t =>
      (t.ovlRegion 3).active && (t.ovlRegion 3).swapping = some 8) = true ∧
    ends (exec (.regionUsable 3) { ovl { swapping := some 0 } with now := 8 }) (fun t => (t.ovlRegion 3).swapping.isNone) = true ∧
    ends (exec (.regionUsable 3) { ovl { swapping := some 0 } with now := 7 }) (fun t => (t.ovlRegion 3).swapping.isSome) = true ∧
    ends (exec (.swapRecordUpdate 3) (ovl { record := true, active := true })) (fun t => (t.ovlRegion 3).shownActive && (t.ovlRegion 3).swaps = 1#32) = true := by decide +kernel

/-- Frame 0 as a scrubber finds it. -/
def scrubbed (f : Frame) : State := { up with ovl.scrubEn := true, ovl.scan := some 0, cfg.frame := [(0, f)] }

/-- R195 to R197: the last frame of plane A and the first that does not exist; each finding; a lap at its limit and beyond. -/
theorem witness_ScrubberRepairsFrames :
    frameExists (959 * 512 + 383) = true ∧ frameExists 384 = false ∧ frameExists (960 * 512) = false ∧
    ends (exec (.scrubFrameRead 0#3084) (scrubbed {})) (fun t => (t.frame 0).found = .clean && t.ovl.scan = some 1) = true ∧
    frameAfter 383 = some 512 ∧ frameAfter (959 * 512 + 383) = some 524296 ∧
    ends (exec (.frameRepair 0#20 true) (scrubbed { up := 1#3084, found := .corrected })) (fun t => (t.frame 0).up = 0#3084 && t.ovl.sbe = 1#32 && t.flt.raised.map (·.src) = [132]) = true ∧
    ends (exec (.frameRepair 0#20 false) (scrubbed { up := 1#3084, found := .corrected })) (fun t => (t.frame 0).unrep && t.flt.raised.map (·.src) = [135]) = true ∧
    ends (exec (.frameRepair 0#20 true) (scrubbed { up := 3#3084, found := .uncorrectable, copied := true })) (fun t => (t.frame 0).up = 0#3084 && t.ovl.mbe = 1#32) = true ∧
    ends (exec (.frameRepair 0#20 true) (scrubbed { up := 3#3084, found := .uncorrectable })) (fun t => (t.frame 0).unrep && (t.flt.raised.map (·.src)).contains 133) = true ∧
    ends (exec .scrubLapEnd { scrubbed {} with ovl.scan := none, now := 125000000 }) (fun t => !t.ovl.lag) = true ∧
    ends (exec .scrubLapEnd { scrubbed {} with ovl.scan := none, now := 125000001 }) (fun t => t.ovl.lag && t.flt.raised.map (·.src) = [137]) = true := by decide +kernel

/-! ### Engine words, written from the encodings of R230 to R241 -/

theorem test_parallel_words :
    engDecode 0xC0120B15#32 = some (.par .mac 0 0 (.mv 2 1 0 false 1) (.mv 3 0 1 false 5)) ∧
    engDecode 0xF7C00000#32 = some (.par .max 3 7 .none .none) ∧
    engDecode 0x80000000#32 = some (.par .nop 0 0 .none .none) ∧ engDecode 0x82000000#32 = none ∧
    engDecode 0x80000800#32 = none := by decide +kernel

theorem test_move_words :
    engDecode 0x041FFFFF#32 = some (.ldi 3#7 0x7FFFF#19) ∧ engDecode 0x09B00800#32 = some (.ldih 0x36#7 0x800#12) ∧
    engDecode 0x0D80B000#32 = some (.movec 0x30#7 0x0B#7) ∧ engDecode 0x10671C80#32 = some (.movem 0x0C#7 true true (.ptr 3 2 1)) ∧
    engDecode 0x10001234#32 = some (.movem 0#7 false false (.abs 0x1234#13)) ∧ engDecode 0x0DB80000#32 = none := by decide +kernel

theorem test_register_words :
    engDecode 0x16FC7FFF#32 = some (.dalu .tst 7 (.imm 0x7FFF#15)) ∧ engDecode 0x14088000#32 = some (.dalu .add 1 (.reg 1)) ∧
    engDecode 0x17000000#32 = none := by decide +kernel

theorem test_control_words :
    engDecode 0x23801FFF#32 = some (.jcc 14#4 0x1FFF#13) ∧ engDecode 0x23C00000#32 = none ∧ engDecode 0x24280123#32 = some (.jsr 5 0x123#13) ∧
    engDecode 0x28100000#32 = some (.jmpDn 2) ∧ engDecode 0x30000040#32 = some (.rep 0x40#13) ∧
    engDecode 0x37FFE041#32 = some (.repi 8191#13 0x41#13) ∧ engDecode 0x38000000#32 = some .endl := by decide +kernel

theorem test_system_words :
    engDecode 0x40000000#32 = some .take ∧ engDecode 0x40100105#32 = some (.done true 5#8) ∧ engDecode 0x40200000#32 = some .rti ∧
    engDecode 0x40300000#32 = some .bkpt ∧ engDecode 0x40400100#32 = some (.stset 0x100#9) ∧ engDecode 0x405001FF#32 = some (.stclr 0x1FF#9) ∧
    engDecode 0x40806010#32 = some (.kdma 3 0x10#13) ∧ engDecode 0x40904000#32 = some (.kdmaw 2) ∧
    engDecode 0x40A1A800#32 = some (.pushq 1 2 2 true) ∧ engDecode 0x40B70000#32 = some (.popq 7 0 0 false) ∧
    engDecode 0x40CC3000#32 = some (.lock true 4 3) ∧ engDecode 0x40D01800#32 = some (.unlock true 1) ∧
    engDecode 0x40A0C000#32 = none ∧ engDecode 0x40600000#32 = none := by decide +kernel

/-! ### Engine instructions -/

/-- Engine 5 runs, and the word at its PC spells `op`. -/
def core (op : EOp) (f : Eng → Eng := id) : State :=
  { up with eng := [(5, f { st := .running, pc := 32#13, p := [(32, engEncode op)] })] }

/-- D0 = 1/2, D4 = −1, D1 = D5 = the least fraction. -/
def fracs (e : Eng) : Eng := { e with d := #v[0x400000#24, 1#24, 0#24, 0#24, 0x800000#24, 1#24, 0#24, 0#24] }

/-- R231 to R236: a MAC with both moves, the greatest product, an XY store, a load that finds an uncorrectable word. -/
theorem witness_ParallelInstructionsComplete :
    (core (.par .mac 0 0 (.mv 2 1 0 false 1) (.mv 3 0 1 false 5)) fracs).plain 5 (.par .mac 0 0 (.mv 2 1 0 false 1) (.mv 3 0 1 false 5)) = true ∧
    ends (exec (.mac 5 0 0 (.mv 2 1 0 false 1) (.mv 3 0 1 false 5)) (core (.par .mac 0 0 (.mv 2 1 0 false 1) (.mv 3 0 1 false 5)) fun e =>
      { fracs e with x := [(0, 7#24)], y := [(0, 8#24)], ny := #v[0#13, 5#13, 0#13, 0#13] })) (fun t => let e := t.engAt 5
        e.a[0] = 0xFFC00000000000#56 && e.d[1] = 7#24 && e.d[5] = 8#24 && e.px[1] = 1#13 && e.py[0] = 5#13 && stBit e.sr 3 && e.pc = 33#13) = true ∧
    ends (exec (.mpy 5 3 6 .none .none) (core (.par .mpy 3 6 .none .none) fun e => { e with d := Vector.replicate 8 0x800000#24 })) (fun t =>
      (t.engAt 5).a[3] = 0x800000000000#56) = true ∧
    ends (exec (.nop 5 (.mv 5 0 0 true 0) .none) (core (.par .nop 0 0 (.mv 5 0 0 true 0) .none) fracs)) (fun t =>
      tget (t.engAt 5).x 0#24 0 = 0x400000#24 && tget (t.engAt 5).y 0#24 0 = 1#24) = true ∧
    ends (exec (.nop 5 (.mv 1 0 0 false 0) .none) (core (.par .nop 0 0 (.mv 1 0 0 false 0) .none) fun e => { e with marks := [(8192, .poisoned)] }))
      (fun t => (t.engAt 5).pc = 4#13 && (t.engAt 5).ipc = 32#13 && (t.engAt 5).d[0] = 0#24) = true := by decide +kernel

/-- R208, R235: ABS of the most negative accumulator wraps and sets V and L; the last bit out of ASR #8; a store that saturates. -/
theorem test_accumulator_corners :
    ends (exec (.abs 5 0 .none .none) (core (.par .abs 0 0 .none .none) fun e => { e with a := Vector.replicate 4 0x80000000000000#56 })) (fun t =>
      (t.engAt 5).a[0] = 0x80000000000000#56 && stBit (t.engAt 5).sr 1) = true ∧
    (convert 0x01000000000000#56 0x80#24) = (0x7FFFFF#24, true) ∧ (convert 0x01000000000000#56 0#24) = (0#24, false) := by decide +kernel

/-- R237, R238: a sum that wraps, an immediate at its least value, shifts by 23 and 24. -/
theorem witness_RegisterOperationsComplete :
    (core (.dalu .add 0 (.reg 4))).plain 5 (.dalu .add 0 (.reg 4)) = true ∧
    ends (exec (.daluAdd 5 4 (.reg 4)) (core (.dalu .add 4 (.reg 4)) fracs)) (fun t => (t.engAt 5).d[4] = 0#24) = true ∧
    ends (exec (.daluSub 5 0 (.imm 0x4000#15)) (core (.dalu .sub 0 (.imm 0x4000#15)))) (fun t => (t.engAt 5).d[0] = 0x4000#24) = true ∧
    (daluRun .asl 1#24 23#24).1 = some 0x800000#24 ∧ (daluRun .asl 1#24 24#24).1 = some 0#24 ∧
    (daluRun .asr 0x800000#24 24#24).1 = some 0xFFFFFF#24 ∧ (daluRun .min 0x800000#24 1#24).1 = some 0x800000#24 := by decide +kernel

/-- What engine 5 holds after its instruction, where it goes on at the next word. -/
def runs (i : Instr) (op : EOp) (p : Eng → Bool) : Bool :=
  ends (exec i (core op fun e => { fracs e with a := Vector.replicate 4 0x00400000000000#56 })) fun t => (t.engAt 5).pc = 33#13 && p (t.engAt 5)

/-- R235 on D0 × D4 = −1/2, D1 × D5 = 2 units and accumulators that hold 1/2. -/
theorem test_accumulator_operations :
    runs (.dmpy 5 2 0 .none .none) (.par .dmpy 2 0 .none .none) (fun e => e.a[0] = 0xFFC00000000000#56 && e.a[2] = 2#56) = true ∧
    runs (.dmac 5 1 0 .none .none) (.par .dmac 1 0 .none .none) (fun e => e.a[2] = 0#56 && e.a[3] = 0x00400000000002#56) = true ∧
    runs (.dmsa 5 3 0 .none .none) (.par .dmsa 3 0 .none .none) (fun e => e.a[1] = 0x00800000000000#56 && e.a[3] = 0x00400000000002#56) = true ∧
    runs (.mpy2 5 0 0 .none .none) (.par .mpy2 0 0 .none .none) (fun e => e.a[0] = 0xFFC00000000002#56) = true ∧
    runs (.mac2 5 3 0 .none .none) (.par .mac2 3 0 .none .none) (fun e => e.a[3] = 2#56) = true ∧
    runs (.mas2 5 0 0 .none .none) (.par .mas2 0 0 .none .none) (fun e => e.a[0] = 0xFFFFFFFFFFFFFE#56) = true ∧
    runs (.macn 5 0 0 .none .none) (.par .macn 0 0 .none .none) (fun e => e.a[0] = 0x00800000000000#56) = true ∧
    runs (.aluAdd 5 0 4 .none .none) (.par .add 0 4 .none .none) (fun e => e.a[0] = 0xFFC00000000000#56) = true ∧
    runs (.aluSub 5 0 1 .none .none) (.par .sub 0 1 .none .none) (fun e => e.a[0] = 0#56) = true ∧
    runs (.aluCmp 5 0 1 .none .none) (.par .cmp 0 1 .none .none) (fun e => e.a[0] = 0x00400000000000#56) = true ∧
    runs (.copy 5 0 4 .none .none) (.par .copy 0 4 .none .none) (fun e => e.a[0] = 0xFF800000000000#56) = true ∧
    runs (.aluMax 5 0 4 .none .none) (.par .max 0 4 .none .none) (fun e => e.a[0] = 0x00400000000000#56) = true ∧
    runs (.clr 5 3 .none .none) (.par .clr 3 0 .none .none) (fun e => e.a[3] = 0#56 && e.a[2] ≠ 0#56) = true ∧
    runs (.rnd 5 0 .none .none) (.par .rnd 0 0 .none .none) (fun e => e.a[0] = 0x00400000000000#56) = true ∧
    runs (.neg 5 0 .none .none) (.par .neg 0 0 .none .none) (fun e => e.a[0] = 0xFFC00000000000#56) = true ∧
    runs (.asr1 5 0 .none .none) (.par .asr1 0 0 .none .none) (fun e => e.a[0] = 0x00200000000000#56) = true ∧
    runs (.asl1 5 0 .none .none) (.par .asl1 0 0 .none .none) (fun e => e.a[0] = 0x00800000000000#56) = true ∧
    runs (.asr8 5 0 .none .none) (.par .asr8 0 0 .none .none) (fun e => e.a[0] = 0x00004000000000#56) = true := by decide +kernel

/-- R238 on D0 = 1/2, D4 = −1 and D1 = D5 = 1 unit. -/
theorem test_register_operations :
    runs (.daluCmp 5 0 (.reg 4)) (.dalu .cmp 0 (.reg 4)) (fun e => e.d[0] = 0x400000#24) = true ∧
    runs (.daluAnd 5 0 (.reg 4)) (.dalu .and 0 (.reg 4)) (fun e => e.d[0] = 0#24) = true ∧
    runs (.daluOr 5 0 (.reg 4)) (.dalu .or 0 (.reg 4)) (fun e => e.d[0] = 0xC00000#24) = true ∧
    runs (.daluXor 5 0 (.reg 0)) (.dalu .xor 0 (.reg 0)) (fun e => e.d[0] = 0#24) = true ∧
    runs (.daluAsl 5 1 (.imm 23#15)) (.dalu .asl 1 (.imm 23#15)) (fun e => e.d[1] = 0x800000#24) = true ∧
    runs (.daluAsr 5 4 (.imm 24#15)) (.dalu .asr 4 (.imm 24#15)) (fun e => e.d[4] = 0xFFFFFF#24) = true ∧
    runs (.daluLsr 5 4 (.imm 23#15)) (.dalu .lsr 4 (.imm 23#15)) (fun e => e.d[4] = 1#24) = true ∧
    runs (.daluMin 5 0 (.reg 4)) (.dalu .min 0 (.reg 4)) (fun e => e.d[0] = 0x800000#24) = true ∧
    runs (.daluMax 5 4 (.reg 0)) (.dalu .max 4 (.reg 0)) (fun e => e.d[4] = 0x400000#24) = true := by decide +kernel

/-- R237 to R241, R472: moves, a branch, loops from none and from four, BKPT with and without an action. -/
theorem witness_MoveAndControlInstructionsComplete :
    ends (exec (.ldi 5 3#7 0x7FFFF#19) (core (.ldi 3#7 0x7FFFF#19))) (fun t => (t.engAt 5).d[3] = 0xFFFFFF#24) = true ∧
    ends (exec (.ldih 5 3#7 0x800#12) (core (.ldih 3#7 0x800#12) fun e => { e with d := Vector.replicate 8 0x123456#24 })) (fun t => (t.engAt 5).d[3] = 0x800456#24) = true ∧
    ends (exec (.movec 5 8#7 0#7) (core (.movec 8#7 0#7) fun e => { e with d := Vector.replicate 8 0x800001#24 })) (fun t => (t.engAt 5).a[0] = 0xFF800001000000#56) = true ∧
    ends (exec (.movem 5 0#7 false true (.abs 0x1FFF#13)) (core (.movem 0#7 false true (.abs 0x1FFF#13)) fun e => { e with y := [(8191, 6#24)] })) (fun t => (t.engAt 5).d[0] = 6#24) = true ∧
    ends (exec (.movem 5 0x33#7 false true (.abs 0#13)) (core (.movem 0x33#7 false true (.abs 0#13)) fun e => { e with y := [(0, 4#24)] })) (fun t => (t.engAt 5).ldepth = 4) = true ∧
    ends (exec (.jcc 5 1#4 0x100#13) (core (.jcc 1#4 0x100#13) fun e => { e with sr1 := 0#24 })) (fun t => (t.engAt 5).slot = some (.branch none) && (t.engAt 5).pc = 33#13) = true ∧
    ends (exec (.jcc 5 0#4 0x100#13) (core (.jcc 0#4 0x100#13))) (fun t => (t.engAt 5).slot = some (.branch (some 0x100#13))) = true ∧
    ends (exec (.jsr 5 2 0x100#13) (core (.jsr 2 0x100#13))) (fun t => (t.engAt 5).d[2] = 34#24) = true ∧
    ends (exec (.rep 5 40#13) (core (.rep 40#13) fun e => { e with loop := { lc := 3#24 } })) (fun t => (t.engAt 5).ldepth = 1 && (t.engAt 5).loop = { lc := 3#24, ls := 33#13, le := 40#13 }) = true ∧
    ends (exec (.rep 5 40#13) (core (.rep 40#13))) (fun t => (t.engAt 5).ldepth = 0 && (t.engAt 5).pc = 41#13) = true ∧
    ends (exec (.rep 5 40#13) (core (.rep 40#13) fun e => { e with loop := { lc := 3#24 }, ldepth := 4 })) (fun t => (t.engAt 5).pc = 4#13) = true ∧
    ends (exec (.repi 5 8191#13 40#13) (core (.repi 8191#13 40#13))) (fun t => (t.engAt 5).loop.lc = 8191#24) = true ∧
    ends (exec (.endl 5) (core .endl fun e => { e with ldepth := 1 })) (fun t => (t.engAt 5).ldepth = 0) = true ∧
    ends (exec (.stset 5 0x1FF#9) (core (.stset 0x1FF#9))) (fun t => (t.engAt 5).sr = 0x1FF#24) = true ∧
    ends (exec (.stclr 5 0x1FF#9) (core (.stclr 0x1FF#9))) (fun t => (t.engAt 5).sr = 0#24) = true ∧
    ends (exec (.jmpDn 5 0) (core (.jmpDn 0) fun e => { e with d := Vector.replicate 8 0xFFFFFF#24 })) (fun t => (t.engAt 5).slot = some (.branch (some 8191#13))) = true ∧
    ends (exec (.rti 5) (core .rti fun e => { e with ipc := 9#13 })) (fun t => (t.engAt 5).slot = some (.rti 9#13 0#24)) = true ∧
    ends (exec (.bkpt 5) (core .bkpt)) (fun t => (t.engAt 5).pc = 33#13 && !(t.engAt 5).dbgInt) = true ∧
    ends (exec (.bkpt 5) (core .bkpt fun e => { e with dbg := { bkptAct := 2 } })) (fun t => (t.engAt 5).dbgInt && (t.engAt 5).dbg.hit = 0x80#8) = true := by decide +kernel

/-- An engine after an instruction that changes nothing but what every instruction changes. -/
def retired (e : Eng) : Eng := e.retire e {}

/-- An engine at the last word of a loop of count `n`. -/
def atLoopEnd (n : W24) : Eng := { pc := 40#13, loop := { lc := n, ls := 33#13, le := 40#13 }, ldepth := 1 }

/-- R240 to R245, R468: the last word of a loop with a count above 1 and with the last one, a delay slot, a STEP's last instruction. -/
theorem witness_InstructionsRetireOrFault_InstructionsRetireInOrder :
    (atLoopEnd 2#24).atLe = true ∧ (retired (atLoopEnd 2#24)).pc = 33#13 ∧ (retired (atLoopEnd 2#24)).loop.lc = 1#24 ∧
    (atLoopEnd 1#24).view 0x30 = 1 ∧ (retired (atLoopEnd 1#24)).pc = 41#13 ∧ (retired (atLoopEnd 1#24)).ldepth = 0 ∧
    (retired { pc := 40#13, slot := some (.branch (some 9#13)) }).pc = 9#13 ∧
    (retired { pc := 40#13, steps := 1 }).halted = true ∧ (retired { pc := 40#13, steps := 1 }).pc = 41#13 ∧
    (retired { pc := 40#13, steps := 2 }).halted = false ∧ (retired { pc := 40#13, steps := 2 }).steps = 1 := by decide +kernel

/-- R211 to R217: the word 0, a fault in a handler, the watchdog at 0, an interrupt below a higher one. -/
theorem witness_InstructionsRetireOrFault_EngineFaultsAndInterrupts :
    ends (exec (.illegalInstruction 5) { core .endl with eng := [(5, { st := .running, pc := 32#13 })] }) (fun t =>
      (t.engAt 5).pc = 4#13 && (t.engAt 5).fdepth = 1 && (t.flt.raised.map (·.src)) = [517]) = true ∧
    ends (exec (.illegalInstruction 5) (core .rti)) (fun t => (t.engAt 5).pc = 32#13) = true ∧
    ends (exec (.doubleFault 5) { up with eng := [(5, { st := .running, double := true, fdepth := 1 })] }) (fun t => (t.engAt 5).st = .stopped && !(t.engAt 5).double) = true ∧
    ends (exec (.taskWatchdogExpiry 5) { up with eng := [(5, { st := .task, takePc := 7#13 })] }) (fun t => (t.engAt 5).st = .running) = true ∧
    ends (exec (.interruptAccept 5 .software) { up with eng := [(5, { st := .running, sr := 0x140#24, sr2 := 0x140#24, ien := 2#2, swi := true, pc := 50#13 })] }) (fun t =>
      (t.engAt 5).ipc = 50#13 && !(t.engAt 5).swi && !stBit (t.engAt 5).sr 8) = true := by decide +kernel

/-- A token of context 1 without an argument. -/
def tok : Token := ⟨1, 0#64, 90#64, 0#48, 0, false, 0⟩

/-- R214 to R217: TAKE, a token's start without arguments and with arguments of another owner, DONE and its completion. -/
theorem witness_TasksStartAndEnd :
    ends (exec (.take 5) (core .take)) (fun t => (t.engAt 5).st = .waiting && (t.engAt 5).takePc = 32#13) = true ∧
    ends (exec (.taskStart 0) { tasks 0 with eng := [(0, { st := .waiting })], tdu.running := [(0, some (tok, 0))] }) (fun t =>
      (t.engAt 0).st = .task && (t.engAt 0).wdog = 100#24 && (t.engAt 0).dln = 90#64) = true ∧
    ends (exec (.argFault 0) { tasks 0 with eng := [(0, { st := .waiting })], tdu.running := [(0, some ({ tok with arg := BitVec.ofNat 48 (vaultBase + 65536) }, 0))]
                                            tdu.ctx := [(1, { valid := true, budget := 100, argSize := 4 })], vlt.page := [(1, { owner := 1 })] }) (fun t =>
      (tget t.tdu.running none 0).isNone) = true ∧
    ends (exec (.done 5 true 3#8) (core (.done true 3#8) fun e => { e with st := .task, wdog := 9#24 })) (fun t => (t.engAt 5).stall = some (.done true 3#8)) = true ∧
    ends (exec (.doneCompletion 0) { tasks 0 with eng := [(0, { st := .task, stall := some (.done true 3#8), takePc := 32#13, wdog := 9#24 })], tdu.running := [(0, some (tok, 0))] })
      (fun t => (t.engAt 0).st = .running && (t.engAt 0).pc = 32#13 && (tget t.tdu.running none 0).isNone) = true := by decide +kernel

/-- R218 to R226: a descriptor started and one with the reserved format, KDMAW in its three cases, queue and lock instructions, a lock
opened for 204.8 ns and less, SOFTWARE raised, KIT_LOCK read. -/
theorem witness_EnginesMoveDataAndLock :
    ends (exec (.kdma 5 3 16#13) (core (.kdma 3 16#13))) (fun t => ((t.engAt 5).chan[3]).desc.isSome) = true ∧
    ends (exec (.kdmaw 5 3) (core (.kdmaw 3) fun e => e.setChan 3 fun c => { c with err := true })) (fun t => (t.engAt 5).pc = 4#13) = true ∧
    ends (exec (.kdmaDescriptorComplete 5 3) (core .take fun e => e.setChan 3 fun _ => { desc := some ⟨0#48, 4#48, 4, 0, 0, 1, 1, 0#13⟩, done := true })) (fun t =>
      ((t.engAt 5).chan[3]).desc.isNone && !((t.engAt 5).chan[3]).err) = true ∧
    ends (exec (.kdmaw 5 3) (core (.kdmaw 3))) (fun t => (t.engAt 5).pc = 33#13) = true ∧
    ends (exec (.popq 5 0 0 0 false) { core (.popq 0 0 0 false) with qcu.queue := [(0, { kind := .message, sizeExp := 4, base := vaultBase, en := true })], vlt.page := [(0, { alloc := true })] })
      (fun t => stBit (t.engAt 5).sr 2 && (t.engAt 5).pc = 33#13) = true ∧
    ends (exec (.pushq 5 0 0 0 false) { core (.pushq 0 0 0 false) with qcu.queue := [(0, { kind := .message, sizeExp := 4, base := vaultBase, en := true })], vlt.page := [(0, { alloc := true })] })
      (fun t => (t.queue 0).count = 1 && (t.engAt 5).pc = 33#13) = true ∧
    ends (exec (.lock 5 false 0 0) (core (.lock false 0 0))) (fun t => (t.engAt 5).lock = some { vault := false, word := 0, broken := false, since := 0 } && t.engHolds 5) = true ∧
    ends (exec (.unlock 5 false 0) (core (.unlock false 0) fun e => { e with lock := some { vault := false, word := 0, broken := true, since := 0 } })) (fun t =>
      (t.engAt 5).lock.isNone && stBit (t.engAt 5).sr 5) = true ∧
    ends (exec (.lockBreak 5) { core .take (fun e => { e with lock := some { vault := false, word := 0, broken := false, since := 0 } }) with now := 205 }) (fun t =>
      (t.engAt 5).lock = some { vault := false, word := 0, broken := true, since := 0 } && (t.kitAt 0).broken = 1#16) = true ∧
    ends (exec (.lockBreak 5) { core .take (fun e => { e with lock := some { vault := false, word := 0, broken := false, since := 0 } }) with now := 204 }) (fun t =>
      (t.kitAt 0).broken = 0#16) = true ∧
    ends (exec (.bankLockRelease 5) { up with kit := [(0, { locks := [(3, 5, 0)] })], now := 400 }) (fun t => !t.engHolds 5) = true ∧
    ends (exec (.eccWriteback 5 .x 8191#16) { up with eng := [(5, { marks := [(8192 + 8191, .correctable)] })] }) (fun t => t.cellMark .x 5 8191 = .clean) = true ∧
    ends (exec (.engSwiSet (.kit 15) 127 1#32) up) (fun t => (t.engAt 127).swi) = true ∧
    ends (exec (.kitLockRead .belfry 15) { up with kit := [(15, { broken := 6#16 })] }) (fun t => leNat t.readData = 6 && (t.kitAt 15).broken = 0#16) = true := by decide +kernel

/-! ### Register writes, reset and the invariants -/

/-- R17 to R42: each kind of register write once; ctlTop and the last unaligned offset below it. -/
theorem witness_RegisterWritesComplete :
    ends (exec (.registerWrite .belfry 0x14FFFFF#28 false 0#64) up) (fun t => t.flt.raised = []) = true ∧
    ends (exec (.registerWrite .belfry 0x1500000#28 false 0#64) up) (fun t => t.flt.raised.map (·.src) = [199]) = true ∧
    ends (exec (.registerWrite (.engine 0) 0x601000#28 false 0x3FFFF#64) up) (fun t => (t.win 0).sel = 0x3FFFF) = true ∧
    ends (exec (.registerWrite (.engine 0) 0xC00000#28 false 1#64) up) (fun t => t.flt.raised.map (·.src) = [198]) = true ∧
    ends (exec (.registerWrite .belfry 0x20000C#28 false 0x1C350#64) up) (fun t => t.ckr.limit = 50000#16 && t.ckr.autoReturn) = true ∧
    ends (exec (.registerWrite .belfry 0x900004#28 false 0x1000#64) up) (fun t => t.vlt.div = 16#5 && !t.vlt.scrubEn) = true ∧
    ends (exec (.registerWrite .belfry 0xA70024#28 false 0x6301#64) up) (fun t => (t.dport 7).lapH = 99#8) = true ∧
    ends (exec (.registerWrite .belfry 0x600004#28 false 0x3FF#64) up) (fun t => t.qcu.limit = 1023#10) = true ∧
    ends (exec (.registerWrite .belfry 0x3003DC#28 false 0#64) { up with axu.axis := [(15, { st := .running })] }) (fun t => t.freeCount = 1) = true := by decide +kernel

theorem witness_StepRunsFrontCommand :
    ends (step { up with pending := [.bypass, .idcode] }) (fun t => t.pending = [.idcode] && t.dbg.tap.ir = 0xFF#8) = true ∧
    ends (step up) (fun t => t = up) = true := by decide +kernel

/-- The greatest distance ahead, and half the circle, which is behind. -/
theorem witness_PositionsCompareModulo :
    posAhead 0x7FFFFFFFFFFFFFFF#64 0#64 = true ∧ posAhead 0x8000000000000000#64 0#64 = false ∧ posAhead 0#64 0#64 = false ∧
    posAhead 1#64 0xFFFFFFFFFFFFFFFF#64 = true := by decide +kernel

/-- A slice with signed, saturating output, at the ends of the signed 24-bit range and beyond them. -/
def satSlice : SliceCfg := { (default : SliceCfg) with sgnO := true, sat := true, shift := 0 }

theorem witness_SliceArithmeticWrapsAndSaturates :
    satSlice.sgnO = true ∧ satSlice.sat = true ∧ satSlice.shift.val = 0 ∧
    sliceOut satSlice 0x7FFFFF#64 = (0x7FFFFF#24, false) ∧ sliceOut satSlice 0x800000#64 = (0x7FFFFF#24, true) ∧
    sliceOut satSlice 0xFFFFFFFFFF800000#64 = (0x800000#24, false) ∧ sliceOut satSlice 0xFFFFFFFFFF7FFFFF#64 = (0x800000#24, true) ∧
    sliceFn 0x17 1#64 1#64 1#64 1#64 true true = none := by decide +kernel

/-- A written state keeps its memories in canonical form through a step that writes more, and through one that writes back what an
unlisted address reads as. -/
theorem witness_StepKeepsMemoriesCanonical :
    Memory.wf { up with dram.mem := [⟨3, 1#8⟩], stk.entry := [(9, { pos := 1#64 })] } = true ∧
    Memory.wf { up with dram.mem := [⟨3, 0#8⟩] } = false ∧ Memory.wf { up with dram.mem := [⟨3, 1#8⟩, ⟨2, 1#8⟩] } = false ∧
    ends (step { up with dram.mem := [⟨3, 1#8⟩], pending := [.por] }) (fun t => Memory.wf t && t.dram.mem = []) = true := by decide +kernel

theorem witness_StepFollowsLifeCycle :
    ends (step { fuse .returned with pending := [.lcScrap 0], mbx := (cmd 0x0B26 [] (fuse .returned)).mbx }) (fun t => t.fuses.lc = .scrapped) = true ∧
    ends (step { fuse .scrapped with pending := [.lcScrap 0], mbx := (cmd 0x0B26 [] (fuse .scrapped)).mbx }) (fun t => t.fuses.lc = .scrapped) = true := by decide +kernel

theorem witness_EngineWordsDecodeAsEncoded :
    (.repi 8191#13 8191#13 : EOp).wf = true ∧ (.par .asl8 3 0 (.mv 7 3 3 true 3) (.mv 3 3 3 false 7) : EOp).wf = true ∧
    engDecode (engEncode (.par .asl8 3 0 (.mv 7 3 3 true 3) (.mv 3 3 3 false 7))) = some (.par .asl8 3 0 (.mv 7 3 3 true 3) (.mv 3 3 3 false 7)) := by decide +kernel

theorem witness_UndefinedWordsAreIllegal :
    bitsOf 0x7FFFFFFF 26 5 = 31 ∧ engDecode 0x7FFFFFFF#32 = none ∧ engDecode 0x44000000#32 = none ∧ engDecode 0x40000000#32 = some .take := by decide +kernel

/-! ### Ill-formed commands -/

theorem test_illformed_access :
    (Instr.interimResponse 0 1001#16 0#32 0#64).wellFormed = false ∧ (Instr.doorbellPush .belfry 0 (List.replicate 17 0#8)).wellFormed = false ∧
    (Instr.strikeStageWrite .belfry 0 4 true 0#64).wellFormed = false ∧ (Instr.strikeStageWrite .belfry 0 4 false 0x100000000#64).wellFormed = false ∧
    (Instr.strikeEntryCommit .belfry 0 false 0x100000000#64).wellFormed = false ∧ (Instr.registerWrite .belfry 2#28 false 0#64).wellFormed = false ∧
    (Instr.debugRead 0 0#48 0).wellFormed = false ∧ (Instr.debugRead 0 0xFFFFFFFFFFFF#48 2).wellFormed = false ∧
    (Instr.dbgPage 2#12 false 0#32).wellFormed = false ∧ (Instr.mailboxChannelAccess 0 2#12 false 0#32).wellFormed = false ∧
    (Instr.configurationRequest 0 2#12 false 0#32).wellFormed = false ∧ (Instr.vaultSideChannelAccess (.kit 0) 8#21 false 0#16 0#128 false).wellFormed = false ∧
    (Instr.hostRequest 0 0 0#36 true 4 [0#8]).wellFormed = false ∧ (Instr.hostRequest 0 0 0#36 false 0 []).wellFormed = false := by decide +kernel

theorem test_illformed_engine :
    (Instr.nop 0 (.mv 1 0 0 false 0) (.mv 5 0 0 false 1)).wellFormed = false ∧ (Instr.nop 0 (.mv 1 0 1 false 0) .none).wellFormed = false ∧
    (Instr.ldi 0 0x37#7 0#19).wellFormed = false ∧ (Instr.ldih 0 0x08#7 0#12).wellFormed = false ∧ (Instr.movec 0 0#7 0x3D#7).wellFormed = false ∧
    (Instr.movem 0 0x3C#7 false false (.abs 0#13)).wellFormed = false ∧ (Instr.jcc 0 15#4 0#13).wellFormed = false ∧
    (Instr.engineRemap 0 .x 8192#16).wellFormed = false ∧ (Instr.eccWriteback 0 .p 8192#16).wellFormed = false := by decide +kernel

theorem test_illformed_units :
    (Instr.fabricInitiatorRequest 0 0 true 0#48 2 [0#8]).wellFormed = false ∧ (Instr.fabricQueuePush 0 0 []).wellFormed = false ∧
    (Instr.queuePushAccept .belfry 0 [0#8]).wellFormed = false ∧ (Instr.streamHeader []).wellFormed = false ∧ (Instr.segment []).wellFormed = false ∧
    (Instr.frameCopyFill 384#20).wellFormed = false ∧ 
    (Instr.frameRepair 511#20 true).wellFormed = false ∧ (Instr.portFreeze 0 0 0#36 0#128).wellFormed = false ∧
    (Instr.ringCellReceive 0 []).wellFormed = false ∧ (Instr.ringPkt 0 0 (.read 0#36 0 0#12)).wellFormed = false := by decide +kernel

/-- No row of the command table gives bits. -/
theorem test_no_word_spells_a_command (n w : Nat) (s : State) : decodeTableWord n w = none ∧ s.withFetchWord n w = s := by
  constructor <;> rfl

end Sys2Proof.Tests
end

/-! ### Axis positions (R43): the distance around the circle of 2^64, read in natural numbers -/

section
namespace Sys2Proof.Machine

/-- The distance from `c` up to `p` around the circle, as R43 writes it. -/
theorem toNat_sub_position (p c : W64) : (p - c).toNat = (p.toNat + 2 ^ 64 - c.toNat) % 2 ^ 64 := by
  rw [BitVec.toNat_sub, Nat.add_comm p.toNat, Nat.sub_add_comm c.isLt.le]

/-- The inequality that `posAhead` tests is R43's "the difference is non-zero". -/
theorem position_ne_iff_toNat_sub_ne_zero (p c : W64) : p ≠ c ↔ (p - c).toNat ≠ 0 := by
  have hsub : p - c = 0#64 ↔ p = c := by rw [BitVec.sub_eq_iff_eq_add, BitVec.zero_add]
  exact (not_congr hsub).symm.trans BitVec.toNat_ne

theorem posAhead_iff (p c : W64) : posAhead p c = true ↔ (p - c).toNat ≠ 0 ∧ (p - c).toNat < 2 ^ 63 := by
  rw [← position_ne_iff_toNat_sub_ne_zero, posAhead, Bool.and_eq_true, decide_eq_true_iff, decide_eq_true_iff]

/-- Settles O6: `posAhead` bounds the distance around the circle, and that distance is the difference modulo 2^64. -/
theorem positionsCompareModulo : Obligations.PositionsCompareModulo := by
  intro p c
  rw [← toNat_sub_position]
  exact posAhead_iff p c

end Sys2Proof.Machine
end

/-! ### A refused copy (R401, R408): the answer is all that a refused command leaves -/

section
namespace Sys2Proof.Machine

theorem exec_commandCopy (m : Mb) (s : State) : exec (.commandCopy m) s = .next (s.commandCopy m) := rfl

/-- R408, and R412 before it: a wrong TOKEN refuses the copy whatever the rest of the header says. -/
theorem State.copyRefusal_of_token_ne {s : State} {m : Mb} {token : Nat} (r : Running) (htoken : token ≠ (s.box m).token.toNat) :
    s.copyRefusal m r token =
      some (if s.mbx.reloading then .busy else .notOwner, if s.mbx.reloading then 8 else 3) := by
  unfold State.copyRefusal
  cases s.mbx.reloading with
  | true => rfl
  | false => exact if_pos htoken

/-- Where the copy of R401 takes place, a refused command leaves the order of execution and is answered. -/
theorem State.commandCopy_of_copyRefusal_eq_some {s : State} {m : Mb} {c : Code} {d : Nat} (hposted : (s.box m).st = .posted)
    (hidle : (s.box m).run = none) (hready : s.boxReady m = true) (hserving : s.flt.lockstep = false)
    (hrefused : s.copyRefusal m (s.box m).copied (rdLE (s.box m).cmd 0xC 4) = some (c, d)) :
    s.commandCopy m = (s.took m).respond m (s.box m).copied c d [] := by
  simp [State.commandCopy, hposted, hidle, hready, hserving, hrefused]

/-- Settles O2: the wrong TOKEN refuses the copy, and a refused command is only taken out of the order and answered. -/
theorem badTokenHasNoEffect : Obligations.BadTokenHasNoEffect := by
  intro m s hposted hidle hready hserving htoken
  have hrefused := State.copyRefusal_of_token_ne (s.box m).copied htoken
  rw [exec_commandCopy, State.commandCopy_of_copyRefusal_eq_some hposted hidle hready hserving hrefused]

end Sys2Proof.Machine
end
